-- ==== Sys2Proof/Word.lean ====
section
/-! DEFINITION. The word types of the Galieg GX960 and the type of sparse stores (R2, R33, R39). -/

namespace Sys2Proof

/-- One byte of memory. -/
abbrev Byte := BitVec 8
/-- A 32-bit word, the unit of register space, scratchpad and accumulator SRAM (R39). -/
abbrev Word := BitVec 32
/-- A 64-bit word: a scalar register, an address, a system register (R33, R41). -/
abbrev DWord := BitVec 64
/-- A tail: g at bit 2, r at bit 1, s at bit 0 (R39). -/
abbrev Tail := BitVec 3
/-- A set of the 96 lanes of a group, bit i for lane i (R34). -/
abbrev Lanes := BitVec 96

/-- A tail-bearing 32-bit word (R39). -/
structure TWord where
  val  : Word
  tail : Tail
deriving DecidableEq, Repr

/-- A tail-bearing 64-bit value: a scalar register with its tail (R33). -/
structure TVal where
  val  : DWord
  tail : Tail
deriving DecidableEq, Repr

/-- The word that every byte of fresh register space, scratchpad or accumulator SRAM shows: zero with a
zero tail (R25, R278, R423). -/
def TWord.zero : TWord := ⟨0, 0⟩

/-- A scalar at launch: zero with a zero tail (R36). -/
def TVal.zero : TVal := ⟨0, 0⟩

/-- A sparse store: pairs of a key and a value, keys strictly rising, no value equal to what an unlisted
key reads as. For bytes this is a list of Host.Cell. -/
abbrev Sparse (α : Type) := List (Nat × α)

end Sys2Proof
end

