-- ==== Sys2Proof/Machine/Store.lean ====
section
/-! DEFINITION. Sparse stores: the one form in which memories, register files and tables are held, their
read and write, and multi-byte values in little-endian order (R2). -/

namespace Sys2Proof.Machine

/-- What a store holds at a key; an unlisted key reads as the default `d`. -/
def Store.get {α : Type} (d : α) : Sparse α → Nat → α
  | [], _ => d
  | (k, v) :: m, a => if a = k then v else Store.get d m a

/-- Put a value at a key without looking at the default: the pair replaces or enters in key order. -/
def Store.put {α : Type} (a : Nat) (x : α) : Sparse α → Sparse α
  | [] => [(a, x)]
  | (k, v) :: m => if a = k then (a, x) :: m else if a < k then (a, x) :: (k, v) :: m else (k, v) :: Store.put a x m

/-- Drop a key. -/
def Store.erase {α : Type} (a : Nat) : Sparse α → Sparse α
  | [] => []
  | (k, v) :: m => if a = k then Store.erase a m else (k, v) :: Store.erase a m

/-- Write: the canonical form lists no entry that equals the default. -/
def Store.set {α : Type} [DecidableEq α] (d : α) (m : Sparse α) (a : Nat) (x : α) : Sparse α :=
  if x = d then Store.erase a m else Store.put a x m

/-- The canonical form: keys strictly rising, no entry equal to the default. -/
def Store.wf {α : Type} [DecidableEq α] (d : α) : Sparse α → Bool
  | [] => true
  | (k, v) :: m => v != d && (match m with | [] => true | (k', _) :: _ => decide (k < k')) && Store.wf d m

/-- The memory of bytes: an unlisted address reads as zero, the content after the wipe of a device reset
(R423). -/
abbrev Memory := Sparse Byte

/-- One byte of a memory. -/
def Memory.byte (m : Memory) (a : Nat) : Byte := Store.get 0 m a

/-- One byte written. -/
def Memory.setByte (m : Memory) (a : Nat) (x : Byte) : Memory := Store.set 0 m a x

/-- The canonical form of a memory. -/
def Memory.wf (m : Memory) : Bool := Store.wf (0 : Byte) m

/-- `n` bytes from address `a`, lowest first. -/
def Memory.bytes (m : Memory) (a : Nat) : Nat → List Byte
  | 0 => []
  | n + 1 => m.byte a :: Memory.bytes m (a + 1) n

/-- A list of bytes written from address `a` upward. -/
def Memory.setBytes (m : Memory) (a : Nat) : List Byte → Memory
  | [] => m
  | x :: xs => Memory.setBytes (m.setByte a x) (a + 1) xs

/-- The little-endian value of bytes, lowest first (R2). -/
def leValue : List Byte → Nat
  | [] => 0
  | x :: xs => x.toNat + 256 * leValue xs

/-- The `n` bytes of a value, lowest first (R2). -/
def leBytes : Nat → Nat → List Byte
  | 0, _ => []
  | n + 1, v => BitVec.ofNat 8 v :: leBytes n (v / 256)

/-- The unsigned value of `n` bytes at `a`. -/
def Memory.read (m : Memory) (a n : Nat) : Nat := leValue (m.bytes a n)

/-- The low `n` bytes of a value written at `a`. -/
def Memory.write (m : Memory) (a n v : Nat) : Memory := m.setBytes a (leBytes n v)

end Sys2Proof.Machine
end

