-- ==== Sys2Proof/Machine/Crypto.lean ====
section
/-! DEFINITION. The published functions behind sealed records (R8, R424): SHA-512 (FIPS 180-4), HKDF
(RFC 5869), AES-256 on one block (FIPS 197), and behind attestation and boot (R8, R421, R422): ECDSA on P-521 (FIPS 186-5). -/

namespace Sys2Proof.Machine

/-! ### SHA-512 -/

/-- The greatest r below `2 ^ n` whose k-th power does not exceed x, found bit by bit from the highest. -/
def rootBits (k x : Nat) : Nat → Nat → Nat
  | 0, r => r
  | n + 1, r => rootBits k x n (if (r + 2 ^ n) ^ k ≤ x then r + 2 ^ n else r)

/-- The first 64 bits of the fractional part of the k-th root of p. -/
def rootFraction (k p : Nat) : BitVec 64 := BitVec.ofNat 64 (rootBits k (p * 2 ^ (64 * k)) 70 0)

/-- The primes below `n`, in order. -/
def primesBelow (n : Nat) : List Nat :=
  (List.range n).filter fun p => 2 ≤ p && (List.range p).all fun d => d < 2 || p % d != 0

/-- The eighty round constants: cube roots of the first eighty primes. -/
def shaK : List (BitVec 64) := (primesBelow 410).map (rootFraction 3)

/-- The initial hash value: square roots of the first eight primes. -/
def shaInit : List (BitVec 64) := (primesBelow 20).map (rootFraction 2)

/-- The next word of the message schedule, from the sixteen before it, oldest first. -/
def shaNextWord (w : List (BitVec 64)) : BitVec 64 :=
  let x1 := w.getD 1 0
  let x14 := w.getD 14 0
  let s0 := x1.rotateRight 1 ^^^ x1.rotateRight 8 ^^^ (x1 >>> 7)
  let s1 := x14.rotateRight 19 ^^^ x14.rotateRight 61 ^^^ (x14 >>> 6)
  w.getD 0 0 + s0 + w.getD 9 0 + s1

/-- One round on the working variables. -/
def shaRound (v : List (BitVec 64)) (k w : BitVec 64) : List (BitVec 64) :=
  match v with
  | [a, b, c, d, e, f, g, h] =>
    let t1 := h + (e.rotateRight 14 ^^^ e.rotateRight 18 ^^^ e.rotateRight 41) + ((e &&& f) ^^^ (~~~e &&& g)) + k + w
    let t2 := (a.rotateRight 28 ^^^ a.rotateRight 34 ^^^ a.rotateRight 39) + ((a &&& b) ^^^ (a &&& c) ^^^ (b &&& c))
    [t1 + t2, a, b, c, d + t1, e, f, g]
  | _ => v

/-- The rounds of one block: the constants left, the working variables, the window of sixteen schedule words. -/
def shaRounds : List (BitVec 64) → List (BitVec 64) → List (BitVec 64) → List (BitVec 64)
  | [], v, _ => v
  | k :: ks, v, w => shaRounds ks (shaRound v k (w.getD 0 0)) (w.drop 1 ++ [shaNextWord w])

/-- A big-endian 64-bit word of bytes. -/
def beWord (bs : List Byte) : BitVec 64 := bs.foldl (fun acc b => acc <<< 8 ||| b.setWidth 64) 0

/-- The bytes of a 64-bit word, highest first. -/
def beBytes (w : BitVec 64) : List Byte := (List.range 8).map fun i => w.extractLsb' (56 - 8 * i) 8

/-- One block of 128 bytes. -/
def shaBlock (h : List (BitVec 64)) (blk : List Byte) : List (BitVec 64) :=
  let w := (List.range 16).map fun i => beWord ((blk.drop (8 * i)).take 8)
  (h.zip (shaRounds shaK h w)).map fun p => p.1 + p.2

/-- The blocks of a padded message. -/
def shaBlocks : Nat → List (BitVec 64) → List Byte → List (BitVec 64)
  | 0, h, _ => h
  | n + 1, h, m => shaBlocks n (shaBlock h (m.take 128)) (m.drop 128)

/-- SHA-512 of a message of bytes (FIPS 180-4). -/
def sha512 (m : List Byte) : List Byte :=
  let padLen := 127 - (m.length + 16) % 128
  let padded := m ++ [0x80] ++ List.replicate padLen 0 ++ List.replicate 8 0 ++ beBytes (BitVec.ofNat 64 (8 * m.length))
  (shaBlocks (padded.length / 128) shaInit padded).flatMap beBytes

/-! ### HMAC and HKDF -/

/-- HMAC with SHA-512; every key here is at most 128 bytes long. -/
def hmac512 (key msg : List Byte) : List Byte :=
  let k := key ++ List.replicate (128 - key.length) 0
  sha512 (k.map (· ^^^ 0x5c) ++ sha512 (k.map (· ^^^ 0x36) ++ msg))

/-- HKDF with SHA-512 and an output of 32 bytes (RFC 5869). -/
def hkdf32 (ikm salt info : List Byte) : List Byte := (hmac512 (hmac512 salt ikm) (info ++ [1])).take 32

/-! ### AES-256 -/

/-- Multiplication by x in the field of AES. -/
def aesDouble (b : Byte) : Byte := (b <<< 1) ^^^ (if b.getLsbD 7 then 0x1b else 0)

/-- A byte times the n-th power of x in the field of AES. -/
def aesUp (a : Byte) : Nat → Byte
  | 0 => a
  | n + 1 => aesDouble (aesUp a n)

/-- Multiplication in the field of AES; the second factor is read from its `n` low bits. -/
def aesMul (a b : Byte) : Nat → Byte
  | 0 => 0
  | n + 1 => (if b.getLsbD n then aesUp a n else 0) ^^^ aesMul a b n

/-- A power in the field of AES with an exponent of 2 ^ (n + 1) - 2: the inverse for n = 7, and 0 for 0. -/
def aesPower (a : Byte) : Nat → Byte
  | 0 => 1
  | n + 1 => let p := aesMul (aesPower a n) a 8; aesMul p p 8

/-- The S-box: the inverse in the field, then the affine map of FIPS 197. -/
def aesSub (b : Byte) : Byte :=
  let x := aesPower b 7
  x ^^^ x.rotateLeft 1 ^^^ x.rotateLeft 2 ^^^ x.rotateLeft 3 ^^^ x.rotateLeft 4 ^^^ 0x63

/-- The words of the key schedule, newest first, grown to `n` more words; `rc` is the round constant. -/
def aesGrow : Nat → List (List Byte) → Byte → List (List Byte)
  | 0, ws, _ => ws
  | n + 1, ws, rc =>
    let prev := ws.headD []
    let old := ws.getD 7 []
    let i := ws.length
    let t := if i % 8 = 0 then
        match prev.map aesSub with
        | [a, b, c, d] => [b ^^^ rc, c, d, a]
        | x => x
      else if i % 8 = 4 then prev.map aesSub else prev
    aesGrow n (((old.zip t).map fun p => p.1 ^^^ p.2) :: ws) (if i % 8 = 0 then aesDouble rc else rc)

/-- The fifteen round keys of AES-256, 16 bytes each. -/
def aesKeys (key : List Byte) : List (List Byte) :=
  let w0 := (List.range 8).map fun i => (key.drop (4 * i)).take 4
  let ws := (aesGrow 52 w0.reverse 1).reverse
  (List.range 15).map fun r => ((ws.drop (4 * r)).take 4).flatMap id

/-- ShiftRows on a block held column by column. -/
def aesShift (s : List Byte) : List Byte :=
  (List.range 16).map fun i => s.getD ((i + 4 * (i % 4)) % 16) 0

/-- MixColumns on one column. -/
def aesMixCol (c : List Byte) : List Byte :=
  (List.range 4).map fun i =>
    let a := c.getD i 0
    let b := c.getD ((i + 1) % 4) 0
    aesDouble a ^^^ (aesDouble b ^^^ b) ^^^ c.getD ((i + 2) % 4) 0 ^^^ c.getD ((i + 3) % 4) 0

/-- MixColumns. -/
def aesMix (s : List Byte) : List Byte := (List.range 4).flatMap fun c => aesMixCol ((s.drop (4 * c)).take 4)

/-- Two lists of bytes added in the field. -/
def xorBytes (a b : List Byte) : List Byte := (a.zip b).map fun p => p.1 ^^^ p.2

/-- The rounds after the first key addition; the last one mixes no columns. -/
def aesRounds : List (List Byte) → List Byte → List Byte
  | [], s => s
  | [k], s => xorBytes (aesShift (s.map aesSub)) k
  | k :: ks, s => aesRounds ks (xorBytes (aesMix (aesShift (s.map aesSub))) k)

/-- AES-256 of one block of 16 bytes (FIPS 197). -/
def aes256 (key block : List Byte) : List Byte :=
  match aesKeys key with
  | [] => block
  | k :: ks => aesRounds ks (xorBytes block k)

/-! ### ECDSA on P-521 (FIPS 186-5) -/

namespace P521

/-- The prime of the field. -/
def prime : Nat := 2 ^ 521 - 1
/-- The order of the base point. -/
def order : Nat := 2 ^ 521 - 0x5ae79787c40d069948033feb708f65a2fc44a36477663b851449048e16ec79bf7
/-- The base point. -/
def baseX : Nat := 0xc6858e06b70404e9cd9e3ecb662395b4429c648139053fb521f828af606b4d3dbaa14b5e77efe75928fe1dc127a2ffa8de3348b3c1856a429bf97e7e31c2e5bd66
/-- The base point's second coordinate. -/
def baseY : Nat := 0x11839296a789a3bc0045c8a5fb42c7d1bd998f54449579b446817afbd17273e662c97ee72995ef42640c550b9013fad0761353c7086a272c24088be94769fd16650

end P521

/-- `b ^ e` modulo m, from the `n` low bits of e. -/
def powMod (m b : Nat) : Nat → Nat → Nat
  | 0, _ => 1
  | n + 1, e =>
    let h := powMod m b n (e / 2)
    h * h % m * (if e % 2 = 1 then b else 1) % m

/-- The inverse modulo a prime of at most 521 bits. -/
def invMod (m a : Nat) : Nat := powMod m (a % m) 521 (m - 2)

/-- A point of the curve y² = x³ − 3x + b; none is the point at infinity. -/
abbrev CurvePoint := Option (Nat × Nat)

/-- The third point on the line of slope s through a point with coordinate x1 and y1 and one with coordinate x2, reflected. -/
def chord (s x1 y1 x2 : Nat) : CurvePoint :=
  let p := P521.prime
  let x := (s * s + 2 * p - x1 - x2) % p
  some (x, (s * (x1 + p - x) + p - y1) % p)

/-- The sum of two points. -/
def pointAdd (a b : CurvePoint) : CurvePoint :=
  let p := P521.prime
  match a, b with
  | none, q => q
  | q, none => q
  | some (x1, y1), some (x2, y2) =>
    if x1 ≠ x2 then chord ((y2 + p - y1) * invMod p (x2 + p - x1) % p) x1 y1 x2
    else if (y1 + y2) % p = 0 then none
    else chord ((3 * x1 * x1 + p - 3) * invMod p (2 * y1) % p) x1 y1 x2

/-- A point times a number, from the number's `n` low bits. -/
def pointMul (a : CurvePoint) : Nat → Nat → CurvePoint
  | 0, _ => none
  | n + 1, k =>
    let h := pointMul a n (k / 2)
    let d := pointAdd h h
    if k % 2 = 1 then pointAdd d a else d

/-- The base point times a number. -/
def baseMul (k : Nat) : CurvePoint := pointMul (some (P521.baseX, P521.baseY)) 521 k

/-- The value of bytes, highest first. -/
def beValue (bs : List Byte) : Nat := bs.foldl (fun acc b => acc * 256 + b.toNat) 0

/-- The number that signs a message: its SHA-512 digest, which has fewer bits than the order. -/
def digestNumber (msg : List Byte) : Nat := beValue (sha512 msg)

/-- The signature of a message with private key d and per-message number k, both between 1 and the order less 1: r and s. -/
def ecdsaSign (d k : Nat) (msg : List Byte) : Nat × Nat :=
  let n := P521.order
  let r := match baseMul k with
    | some q => q.1 % n
    | none => 0
  (r, invMod n k * (digestNumber msg + r * d) % n)

/-- Is (r, s) a signature of the message under the public key? -/
def ecdsaVerify (key : CurvePoint) (msg : List Byte) (r s : Nat) : Bool :=
  let n := P521.order
  let w := invMod n s
  let q := pointAdd (baseMul (digestNumber msg * w % n)) (pointMul key 521 (r * w % n))
  1 ≤ r && r < n && 1 ≤ s && s < n && match q with
    | some x => x.1 % n == r
    | none => false

/-! ### Sealing (R424) -/

/-- The record key of a context: HKDF of its tenant key with the device id and the ASID as salt. -/
def recordKey (tenant : BitVec 256) (device asid : BitVec 16) : List Byte :=
  hkdf32 (leBytes 32 tenant.toNat) (leBytes 2 device.toNat ++ leBytes 2 asid.toNat)
    [0x43, 0x4f, 0x4e, 0x54, 0x52, 0x41, 0x49, 0x4c]

/-- A record's payload encrypted under the record key: XOR with the first 12 bytes of AES-256 of the tag and
8 zero bytes. -/
def sealPayload (key : List Byte) (tag : DWord) (payload : BitVec 96) : BitVec 96 :=
  let pad := aes256 key (leBytes 8 tag.toNat ++ List.replicate 8 0)
  BitVec.ofNat 96 (leValue (xorBytes (leBytes 12 payload.toNat) (pad.take 12)))

end Sys2Proof.Machine
end

