-- ==== Sys2Proof/Syntax.lean ====
section
/-! DEFINITION. The instructions and the autonomous steps of the Galieg GX960: one constructor of `Instr`
for every row of the opcode table (R53 to R64, R77, and the file 95). -/

namespace Sys2Proof

/-- The element types of R54. -/
inductive Ty where
  | i32 | n32 | i64 | n64 | i16 | n16 | i8 | n8
  | f32 | f64 | f16 | bf16 | f8e4 | f8e5 | f4 | rns
deriving DecidableEq, Repr

/-- The guard of an instruction: GN and GP (R53, R55). -/
structure Guard where
  neg  : Bool
  pred : Fin 32
deriving DecidableEq, Repr

/-- A lane pattern of a vector source (R60). -/
inductive Pattern where
  | ident
  | rot (k : Fin 96)
  | bc (k : Fin 96)
  | bf (k : Fin 96)
  | mir
  | mirb
  | sh (k : Fin 96)
  | beat (k : Fin 3)
deriving DecidableEq, Repr

/-- A destination field (R58). A vector index is checked against VIEW.V when the instruction runs. The
all-zero field of an instruction without a destination is `vec 0`. -/
inductive Dst where
  | vec (n : BitVec 8)
  | scal (n : Fin 64)
  | pred (n : Fin 32)
  | special (n : BitVec 8)
deriving DecidableEq, Repr

/-- A source field (R59). `special` keeps bits [9:0], which only the ranges of `rgn` use (R323). The
all-zero field of an unused source is `vec 0 ident`. -/
inductive Src where
  | vec (n : BitVec 8) (p : Pattern)
  | scal (n : Fin 64)
  | imm (v : BitVec 18)
  | special (n : BitVec 8) (low : BitVec 10)
deriving DecidableEq, Repr

/-- The fields of a modifier word (R64). -/
structure Mods where
  negA : Bool
  absA : Bool
  negB : Bool
  absB : Bool
  negC : Bool
  absC : Bool
  sat  : Bool
  clp  : Bool
  clo  : Fin 64
  chi  : Fin 64
  scl  : BitVec 8
  rmo  : Fin 7
  ext  : BitVec 48
deriving DecidableEq, Repr

/-- CT of `icmp` and `fcmp`: how the result combines with the destination predicate (R57). -/
inductive Combine where
  | set | and | or
deriving DecidableEq, Repr

/-- The cache hint of Format M (R62, R210). -/
inductive Hint where
  | normal | stream | keep | nol1
deriving DecidableEq, Repr

/-- The scope of a memory operation (R62, R226). -/
inductive Scope where
  | team | cluster | device | system
deriving DecidableEq, Repr

/-- The order of a memory operation (R62). -/
inductive MemOrder where
  | plain | acquire | release | acqrel
deriving DecidableEq, Repr

/-- An instruction of Format V (R57). -/
structure VForm where
  g  : Guard
  ty : Ty
  fn : BitVec 4
  ct : Combine
  d  : Dst
  a  : Src
  b  : Src
  c  : Src
  m  : Option Mods
deriving DecidableEq, Repr

/-- An instruction of Format I (R61). -/
structure IForm where
  g   : Guard
  ty  : Ty
  d   : Dst
  a   : Src
  imm : BitVec 40
  m   : Option Mods
deriving DecidableEq, Repr

/-- An instruction of Format M (R62). -/
structure MForm where
  g     : Guard
  ty    : Ty
  fn    : BitVec 4
  hint  : Hint
  d     : Dst
  a     : Src
  b     : Src
  scope : Scope
  order : MemOrder
  off   : BitVec 16
  m     : Option Mods
deriving DecidableEq, Repr

/-- An instruction of Format B (R63). -/
structure BForm where
  g    : Guard
  uni  : Bool
  d    : Dst
  a    : Src
  disp : BitVec 40
deriving DecidableEq, Repr

/-- The signature of a collective (R349). -/
structure Sig where
  tplid : BitVec 32
  count : BitVec 32
  ty    : BitVec 4
  op    : BitVec 3
deriving DecidableEq, Repr

/-- The times that decide how old a request is (R338): of its first transmission, which the request carries, and of its arrival here. -/
structure ReqTimes where
  first : BitVec 64
  now   : BitVec 64
deriving DecidableEq, Repr

/-- A packet of chunk data that the Skippers exchange (R346, R349). Ranks are numbers of the communicator's members. -/
structure ChunkFlit where
  comm  : Nat
  seq   : BitVec 32
  src   : Nat              -- sending rank
  ordinal : Nat            -- k-th SEND of the sender towards this member (R346)
  len   : Nat              -- chunk length in elements, carried by the first packet (R346)
  sig   : Sig              -- the sender's signature (R349)
  data  : List (BitVec 8)  -- the next bytes of the chunk
  tag   : BitVec 64        -- causal tag (R342)
  dev   : BitVec 16        -- source device of its header (R332)
  reqId : BitVec 64        -- its request id (R338)
  times : ReqTimes
deriving DecidableEq, Repr

/-- The rank that sends a packet of a collective, with its signature (R349); none: the sequence is not in progress there. -/
structure Sender where
  rank : Nat
  sig  : Option Sig
deriving DecidableEq, Repr

/-- The answer of a probed rank (R360): the awaited ranks of its pending steps; or its gate object, numbered as R357 does, and the
lowest awaited group. -/
inductive Answer where
  | blocked (ranks : List Nat)
  | notIssued
  | localParty (gate group : Nat)
  | done
deriving DecidableEq, Repr

/-- A write, atomic, reduction or load that a peer device asks of this device (R335, R338); an atomic carries the rounding
that its issuer has prepared. -/
inductive PeerOp where
  | load
  | store
  | atomic (fn : BitVec 4) (ty : Ty) (mode : Fin 6) (draw : BitVec 32) (daz ftz : Bool)
deriving DecidableEq, Repr

/-- The credit that a ready RECV grants to the matching SEND of its peer (R346): the granting rank with its signature (R349) and the
SEND's number towards it. -/
structure Credit where
  comm    : Nat
  seq     : BitVec 32
  src     : Nat
  ordinal : Nat
  sig     : Sig
deriving DecidableEq, Repr

/-- The header of a flit (R332). The codes of KIND and the meaning of the flags are not given (log entry 87). -/
structure FlitHead where
  dst     : BitVec 16
  src     : BitVec 16
  linkSeq : BitVec 24
  ack     : BitVec 8       -- acknowledgement credit
  tag     : BitVec 64
  reqId   : BitVec 64
  kind    : BitVec 8
  bytes   : BitVec 8       -- payload bytes in this flit
  flags   : BitVec 16
deriving DecidableEq, Repr

/-- A firmware image of R421 as it is offered at boot: its bytes, its SHA-512 digest, the public key and the signature over the digest. -/
structure BootImage where
  bytes  : List (BitVec 8)
  digest : BitVec 512
  keyX   : BitVec 528
  keyY   : BitVec 528
  sigR   : BitVec 528
  sigS   : BitVec 528
deriving DecidableEq, Repr

/-- Where a check finds an error that it cannot correct (R426): a byte of HBM or of Stratus, a word of a core's scratchpad or of a
pair's accumulators, or a register of a group: a scalar, a word of a vector, a predicate, the held join stack. -/
inductive ErrSite where
  | hbm (byte : Nat)
  | stratus (off : Nat)
  | lpddr (byte : Nat)
  | l1 (core pa : Nat)
  | scratch (core word : Nat)
  | accum (pair word : Nat)
  | scalar (grp n : Nat)
  | vector (grp n lane : Nat)
  | predicate (grp n : Nat)
  | joinStack (grp : Nat)
deriving DecidableEq, Repr

/-- What a check finds (R426): an error that it corrects, of a unit of the hop, or one that it cannot correct. -/
inductive ErrFound where
  | corrected (unit : Nat)
  | lost (site : ErrSite)
deriving DecidableEq, Repr

/-- What system software gives a context when it creates it: its privilege (bit 0: groups start in supervisor mode may be
asked for; bit 1: a debug context), its page-table root (R199), the two words of its stack reserve (R196), its home areas (base
and bytes of one), the aperture bases on a core (R192), and its tenant key by words (R424). -/
inductive CtxItem where
  | create | remove | root | reserveNext | reserveEnd | home | homeSize
  | aperture (core : Fin 256) (which : Fin 3)
  | key (word : Fin 4)
deriving DecidableEq, Repr

/-- What a write of system software to the management window may name. The manual gives the window's content, and of queue
and communicator records the layout by words; the places in the window are not given and play no part (log entry 29). -/
inductive MgmtReg where
  | queue (q : Fin 2048) (word : Fin 4)             -- queue descriptors (R298)
  | comm (c : Fin 4096) (word : Fin 4)              -- communicator records (R343)
  | route (dev : BitVec 16)                         -- the route table (R334)
  | attach (ctx : BitVec 16) | detach (ctx : BitVec 16)   -- attach lists (R374): the value names the ASID
  | dumpMask (ctx : BitVec 16)                      -- R391
  | dumpRequest (ctx : BitVec 16) (word : Fin 8)    -- R391, with the layout of R389
  | sampling (die : Fin 4)                          -- R388: EN in [0], k in [5:1]
  | quantum (ctx : BitVec 16)                       -- R318
  | budget                                          -- R429
  | deferArea (ctx : BitVec 16)                     -- entries of the deferral area (R320)
  | overflow | overflowBase                         -- entries of the ready overflow, and the region's base (R307)
  | operatorKey (word : Fin 8)                      -- the digest of the operator key (R421)
  | stratus (word : Fin (2 ^ 28))                   -- eight bytes that the control processor writes to Stratus (R272)
  | counter (k : Nat)                               -- a counter, which a write clears (R87)
  | context (ctx : BitVec 16) (item : CtxItem)      -- what creates a context (log entry 29)
deriving DecidableEq, Repr

/-- The fault codes of R367. -/
inductive FCode where
  | illegal | reserved | operand | privilege | align | aperture | page | protect | atomicPath
  | spillLimit | joinMismatch | fp | barrierClobber | countUnder | depth | determinism
  | matrixLost | matrixOwner | collMismatch | watchdog | dataLost | outcomeUnknown | swTrap | coreLost
deriving DecidableEq, Repr

/-- One row of the opcode table each. The first 161 constructors are instructions, and the form they carry
is that of R77. `unassignedOpcode` is the word whose OP or FN is unassigned. The other constructors are the
steps the machine takes by itself or that the outside world makes it take; their arguments say where the
step takes place and what arrives from outside. -/
inductive Instr where
  -- control and predicates (04)
  | nop (f : VForm) | bra (f : BForm) | brx (f : BForm) | call (f : BForm) | callx (f : BForm)
  | ret (f : BForm) | mark (f : BForm) | join (f : VForm) | exit (f : VForm) | loop (f : BForm)
  | elect (f : VForm) | vote (f : VForm) | plog (f : VForm)
  | pmovPv (f : VForm) | pmovVp (f : VForm) | pmovPm (f : VForm) | pmovMp (f : VForm)
  | tbar (f : VForm) | sleep (f : IForm) | yield (f : VForm)
  -- integer, address and residue (05)
  | iadd (f : VForm) | isub (f : VForm) | imul (f : VForm) | imulh (f : VForm) | imad (f : VForm)
  | idiv (f : VForm) | irem (f : VForm) | imin (f : VForm) | imax (f : VForm) | icmp (f : VForm)
  | isel (f : VForm) | and (f : VForm) | or (f : VForm) | xor (f : VForm) | not (f : VForm)
  | shl (f : VForm) | shr (f : VForm) | sar (f : VForm) | rot (f : VForm)
  | clz (f : VForm) | popc (f : VForm) | brev (f : VForm) | bfx (f : VForm) | bfi (f : VForm)
  | lea (f : VForm) | icvt (f : VForm) | mov (f : VForm) | movi (f : IForm) | dp4 (f : VForm)
  | rnsEnc (f : VForm) | rns (f : VForm) | rnsDec (f : VForm)
  -- conversion and tails (06)
  | fcvt (f : VForm) | settle (f : VForm) | f2i (f : VForm) | i2f (f : VForm) | frnd (f : VForm)
  | fclass (f : VForm) | fscale (f : VForm) | fxtrExp (f : VForm) | fxtrSig (f : VForm)
  | tget (f : VForm) | tset (f : VForm) | fpcr (f : VForm) | fpcw (f : VForm)
  | fpack (f : VForm) | funpk (f : VForm)
  -- float arithmetic (07)
  | fadd (f : VForm) | fsub (f : VForm) | fmul (f : VForm) | fma (f : VForm) | fdiv (f : VForm)
  | fsqrt (f : VForm) | fmin (f : VForm) | fmax (f : VForm) | fcmp (f : VForm) | fcmpRaw (f : VForm)
  | frcp (f : VForm) | frsq (f : VForm) | fexp2 (f : VForm) | flog2 (f : VForm)
  | fsinpi (f : VForm) | fcospi (f : VForm) | ftanh (f : VForm) | fdot2 (f : VForm) | rnd (f : VForm)
  -- cross-lane (08)
  | shfl (f : VForm) | rdc (f : VForm) | scan (f : VForm) | ballot (f : VForm)
  | matchAny (f : VForm) | matchAll (f : VForm) | isectM (f : VForm) | isectAdv (f : VForm)
  | cmpct (f : VForm) | expd (f : VForm) | lsort (f : VForm)
  -- memory access (09)
  | ld (f : MForm) | st (f : MForm) | atom (f : MForm) | red (f : MForm) | spst (f : MForm)
  | spld (f : MForm) | prf (f : MForm) | cinvLine (f : MForm) | cinvAll (f : MForm) | xlp (f : MForm)
  | tlbiRange (f : VForm) | tlbiAsid (f : VForm) | ggen (f : VForm)
  -- ordering (10)
  | fence (f : MForm) | stsig (f : MForm)
  -- asynchronous copy, streams, barriers (11)
  | tcLd (f : VForm) | tcSt (f : VForm) | tcRingFill (f : VForm) | tcRingDrain (f : VForm)
  | tcStop (f : VForm) | slTake (f : VForm) | slGive (f : VForm) | waitPath (f : VForm)
  | pcnt (f : VForm) | abInit (f : VForm) | abArrive (f : VForm) | abWait (f : VForm)
  | abTry (f : VForm) | abInval (f : VForm) | stw (f : VForm)
  -- matrix (12)
  | mxAcq (f : VForm) | mxRel (f : VForm) | mxMma (f : VForm) | mxLd (f : VForm) | mxSt (f : VForm)
  | mxZero (f : VForm) | mxQ (f : VForm)
  -- tasks, launch, regions (13)
  | rgn (f : VForm) | launch (f : VForm) | tcbd (f : VForm) | qpush (f : VForm) | poll (f : MForm)
  | dwait (f : VForm) | clk (f : VForm) | cwait (f : VForm)
  -- collectives (14)
  | clGo (f : VForm) | clCk (f : VForm) | clAbort (f : VForm) | awr (f : VForm) | clTpl (f : VForm)
  -- system and debug (15)
  | trap (f : VForm) | rfe (f : VForm) | srd (f : VForm) | swr (f : VForm) | halt (f : VForm)
  | haltTeam (f : VForm) | antSet (f : VForm) | antGet (f : VForm) | inspRd (f : VForm)
  | inspWr (f : VForm) | step (f : VForm) | resume (f : VForm) | evt (f : VForm) | cdmp (f : VForm)
  -- scheduler and memory steps
  | pendingForcedSwap (core quad : Nat) | sleepExpiry (grp : Nat) | pollBackoffExpiry (grp : Nat)
  | loadDataReturn (grp : Nat) | writeAcknowledge (grp : Nat)
  | translationWalk (asid : BitVec 16) (va : DWord)
  | tlbiComplete (grp : Nat) | ggenComplete (grp : Nat)
  | joinStackSpill (grp : Nat) | joinStackFill (grp : Nat)
  -- copy engine and matrix steps
  | tcAccept (grp : Nat) | tcComplete (core : Nat) | tcReplayableFault (core : Nat) | tcReplay (core : Nat)
  | tcAbandon (core : Nat) | ringTile (core rec : Nat)
  | mxOpBegin (pair : Nat) | mxOpRetire (pair : Nat) | matrixWatchdog (pair : Nat) | matrixResetEnd (pair : Nat)
  -- checkpoints, barriers, pre-emption
  | checkpointComplete (grp : Nat) | tbarWaitRecord (grp : Nat) | abWaitRecord (grp : Nat)
  | stratusRefreshWindow (die bank : Nat) (enters : Bool)
  | preemptionLate (grp : Nat) | handlerDeferralExpiry (grp : Nat) | groupRestart (grp : Nat)
  | quantumExpiry (core : Nat) (outgoing incoming : BitVec 16) (cycles : BitVec 32)
  | switchCollectiveAbort (comm : Nat) (seq : BitVec 32)
  | forcedChrysalisSwitch (core : Nat) (asid incoming : BitVec 16) (cycles : BitVec 32)
  -- host and management window
  | doorbellWrite (port q : Nat) (tail : BitVec 32) | queueEnable (q : Nat)
  | mgmtWindowWrite (r : MgmtReg) (value : DWord)
  | attestationRequest (nonce : BitVec 512) | lifecycleCommand (target : BitVec 4)
  -- launcher
  | recordNop (q : Nat) | recordGraph (q : Nat) | recordWait (q : Nat) | waitRecordReread (q : Nat)
  | recordSignal (q : Nat) | teamPlacement (core : Nat) | readyOverflowMove | teamEnd (team : Nat)
  | taskRetire (task : Nat) | coreLost (core : Nat)
  -- collectives
  | chunkFlitReceive (p : ChunkFlit)
  | mismatchNotice (comm : Nat) (seq : BitVec 32) (rankA rankB : Nat) (sigA sigB : Sig) (tag : BitVec 64)
  | abortNotice (comm : Nat) (seq : BitVec 32) (src : Sender) (late : Option Nat) (tag : BitVec 64)
  | collectiveNode (comm : Nat) (seq : BitVec 32) (node : Nat)
  | collectiveComplete (comm : Nat) (seq : BitVec 32) | collectiveGateOpen (comm : Nat) (seq : BitVec 32)
  | collectiveWatchdog (comm : Nat) (seq : BitVec 32) (node : Nat)
  | probe (comm : Nat) (seq : BitVec 32) (fromRank : Sender) (tag : BitVec 64)
  | probeAnswer (comm : Nat) (seq : BitVec 32) (node : Nat) (rank : Sender) (ans : Answer) (tag : BitVec 64)
  | probeTimeout (comm : Nat) (seq : BitVec 32) (node rank : Nat)
  -- fabric
  | flitReceive (port : Nat) (crcOk : Bool) (fec : Nat) (h : FlitHead) (credit : Option Credit)
  | linkReplay (port : Nat) (linkSeq : BitVec 24) | laneRetrain (port lane : Nat) | portDown (port : Nat)
  | peerRequest (port src : Nat) (reqId : BitVec 64) (times : ReqTimes) (op : PeerOp) (pa size : Nat)
      (data : BitVec 128) (cmp : DWord) (tag : BitVec 64)
  | retransmitTimeout (port : Nat) (reqId : BitVec 64) | outcomeUnknown (port : Nat) (reqId : BitVec 64)
  | filterEntryExpiry (port src : Nat) (reqId : BitVec 64)
  | hostPortFailure (port : Nat) | hostLinkRetrain (port : Nat)
  -- observation
  | pcSample (core quad : Nat) | jetstreamDrain (die : Nat) | dropSummary (die : Nat)
  -- time
  | ppsInput (present : Bool) | ptmMeasurement (port : Nat) (offset : BitVec 32) | servoLock (ahead : BitVec 64) (backward : Bool)
  -- power and reliability
  | throttleChange (island : Nat) (cause : BitVec 3) (mhz mv issue : Nat) | islandStateChange (island : Nat) (st : BitVec 2)
  | correctedError (hop : Nat) (found : ErrFound) | pseudoChannelSparing (stack channel : Nat)
  | powerOn (images : List BootImage) | deviceReset (images : List BootImage)
  | unassignedOpcode (w : BitVec 96)
  | hostWrite (port addr : Nat) (data : List (BitVec 8)) (relaxed : Bool)
  | holdover | instructionCacheMissFill (grp : Nat) | coreDumpComplete (grp : Nat)
deriving DecidableEq, Repr

end Sys2Proof
end

