-- ==== Sys2Proof/WellFormed.lean ====
section
/-! DEFINITION. The opcode map of R77 and the encoding checks of orders 2 to 4 of R65 that depend on the
instruction words alone. An instruction is well formed when its words pass them all. -/

namespace Sys2Proof

/-- The kinds of a destination field that an opcode accepts (R58). -/
structure DKinds where
  v : Bool := false
  s : Bool := false
  p : Bool := false
  x : Bool := false
deriving DecidableEq, Repr

/-- The kinds of a source field that an opcode accepts (R59); `z` says that the all-zero field, which
names nothing, is accepted as well. -/
structure SKinds where
  v : Bool := false
  s : Bool := false
  i : Bool := false
  x : Bool := false
  z : Bool := false
deriving DecidableEq, Repr

/-- The TY column of R77: a dash, or a list of codes. -/
inductive TySpec where
  | dash
  | codes (l : List Ty)
deriving DecidableEq, Repr

/-- The Mod column of R77. All false is a dash. -/
structure ModSpec where
  n : Bool := false
  s : Bool := false
  c : Bool := false
  k : Bool := false
  o : Bool := false
  e : Bool := false
deriving DecidableEq, Repr

/-- The formats of R57 and R61 to R63. -/
inductive Fmt where
  | v | i | m | b
deriving DecidableEq, Repr

/-- What R77 and the class chapters give an opcode and function value: format, accepted types, accepted
modifier fields and accepted kinds of each operand field. -/
structure Row where
  fmt  : Fmt
  tys  : TySpec := .dash
  mods : ModSpec := {}
  d    : DKinds := {}
  a    : SKinds := {}
  b    : SKinds := {}
  c    : SKinds := {}
deriving DecidableEq, Repr

/-- A violation: the fault and its DETAIL byte (R65, R367, R392). -/
structure Viol where
  code   : FCode
  detail : BitVec 8
deriving DecidableEq, Repr

/-- The instruction's operand fields in its format. -/
inductive Form where
  | v (f : VForm)
  | i (f : IForm)
  | m (f : MForm)
  | b (f : BForm)
deriving DecidableEq, Repr

end Sys2Proof
end

