-- ==== Sys2Proof/Decode.lean ====
section
/-! DEFINITION. Decoding of instruction words (R52 to R65, R77) and, after it, their encoding. -/

namespace Sys2Proof

/-! ### Codes of the header fields -/

/-- The TY code of R54. -/
def Ty.code : Ty → BitVec 4
  | .i32 => 0x0 | .n32 => 0x1 | .i64 => 0x2 | .n64 => 0x3
  | .i16 => 0x4 | .n16 => 0x5 | .i8 => 0x6 | .n8 => 0x7
  | .f32 => 0x8 | .f64 => 0x9 | .f16 => 0xA | .bf16 => 0xB
  | .f8e4 => 0xC | .f8e5 => 0xD | .f4 => 0xE | .rns => 0xF

/-- The type a TY or FN code names (R54). -/
def Ty.ofCode (c : BitVec 4) : Ty :=
  if c = 0x0 then .i32 else if c = 0x1 then .n32 else if c = 0x2 then .i64 else if c = 0x3 then .n64
  else if c = 0x4 then .i16 else if c = 0x5 then .n16 else if c = 0x6 then .i8 else if c = 0x7 then .n8
  else if c = 0x8 then .f32 else if c = 0x9 then .f64 else if c = 0xA then .f16 else if c = 0xB then .bf16
  else if c = 0xC then .f8e4 else if c = 0xD then .f8e5 else if c = 0xE then .f4 else .rns

/-- The integer types, "int" of R77. -/
def tysInt : List Ty := [.i32, .n32, .i64, .n64, .i16, .n16, .i8, .n8]
/-- The float types, "flt" of R77. -/
def tysFlt : List Ty := [.f32, .f64, .f16, .bf16, .f8e4, .f8e5, .f4]
/-- TY 0x0 to 0x3. -/
def tysWide : List Ty := [.i32, .n32, .i64, .n64]
/-- Every TY. -/
def tysAny : List Ty := tysInt ++ tysFlt ++ [.rns]

/-- True for the integer types. -/
def Ty.isInt (t : Ty) : Bool := tysInt.contains t
/-- True for the float types. -/
def Ty.isFlt (t : Ty) : Bool := tysFlt.contains t
/-- True for the 64-bit types, which occupy a vector pair (R27, R110). -/
def Ty.is64 (t : Ty) : Bool := [Ty.i64, .n64, .f64].contains t

/-! ### The opcode map -/

/-- Vector, scalar and immediate sources. -/
def skVSI : SKinds := { v := true, s := true, i := true }
/-- A vector source. -/
def skV : SKinds := { v := true }
/-- A scalar source. -/
def skS : SKinds := { s := true }
/-- A scalar or immediate source. -/
def skSI : SKinds := { s := true, i := true }
/-- An immediate source. -/
def skI : SKinds := { i := true }
/-- A special source. -/
def skX : SKinds := { x := true }
/-- A special source or the zero field, as `rgn` takes (R323). -/
def skXZ : SKinds := { x := true, z := true }
/-- A vector or scalar destination. -/
def dkVS : DKinds := { v := true, s := true }
/-- A vector destination. -/
def dkV : DKinds := { v := true }
/-- A scalar destination. -/
def dkS : DKinds := { s := true }
/-- A predicate destination. -/
def dkP : DKinds := { p := true }
/-- A predicate or scalar destination. -/
def dkPS : DKinds := { p := true, s := true }
/-- A special destination. -/
def dkX : DKinds := { x := true }

/-- The modifiers N S C K O of R77. -/
def modsNSCKO : ModSpec := { n := true, s := true, c := true, k := true, o := true }
/-- The modifier E of R77. -/
def modsE : ModSpec := { e := true }
/-- The modifiers E and O of R77. -/
def modsEO : ModSpec := { e := true, o := true }

/-- A Format V row with a vector or scalar destination. -/
def vRow (tys : TySpec) (mods : ModSpec) (a b c : SKinds) : Row :=
  { fmt := .v, tys := tys, mods := mods, d := dkVS, a := a, b := b, c := c }

/-- Control-flow and predicate opcodes (R77, chapter 04). -/
def rowControl (op fn : Nat) : Option Row :=
  match op, fn with
  | 0x01, 0 => some { fmt := .v }
  | 0x02, 0 => some { fmt := .b }
  | 0x03, 0 => some { fmt := .b, a := skS }
  | 0x04, 0 => some { fmt := .b, d := dkS }
  | 0x05, 0 => some { fmt := .b, d := dkS, a := skS }
  | 0x06, 0 => some { fmt := .b, a := skS }
  | 0x07, 0 => some { fmt := .b }
  | 0x08, 0 => some { fmt := .v }
  | 0x09, 0 => some { fmt := .v }
  | 0x0A, 0 => some { fmt := .b, d := dkS }
  | 0x0B, 0 => some { fmt := .v, d := dkPS }
  | 0x0C, n => if n < 3 then some { fmt := .v, d := dkPS, a := skX } else none
  | 0x0E, n => if n < 8 then some { fmt := .v, d := dkP, a := skX, b := skX } else none
  | 0x0F, 0 => some { fmt := .v, tys := .codes tysInt, d := dkP, a := skV }
  | 0x0F, 1 => some { fmt := .v, tys := .codes tysInt, d := dkV, a := skX }
  | 0x0F, 2 => some { fmt := .v, d := dkP }
  | 0x0F, 3 => some { fmt := .v, a := skX }
  | 0x10, 0 => some { fmt := .v }
  | 0x11, 0 => some { fmt := .i, a := { s := true, z := true } }
  | 0x12, 0 => some { fmt := .v }
  | _, _ => none

/-- Integer, address and residue opcodes (R77, chapter 05). DESIGN CHOICE: A of `rns.enc` FN 2, which reads a pair or a scalar, may be an
immediate too, as R111 lets it be; A of `lea` may not (log entry 95). -/
def rowInteger (op fn : Nat) : Option Row :=
  let int : TySpec := .codes tysInt
  let wide : TySpec := .codes tysWide
  let sc : ModSpec := { s := true, c := true }
  match op with
  | 0x39 => if fn < 8 then some (vRow (.codes (tysInt.erase (Ty.ofCode (BitVec.ofNat 4 fn)))) { s := true } skVSI {} {}) else none
  | 0x29 => if fn < 6 then some { fmt := .v, tys := int, d := dkP, a := skVSI, b := skVSI } else none
  | 0x3C => if fn < 4 then some (vRow (.codes [.i32]) { s := true } skVSI skVSI skVSI) else none
  | 0x3D => if fn = 0 || fn = 2 then some (vRow (.codes [.rns]) {} skVSI {} {}) else none
  | 0x3E => if fn < 3 then some (vRow (.codes [.rns]) {} skVSI skVSI {})
            else if fn = 3 then some (vRow (.codes [.rns]) {} skVSI skVSI skVSI) else none
  | _ => if fn ≠ 0 then none else
    match op with
    | 0x20 | 0x21 | 0x22 => some (vRow int sc skVSI skVSI {})
    | 0x23 => some (vRow wide {} skVSI skVSI {})
    | 0x24 => some (vRow int sc skVSI skVSI skVSI)
    | 0x25 | 0x26 | 0x27 | 0x28 => some (vRow int {} skVSI skVSI {})
    | 0x2A => some (vRow (.codes tysAny) {} skVSI skVSI skX)
    | 0x2B | 0x2C | 0x2D => some (vRow int {} skVSI skVSI {})
    | 0x2E => some (vRow int {} skVSI {} {})
    | 0x2F | 0x30 | 0x31 | 0x32 => some (vRow int {} skVSI skVSI {})
    | 0x33 | 0x34 | 0x35 => some (vRow wide {} skVSI {} {})
    | 0x36 | 0x37 => some (vRow wide {} skVSI skVSI skVSI)
    | 0x38 => some (vRow (.codes [.i64, .n64]) {} { v := true, s := true } skVSI skI)
    | 0x3A => some (vRow (.codes tysAny) {} skVSI {} {})
    | 0x3B => some { fmt := .i, tys := .codes [.i32, .n32, .i64, .n64, .f32, .f64], mods := modsE, d := dkVS }
    | 0x3F => some (vRow (.codes [.i32, .i64]) {} skVSI {} {})
    | _ => none

/-- Conversion and tail opcodes (R77, R143, chapter 06). -/
def rowConvert (op fn : Nat) : Option Row :=
  let flt : TySpec := .codes tysFlt
  let f3264 : TySpec := .codes [.f32, .f64]
  let narrow : TySpec := .codes [.f16, .bf16, .f8e4, .f8e5, .f4]
  let so : ModSpec := { s := true, o := true }
  match op, fn with
  | 0x40, n => if 8 ≤ n ∧ n ≤ 14 then
      some (vRow (.codes (tysFlt.erase (Ty.ofCode (BitVec.ofNat 4 n)))) { n := true, k := true } skVSI {} {}) else none
  | 0x41, 0 => some (vRow flt modsNSCKO skVSI {} {})
  | 0x42, n => if n = 8 || n = 9 then some (vRow (.codes tysInt) { s := true, c := true, o := true } skVSI {} {}) else none
  | 0x43, n => if n < 8 then some (vRow flt { k := true, o := true } skVSI {} {}) else none
  | 0x44, n => if n < 2 then some (vRow f3264 { o := true } skVSI {} {}) else none
  | 0x45, 0 => some (vRow flt {} skVSI {} {})
  | 0x46, 0 => some (vRow f3264 so skVSI skVSI {})
  | 0x47, n => if n < 2 then some (vRow f3264 {} skVSI {} {}) else none
  | 0x48, 0 => some (vRow .dash {} skVSI {} {})
  | 0x49, 0 => some (vRow .dash {} skVSI skVSI {})
  | 0x4A, 0 => some { fmt := .v, d := dkV }
  | 0x4B, n => if n < 3 then some { fmt := .v, a := skVSI } else none
  | 0x4C, 0 => some (vRow narrow so skVSI skVSI skI)
  | 0x4D, 0 => some (vRow narrow {} skVSI skI {})
  | _, _ => none

/-- Float arithmetic opcodes (R77, R162, chapter 07). -/
def rowFloat (op fn : Nat) : Option Row :=
  let flt : TySpec := .codes tysFlt
  let f3264 : TySpec := .codes [.f32, .f64]
  match op, fn with
  | 0x50, 0 | 0x51, 0 | 0x52, 0 => some (vRow flt modsNSCKO skVSI skVSI {})
  | 0x53, 0 => some (vRow flt modsNSCKO skVSI skVSI skVSI)
  | 0x54, 0 => some (vRow f3264 modsNSCKO skVSI skVSI {})
  | 0x55, 0 => some (vRow f3264 modsNSCKO skVSI {} {})
  | 0x56, n | 0x57, n => if n < 3 then some (vRow flt { n := true, c := true } skVSI skVSI {}) else none
  | 0x58, _ => some { fmt := .v, tys := flt, mods := { n := true }, d := dkP, a := skVSI, b := skVSI }
  | 0x60, 0 => some (vRow (.codes [.f32, .f16, .bf16, .f8e4, .f8e5, .f4]) modsNSCKO { v := true, s := true } { v := true, s := true } skVSI)
  | 0x61, 0 => some (vRow (.codes [.n32, .f32]) {} skVSI {} {})
  | n, 0 => if 0x59 ≤ n ∧ n ≤ 0x5F then
      some (vRow (.codes [.f32, .f64, .f16, .bf16]) { n := true, s := true, k := true, o := true } skVSI {} {}) else none
  | _, _ => none

/-- Cross-lane opcodes (R77, R175, chapter 08). -/
def rowLanes (op fn : Nat) : Option Row :=
  let any : TySpec := .codes tysAny
  let redTys (n : Nat) : TySpec := if n < 3 then .codes (tysInt ++ tysFlt) else .codes tysInt
  match op, fn with
  | 0x70, 0 => some { fmt := .v, tys := any, d := dkV, a := skV, b := skVSI }
  | 0x71, n => if n < 6 then some { fmt := .v, tys := redTys n, mods := { o := true }, d := dkVS, a := skV } else none
  | 0x72, n => if n < 6 ∨ (8 ≤ n ∧ n < 14) then
      some { fmt := .v, tys := redTys (n % 8), mods := { o := true }, d := dkV, a := skV } else none
  | 0x73, 0 => some { fmt := .v, d := dkS, a := { v := true, x := true } }
  | 0x74, 0 => some { fmt := .v, tys := .codes tysWide, d := dkV, a := skV }
  | 0x74, 1 => some { fmt := .v, tys := .codes tysWide, d := dkP, a := skV }
  | 0x75, 0 => some { fmt := .v, tys := .codes [.n32, .n64], d := { v := true, p := true }, a := skV, b := skV, c := skSI }
  | 0x75, 1 => some { fmt := .v, tys := .codes [.n32, .n64], d := dkV, a := skV, b := skV, c := skSI }
  | 0x76, 0 => some { fmt := .v, tys := any, d := dkVS, a := skV }
  | 0x77, 0 => some { fmt := .v, tys := any, d := dkV, a := skV }
  | 0x78, n => if n < 2 then some { fmt := .v, tys := .codes [.i32, .n32, .i64, .n64, .f32, .f64], d := dkV, a := skV } else none
  | _, _ => none

/-- Memory-access and ordering opcodes (R77, R211, R237, R239, R327). -/
def rowMemory (op fn : Nat) : Option Row :=
  let any : TySpec := .codes tysAny
  let av : SKinds := { v := true, s := true }
  let f3264 : TySpec := .codes [.f32, .f64]
  let atomTys (n : Nat) : Option TySpec :=
    if n < 6 then some (.codes tysWide)
    else if n < 8 then some (.codes (tysWide ++ [.f32, .f64]))
    else if 9 ≤ n ∧ n ≤ 11 then some f3264 else none
  match op, fn with
  | 0x80, 0 => some { fmt := .m, tys := any, mods := modsE, d := dkVS, a := av }
  | 0x81, 0 => some { fmt := .m, tys := any, mods := modsEO, a := av, b := skVSI }
  | 0x82, n => (atomTys n).map fun t => { fmt := .m, tys := t, mods := modsEO, d := dkVS, a := av, b := skVSI }
  | 0x83, n => if n = 6 ∨ n = 7 then none else
      (atomTys n).map fun t => { fmt := .m, tys := t, mods := modsEO, a := av, b := skVSI }
  | 0x84, 0 => some { fmt := .m, mods := modsE, a := av, b := { v := true, s := true } }
  | 0x85, 0 => some { fmt := .m, mods := modsE, d := dkVS, a := av }
  | 0x86, n => if n < 2 then some { fmt := .m, mods := modsE, a := av } else none
  | 0x87, 0 => some { fmt := .m, mods := modsE, a := av }
  | 0x87, 1 => some { fmt := .m, mods := modsE }
  | 0x88, 0 => some { fmt := .m, mods := modsE, d := dkVS, a := av }
  | 0x89, 0 => some { fmt := .v, a := skS, b := skS, c := skS }
  | 0x89, 1 => some { fmt := .v, a := skS }
  | 0x8A, 0 => some { fmt := .v, d := dkS, a := skS }
  | 0xA0, 0 => some { fmt := .m }
  | 0xA2, n => if n < 2 then
      some { fmt := .m, tys := .codes [.n32, .n64], mods := modsE, d := dkS, a := av, b := skVSI } else none
  | 0xD4, n => if n < 4 then
      some { fmt := .m, tys := .codes [.n32, .n64], mods := modsE, d := dkPS, a := skS, b := skSI } else none
  | _, _ => none

/-- Asynchronous, matrix, task, collective and system opcodes (R77, R251, R286, R322, R352, R372). -/
def rowSystem (op fn : Nat) : Option Row :=
  match op, fn with
  | 0xA8, 0 | 0xA9, 0 => some { fmt := .v, a := skS, b := skS, c := skS }
  | 0xAA, n => if n < 2 then some { fmt := .v, a := skS, b := skS } else none
  | 0xAB, 0 => some { fmt := .v, a := skS }
  | 0xAC, 0 => some { fmt := .v, d := dkS, a := skS, b := skSI }
  | 0xAD, 0 => some { fmt := .v, a := skS, b := skSI }
  | 0xAE, 0 => some { fmt := .v, a := skI, b := skSI }
  | 0xAF, 0 => some { fmt := .v, d := dkS, a := skI }
  | 0xB0, 0 => some { fmt := .v, a := skS, b := skS, c := skSI }
  | 0xB1, 0 | 0xB2, 0 => some { fmt := .v, d := dkS, a := skS, b := skSI }
  | 0xB3, 0 => some { fmt := .v, d := dkPS, a := skS, b := skSI }
  | 0xB4, 0 => some { fmt := .v, a := skS }
  | 0xB5, 0 => some { fmt := .v, d := dkS, a := skS }
  | 0xC0, 0 => some { fmt := .v, d := dkP }
  | 0xC1, 0 => some { fmt := .v }
  | 0xC2, 0 => some { fmt := .v, a := skS, b := skX, c := skS }
  | 0xC3, 0 => some { fmt := .v, d := dkX, a := skS, b := skS }
  | 0xC4, 0 => some { fmt := .v, a := skS, b := skX, c := skS }
  | 0xC5, 0 => some { fmt := .v, d := dkX }
  | 0xC6, 0 => some { fmt := .v, d := dkS }
  | 0xD0, 0 => some { fmt := .v, a := skXZ, b := skXZ, c := skXZ }
  | 0xD1, 0 | 0xD2, 0 => some { fmt := .v, a := skS }
  | 0xD3, 0 => some { fmt := .v, d := dkS, a := skSI, b := skS }
  | 0xD5, 0 => some { fmt := .v, a := skSI }
  | 0xD6, 0 => some { fmt := .v, d := dkS }
  | 0xD7, 0 => some { fmt := .v, a := skSI }
  | 0xE0, 0 | 0xE1, 0 => some { fmt := .v, d := dkS, a := skS }
  | 0xE2, 0 => some { fmt := .v, a := skS }
  | 0xE3, 0 => some { fmt := .v, d := dkS, a := skS, b := skI, c := skSI }
  | 0xE4, 0 => some { fmt := .v, d := dkS, a := skS, b := skSI }
  | 0xE8, 0 => some { fmt := .v, a := skI }
  | 0xE9, 0 => some { fmt := .v }
  | 0xEA, 0 => some { fmt := .v, d := dkVS, a := skX }
  | 0xEB, 0 => some { fmt := .v, d := dkX, a := skSI }
  | 0xEC, n => if n < 2 then some { fmt := .v, a := skS } else none
  | 0xED, 0 => some { fmt := .v, a := skS, b := skS }
  | 0xED, 1 => some { fmt := .v, d := dkS, a := skS }
  | 0xEE, 0 => some { fmt := .v, d := dkS, a := skS, b := skS }
  | 0xEE, 1 => some { fmt := .v, a := skS, b := skS, c := skS }
  | 0xEF, 0 => some { fmt := .v, d := dkS, a := skS, b := skS }
  | 0xF0, 0 => some { fmt := .v, a := skS, b := skSI }
  | 0xF1, 0 => some { fmt := .v, a := skS, b := skS }
  | 0xF2, 0 => some { fmt := .v, d := dkS, a := skS }
  | _, _ => none

/-- The row of an opcode and function value; none for the unassigned ones (R77). Ops 0x00, 0xFE and 0xFF
have no row. -/
def rowOf (op fn : Nat) : Option Row :=
  if op < 0x20 then rowControl op fn
  else if op < 0x40 then rowInteger op fn
  else if op < 0x50 then rowConvert op fn
  else if op < 0x70 then rowFloat op fn
  else if op < 0x80 then rowLanes op fn
  else if op < 0xA8 ∨ op = 0xD4 then rowMemory op fn
  else rowSystem op fn

/-! ### Parsing and writing operand fields -/

/-- A RESERVED violation without a detail code. -/
def vReserved : Viol := ⟨.reserved, 0⟩
/-- An OPERAND violation without a detail code. -/
def vOperand : Viol := ⟨.operand, 0⟩

/-- The violation `v` when `b` holds. -/
def violIf (b : Bool) (v : Viol) : List Viol := if b then [v] else []

/-- PK and PP of a pattern (R60). -/
def Pattern.raw : Pattern → BitVec 10
  | .ident  => 0#3 ++ 0#7
  | .rot k  => 1#3 ++ BitVec.ofNat 7 k.val
  | .bc k   => 2#3 ++ BitVec.ofNat 7 k.val
  | .bf k   => 3#3 ++ BitVec.ofNat 7 k.val
  | .mir    => 4#3 ++ 0#7
  | .mirb   => 4#3 ++ 1#7
  | .sh k   => 5#3 ++ BitVec.ofNat 7 k.val
  | .beat k => 6#3 ++ BitVec.ofNat 7 k.val

/-- The pattern that bits [9:0] of a vector source name; none when it is reserved or out of range (R60). -/
def parsePattern (x : BitVec 10) : Option Pattern :=
  let pk := (x.extractLsb' 7 3).toNat
  let pp := (x.extractLsb' 0 7).toNat
  let in96 (f : Fin 96 → Pattern) : Option Pattern := if h : pp < 96 then some (f ⟨pp, h⟩) else none
  match pk with
  | 0 => if pp = 0 then some .ident else none
  | 1 => in96 .rot
  | 2 => in96 .bc
  | 3 => in96 .bf
  | 4 => if pp = 0 then some .mir else if pp = 1 then some .mirb else none
  | 5 => in96 .sh
  | 6 => if h : pp < 3 then some (.beat ⟨pp, h⟩) else none
  | _ => none

/-- A source field (R59). -/
def Src.raw : Src → BitVec 20
  | .vec n p       => 0#2 ++ n ++ p.raw
  | .scal n        => 1#2 ++ BitVec.ofNat 8 n.val ++ 0#10
  | .imm v         => 2#2 ++ v
  | .special n low => 3#2 ++ n ++ low

/-- A source field read, with the violations that its own bits show (R59, R65). -/
def parseSrc (x : BitVec 20) (detail : BitVec 8 := 0) : Src × List Viol :=
  let kind := (x.extractLsb' 18 2).toNat
  let idx := x.extractLsb' 10 8
  let low := x.extractLsb' 0 10
  match kind with
  | 0 => match parsePattern low with
    | some p => (.vec idx p, [])
    | none => (.vec idx .ident, [vReserved])
  | 1 => if h : idx.toNat < 64 then (.scal ⟨idx.toNat, h⟩, violIf (low != 0) vReserved)
    else (.scal 0, violIf (low != 0) vReserved ++ [⟨.operand, detail⟩])
  | 2 => (.imm (x.extractLsb' 0 18), [])
  | _ => (.special idx low, [])

/-- A destination field (R58). -/
def Dst.raw : Dst → BitVec 10
  | .vec n     => 0#2 ++ n
  | .scal n    => 1#2 ++ BitVec.ofNat 8 n.val
  | .pred n    => 2#2 ++ BitVec.ofNat 8 n.val
  | .special n => 3#2 ++ n

/-- A destination field read (R58, R65). -/
def parseDst (x : BitVec 10) (detail : BitVec 8 := 0) : Dst × List Viol :=
  let idx := x.extractLsb' 0 8
  match (x.extractLsb' 8 2).toNat with
  | 0 => (.vec idx, [])
  | 1 => if h : idx.toNat < 64 then (.scal ⟨idx.toNat, h⟩, []) else (.scal 0, [⟨.operand, detail⟩])
  | 2 => if h : idx.toNat < 32 then (.pred ⟨idx.toNat, h⟩, []) else (.pred 0, [vOperand])
  | _ => (.special idx, [])

/-- CT of a compare (R57). -/
def Combine.raw : Combine → BitVec 3
  | .set => 0 | .and => 1 | .or => 2

/-- CT of Format V read (R57). -/
def parseCombine (x : BitVec 3) : Combine × List Viol :=
  if x = 0 then (.set, []) else if x = 1 then (.and, []) else if x = 2 then (.or, []) else (.set, [vReserved])

/-- CT of Format M (R62). -/
def Hint.raw : Hint → BitVec 3
  | .normal => 0 | .stream => 1 | .keep => 2 | .nol1 => 3

/-- CT of Format M read (R62). -/
def parseHint (x : BitVec 3) : Hint × List Viol :=
  if x = 0 then (.normal, []) else if x = 1 then (.stream, []) else if x = 2 then (.keep, [])
  else if x = 3 then (.nol1, []) else (.normal, [vReserved])

/-- SCOPE (R62). -/
def Scope.raw : Scope → BitVec 2
  | .team => 0 | .cluster => 1 | .device => 2 | .system => 3

/-- SCOPE read (R62). -/
def Scope.ofRaw (x : BitVec 2) : Scope :=
  if x = 0 then .team else if x = 1 then .cluster else if x = 2 then .device else .system

/-- ORDER (R62). -/
def MemOrder.raw : MemOrder → BitVec 2
  | .plain => 0 | .acquire => 1 | .release => 2 | .acqrel => 3

/-- ORDER read (R62). -/
def MemOrder.ofRaw (x : BitVec 2) : MemOrder :=
  if x = 0 then .plain else if x = 1 then .acquire else if x = 2 then .release else .acqrel

/-- A modifier word (R64). -/
def Mods.raw (m : Mods) : BitVec 96 :=
  0xFE#8 ++ BitVec.ofBool m.negA ++ BitVec.ofBool m.absA ++ BitVec.ofBool m.negB ++ BitVec.ofBool m.absB
    ++ BitVec.ofBool m.negC ++ BitVec.ofBool m.absC ++ 0#1 ++ BitVec.ofBool m.sat ++ BitVec.ofBool m.clp
    ++ BitVec.ofNat 6 m.clo.val ++ BitVec.ofNat 6 m.chi.val ++ m.scl ++ BitVec.ofNat 3 m.rmo.val ++ 0#8 ++ m.ext

/-- A modifier word read, with the violations of its own bits: SAT 10 and 11, RMO 7, bits [55:48] (R64). -/
def parseMods (x : BitVec 96) : Mods × List Viol :=
  let rmo := (x.extractLsb' 56 3).toNat
  ({ negA := x.getLsbD 87, absA := x.getLsbD 86, negB := x.getLsbD 85, absB := x.getLsbD 84
     negC := x.getLsbD 83, absC := x.getLsbD 82, sat := x.getLsbD 80, clp := x.getLsbD 79
     clo := ⟨(x.extractLsb' 73 6).toNat, (x.extractLsb' 73 6).isLt⟩
     chi := ⟨(x.extractLsb' 67 6).toNat, (x.extractLsb' 67 6).isLt⟩
     scl := x.extractLsb' 59 8
     rmo := if h : rmo < 7 then ⟨rmo, h⟩ else 0
     ext := x.extractLsb' 0 48 },
   violIf (x.getLsbD 81 || rmo == 7 || x.extractLsb' 48 8 != 0) vReserved)

/-- The guard bits GN and GP (R53). -/
def Guard.raw (g : Guard) : BitVec 6 := BitVec.ofBool g.neg ++ BitVec.ofNat 5 g.pred.val

/-- The guard read (R53). -/
def parseGuard (x : BitVec 6) : Guard := ⟨x.getLsbD 5, ⟨(x.extractLsb' 0 5).toNat, (x.extractLsb' 0 5).isLt⟩⟩

/-- The modifier word of an instruction whose MW is `mw` and whose following word is `m` (R52, R64). -/
def parseModWord (mw : Bool) (m : BitVec 96) : Option Mods × List Viol :=
  if mw then (some (parseMods m).1, (parseMods m).2) else (none, [])

/-- FINFO.DETAIL of a scalar number out of range: 0x74 in `ant`, 0x70 in the other instructions of R372. -/
def scalDetail (op : Nat) : BitVec 8 := if op = 0xED then 0x74 else if 0xE8 ≤ op && op ≤ 0xF2 then 0x70 else 0

/-- The operand fields of an instruction word `w` with following word `m`, in a format (R57, R61 to R63). -/
def parseForm (fmt : Fmt) (w m : BitVec 96) : Form × List Viol :=
  let g := parseGuard (w.extractLsb' 74 6)
  let ty := Ty.ofCode (w.extractLsb' 80 4)
  let fn := w.extractLsb' 84 4
  let mw := w.getLsbD 73
  let md := parseModWord mw m
  let sd := scalDetail (w.extractLsb' 88 8).toNat
  let d := parseDst (w.extractLsb' 60 10) sd
  let a := parseSrc (w.extractLsb' 40 20) sd
  match fmt with
  | .v =>
    let ct := parseCombine (w.extractLsb' 70 3)
    let b := parseSrc (w.extractLsb' 20 20) sd
    let c := parseSrc (w.extractLsb' 0 20) sd
    (.v ⟨g, ty, fn, ct.1, d.1, a.1, b.1, c.1, md.1⟩, ct.2 ++ d.2 ++ a.2 ++ b.2 ++ c.2 ++ md.2)
  | .i =>
    (.i ⟨g, ty, d.1, a.1, w.extractLsb' 0 40, md.1⟩,
      violIf (w.extractLsb' 70 3 != 0) vReserved ++ d.2 ++ a.2 ++ md.2)
  | .m =>
    let h := parseHint (w.extractLsb' 70 3)
    let b := parseSrc (w.extractLsb' 20 20)
    (.m ⟨g, ty, fn, h.1, d.1, a.1, b.1, Scope.ofRaw (w.extractLsb' 18 2), MemOrder.ofRaw (w.extractLsb' 16 2),
      w.extractLsb' 0 16, md.1⟩, h.2 ++ d.2 ++ a.2 ++ b.2 ++ md.2)
  | .b =>
    (.b ⟨g, w.getLsbD 72, d.1, a.1, w.extractLsb' 0 40⟩,
      violIf (w.extractLsb' 70 2 != 0) vReserved ++ violIf (ty != .i32) vReserved ++ violIf mw vReserved ++ d.2 ++ a.2)

/-! ### Checks on parsed fields (R65 orders 3 and 4) -/

/-- The destination field of an instruction that names none. -/
def Dst.unused : Dst := .vec 0
/-- The source field of an instruction that names none. -/
def Src.unused : Src := .vec 0 .ident

/-- Kind check of a destination field: an unused field must be zero (RESERVED), another kind than the
accepted ones faults OPERAND (R59, R65). -/
def checkDst (k : DKinds) (d : Dst) : List Viol :=
  if k == {} then violIf (d != .unused) vReserved
  else violIf (!(match d with | .vec _ => k.v | .scal _ => k.s | .pred _ => k.p | .special _ => k.x)) vOperand

/-- Kind check of a source field, and the zero low bits of a special source, which only `rgn` may set. -/
def checkSrc (rgn : Bool) (k : SKinds) (x : Src) : List Viol :=
  if k == {} then violIf (x != .unused) vReserved
  else if k.z && x == .unused then []
  else (match x with | .special _ low => violIf (low != 0 && !rgn) vReserved | _ => [])
    ++ violIf (!(match x with | .vec _ _ => k.v | .scal _ => k.s | .imm _ => k.i | .special _ _ => k.x)) vOperand

/-- TY check of order 3: a dash column needs TY 0. -/
def checkTyZero (r : Row) (ty : Ty) : List Viol := violIf (r.tys == .dash && ty != .i32) vReserved

/-- Order 2: TY not in the list of the row. -/
def tyIllegal (r : Row) (ty : Ty) : Bool := match r.tys with | .dash => false | .codes l => !l.contains ty

/-- The modifier fields that the row does not accept must be zero, and a row that accepts none takes no
modifier word (R64, R65). SCL on an integer type is refused (R64). DESIGN CHOICE: NEG and ABS of a source that an N opcode does not have
are accepted, and have no effect (log entry 16). -/
def checkMods (r : Row) (ty : Ty) : Option Mods → List Viol
  | none => []
  | some m => violIf (r.mods == {}
      || (!r.mods.n && (m.negA || m.absA || m.negB || m.absB || m.negC || m.absC))
      || (!r.mods.s && m.sat)
      || (!r.mods.c && (m.clp || m.clo != 0 || m.chi != 0))
      || (!r.mods.k && m.scl != 0)
      || (m.scl != 0 && ty.isInt)
      || (!r.mods.o && m.rmo != 0)
      || (!r.mods.e && m.ext != 0)) vReserved

/-- True for a vector source. -/
def Src.isVec : Src → Bool
  | .vec _ _ => true | _ => false

/-- A special source that must name one of n items (a predicate, a tile). -/
def specialBelow (n : Nat) (x : Src) : List Viol :=
  match x with | .special i _ => violIf (n ≤ i.toNat) vOperand | _ => []

/-- An immediate source above `n`, read as unsigned, is out of range (R65 order 3). -/
def immAtMost (n : Nat) (x : Src) : List Viol :=
  match x with | .imm v => violIf (n < v.toNat) vReserved | _ => []

/-- A scalar source outside lo to hi faults OPERAND with the detail code. -/
def scalIn (lo hi : Nat) (detail : BitVec 8) (x : Src) : List Viol :=
  match x with | .scal n => violIf (n.val < lo || hi < n.val) ⟨.operand, detail⟩ | _ => []

/-- A scalar destination outside lo to hi faults OPERAND with the detail code. -/
def dscalIn (lo hi : Nat) (detail : BitVec 8) (x : Dst) : List Viol :=
  match x with | .scal n => violIf (n.val < lo || hi < n.val) ⟨.operand, detail⟩ | _ => []

/-- Register number of a scalar source, 0 otherwise. -/
def Src.scalNum : Src → Nat
  | .scal n => n.val | _ => 0
/-- Register number of a scalar destination, 0 otherwise. -/
def Dst.scalNum : Dst → Nat
  | .scal n => n.val | _ => 0

/-- Element width in bits of a packed narrow type (R155). -/
def Ty.packWidth : Ty → Nat
  | .f16 | .bf16 => 16 | .f8e4 | .f8e5 => 8 | _ => 4

/-- The assigned system register numbers of R41. -/
def sysRegAssigned (n : Nat) : Bool :=
  n ≤ 0x0B || (0x10 ≤ n && n ≤ 0x12) || (0x18 ≤ n && n ≤ 0x22) || (0x28 ≤ n && n ≤ 0x2A)
    || n == 0x30 || n == 0x31 || n == 0x38 || n == 0x39

/-- A range field of `rgn`: count 1 to 255 in [7:0], bits [9:8] zero (R323). -/
def checkRange (x : Src) : List Viol :=
  match x with
  | .special _ low => violIf (low.extractLsb' 8 2 != 0 || low.extractLsb' 0 8 == 0) vReserved
  | _ => []

/-- The checks on Format V fields that the class chapters add to the kinds. -/
def extraV (op : Nat) (f : VForm) : List Viol :=
  match op with
  | 0x08 => violIf (f.g.pred != 0) vReserved                                  -- join, R98
  | 0x0C => specialBelow 32 f.a                                               -- vote, R104
  | 0x0E => specialBelow 32 f.a ++ specialBelow 32 f.b                        -- plog, R105
  | 0x0F => specialBelow 32 f.a                                               -- pmov, R106
  | 0x2A => specialBelow 32 f.c                                               -- isel, R116
  | 0x38 => immAtMost 7 f.c                                                   -- lea, R119
  | 0x4C => immAtMost (32 / f.ty.packWidth - 1) f.c                           -- fpack, R155
  | 0x4D => immAtMost (32 / f.ty.packWidth - 1) f.b                           -- funpk, R156
  | 0x60 => (match f.a with | .vec n _ => violIf (n.getLsbD 0) vOperand | .scal n => violIf (n.val % 2 == 1) vOperand | _ => [])
      ++ (match f.b with | .vec n _ => violIf (n.getLsbD 0) vOperand | .scal n => violIf (n.val % 2 == 1) vOperand | _ => [])
  | 0x71 | 0x72 => match f.m with                                             -- rdc, scan, R175
      | some m => violIf (m.rmo != 0 && f.ty.isInt) vReserved | none => []
  | 0x73 => specialBelow 32 f.a ++ dscalIn 1 61 0 f.d                          -- ballot, R181
  | 0xA8 | 0xA9 => scalIn 2 58 0 f.a ++ violIf (f.a.scalNum % 2 == 1) vOperand ++ scalIn 1 56 0 f.b   -- R251
  | 0xAA => scalIn 1 56 0 f.b
  | 0xAE | 0xAF => immAtMost 5 f.a                                             -- path, R251
  | 0xC3 | 0xC5 => match f.d with | .special n => violIf (8 ≤ n.toNat) vOperand | _ => []      -- R286
  | 0xC4 => specialBelow 8 f.b ++ scalIn 4 56 0 f.c ++ violIf (f.c.scalNum % 4 != 0) vOperand
  | 0xD0 => checkRange f.a ++ checkRange f.b ++ checkRange f.c                 -- rgn, R323
  | 0xD7 => immAtMost 0 f.a                                                    -- cwait, R328
  | 0xE3 => immAtMost 2 f.b ++ dscalIn 8 56 0 f.d ++ violIf (f.d.scalNum % 8 != 0) vOperand    -- awr, R352
  | 0xEA => match f.a with | .special n _ => violIf (!sysRegAssigned n.toNat) vReserved | _ => []
  | 0xEB => match f.d with | .special n => violIf (!sysRegAssigned n.toNat) vReserved | _ => []
  | 0xED => if f.fn = 0 then scalIn 1 56 0x74 f.b else dscalIn 1 55 0x74 f.d   -- R372
  | 0xEE => if f.fn = 0 then dscalIn 1 59 0x70 f.d else scalIn 1 59 0x70 f.c
  | 0xEF => scalIn 1 59 0x70 f.b
  | _ => []

/-- Opcodes whose scalar destination may stand beside a vector source (R65 order 4). -/
def scalarFromVector (op : Nat) : Bool := op == 0x71 || op == 0x73 || op == 0x76 || op == 0x0C

/-- All checks on a Format V instruction. -/
def checkV (op : Nat) (r : Row) (f : VForm) : List Viol :=
  checkTyZero r f.ty
  ++ violIf (f.ct != .set && op != 0x29 && op != 0x58) vReserved
  ++ checkDst r.d f.d
  ++ checkSrc (op == 0xD0) r.a f.a ++ checkSrc (op == 0xD0) r.b f.b ++ checkSrc (op == 0xD0) r.c f.c
  ++ checkMods r f.ty f.m
  ++ (match f.d with
      | .scal _ => violIf (!scalarFromVector op &&
          ((r.a != {} && f.a.isVec) || (r.b != {} && f.b.isVec) || (r.c != {} && f.c.isVec))) vOperand
      | _ => [])
  ++ extraV op f

/-- All checks on a Format I instruction: `movi` (R61, R122) and `sleep` (R101). -/
def checkI (op : Nat) (r : Row) (f : IForm) : List Viol :=
  checkTyZero r f.ty ++ checkDst r.d f.d ++ checkSrc false r.a f.a ++ checkMods r f.ty f.m
  ++ (match f.m with
      | some m => violIf (m.ext.extractLsb' 24 24 != 0) vReserved
      | none => violIf (f.ty == .f64) vReserved)
  ++ violIf (f.ty == .f32 && f.imm.extractLsb' 32 8 != 0) vReserved
  ++ violIf (op == 0x11 && 1048575 < f.imm.toNat) vReserved

/-- The ORDER values an opcode accepts (R62, R211, R237, R239, R327). -/
def orderOk (op : Nat) (o : MemOrder) : Bool :=
  match op with
  | 0x80 | 0xD4 => o == .plain || o == .acquire
  | 0x81 | 0x83 | 0xA2 => o == .plain || o == .release
  | 0x82 => true
  | 0xA0 => o != .plain
  | _ => o == .plain

/-- All checks on a Format M instruction. -/
def checkM (op : Nat) (r : Row) (f : MForm) : List Viol :=
  checkTyZero r f.ty ++ checkDst r.d f.d ++ checkSrc false r.a f.a ++ checkSrc false r.b f.b ++ checkMods r f.ty f.m
  ++ (match f.m with | some m => violIf (m.ext.extractLsb' 32 16 != 0) vReserved | none => [])
  ++ violIf (!orderOk op f.order) vReserved
  ++ violIf ((op == 0x86 || op == 0x87 || op == 0x88) && f.scope != .team) vReserved
  ++ violIf (op == 0xA0 && (f.hint != .normal || f.off != 0)) vReserved
  ++ violIf (op == 0x87 && f.fn == 1 && (f.hint != .normal || f.off != 0 ||
       (match f.m with | some m => m.ext != 0 | none => false))) vReserved
  ++ (match f.d with
      | .scal n => if op == 0xA2 then violIf (n.val % 2 == 1 || n.val < 2 || 60 < n.val) vOperand
          else violIf (f.a.isVec || (r.b != {} && f.b.isVec)) vOperand
      | _ => [])

/-- All checks on a Format B instruction (R63, R93, R96, R97). -/
def checkB (op : Nat) (r : Row) (f : BForm) : List Viol :=
  checkDst r.d f.d ++ checkSrc false r.a f.a
  ++ violIf (f.disp.extractLsb' 0 2 != 0) vReserved
  ++ violIf ((op == 0x03 || op == 0x05 || op == 0x06) && f.disp != 0) vReserved
  ++ violIf (op == 0x07 && f.g.pred != 0) vReserved
  ++ violIf (op == 0x0A && f.uni) vReserved
  ++ (match f.d with
      | .scal n => violIf ((op == 0x04 || op == 0x05) && 61 ≤ n.val) vOperand
          ++ violIf (op == 0x0A && (n.val == 0 || 61 ≤ n.val)) vOperand
      | _ => [])

/-- All checks of orders 3 and 4 on parsed fields. -/
def checkForm (op : Nat) (r : Row) : Form → List Viol
  | .v f => checkV op r f
  | .i f => checkI op r f
  | .m f => checkM op r f
  | .b f => checkB op r f

/-- The first failing check: an order-3 violation comes before an order-4 one (R65). -/
def firstViol (vs : List Viol) : Option Viol :=
  match vs.find? (fun v => v.code == .reserved) with
  | some v => some v
  | none => vs.head?

/-! ### From opcode and fields to the instruction, and back -/

/-- The Format V instruction of an opcode (R77). -/
def buildV (op : Nat) (f : VForm) : Option Instr :=
  match op with
  | 0x01 => some (.nop f)
  | 0x08 => some (.join f)
  | 0x09 => some (.exit f)
  | 0x0B => some (.elect f)
  | 0x0C => some (.vote f)
  | 0x0E => some (.plog f)
  | 0x0F => some (if f.fn = 0 then .pmovPv f else if f.fn = 1 then .pmovVp f else if f.fn = 2 then .pmovPm f else .pmovMp f)
  | 0x10 => some (.tbar f)
  | 0x12 => some (.yield f)
  | 0x20 => some (.iadd f)
  | 0x21 => some (.isub f)
  | 0x22 => some (.imul f)
  | 0x23 => some (.imulh f)
  | 0x24 => some (.imad f)
  | 0x25 => some (.idiv f)
  | 0x26 => some (.irem f)
  | 0x27 => some (.imin f)
  | 0x28 => some (.imax f)
  | 0x29 => some (.icmp f)
  | 0x2A => some (.isel f)
  | 0x2B => some (.and f)
  | 0x2C => some (.or f)
  | 0x2D => some (.xor f)
  | 0x2E => some (.not f)
  | 0x2F => some (.shl f)
  | 0x30 => some (.shr f)
  | 0x31 => some (.sar f)
  | 0x32 => some (.rot f)
  | 0x33 => some (.clz f)
  | 0x34 => some (.popc f)
  | 0x35 => some (.brev f)
  | 0x36 => some (.bfx f)
  | 0x37 => some (.bfi f)
  | 0x38 => some (.lea f)
  | 0x39 => some (.icvt f)
  | 0x3A => some (.mov f)
  | 0x3C => some (.dp4 f)
  | 0x3D => some (.rnsEnc f)
  | 0x3E => some (.rns f)
  | 0x3F => some (.rnsDec f)
  | 0x40 => some (.fcvt f)
  | 0x41 => some (.settle f)
  | 0x42 => some (.f2i f)
  | 0x43 => some (.i2f f)
  | 0x44 => some (.frnd f)
  | 0x45 => some (.fclass f)
  | 0x46 => some (.fscale f)
  | 0x47 => some (if f.fn = 0 then .fxtrExp f else .fxtrSig f)
  | 0x48 => some (.tget f)
  | 0x49 => some (.tset f)
  | 0x4A => some (.fpcr f)
  | 0x4B => some (.fpcw f)
  | 0x4C => some (.fpack f)
  | 0x4D => some (.funpk f)
  | 0x50 => some (.fadd f)
  | 0x51 => some (.fsub f)
  | 0x52 => some (.fmul f)
  | 0x53 => some (.fma f)
  | 0x54 => some (.fdiv f)
  | 0x55 => some (.fsqrt f)
  | 0x56 => some (.fmin f)
  | 0x57 => some (.fmax f)
  | 0x58 => some (if f.fn.toNat < 8 then .fcmp f else .fcmpRaw f)
  | 0x59 => some (.frcp f)
  | 0x5A => some (.frsq f)
  | 0x5B => some (.fexp2 f)
  | 0x5C => some (.flog2 f)
  | 0x5D => some (.fsinpi f)
  | 0x5E => some (.fcospi f)
  | 0x5F => some (.ftanh f)
  | 0x60 => some (.fdot2 f)
  | 0x61 => some (.rnd f)
  | 0x70 => some (.shfl f)
  | 0x71 => some (.rdc f)
  | 0x72 => some (.scan f)
  | 0x73 => some (.ballot f)
  | 0x74 => some (if f.fn = 0 then .matchAny f else .matchAll f)
  | 0x75 => some (if f.fn = 0 then .isectM f else .isectAdv f)
  | 0x76 => some (.cmpct f)
  | 0x77 => some (.expd f)
  | 0x78 => some (.lsort f)
  | 0x89 => some (if f.fn = 0 then .tlbiRange f else .tlbiAsid f)
  | 0x8A => some (.ggen f)
  | 0xA8 => some (.tcLd f)
  | 0xA9 => some (.tcSt f)
  | 0xAA => some (if f.fn = 0 then .tcRingFill f else .tcRingDrain f)
  | 0xAB => some (.tcStop f)
  | 0xAC => some (.slTake f)
  | 0xAD => some (.slGive f)
  | 0xAE => some (.waitPath f)
  | 0xAF => some (.pcnt f)
  | 0xB0 => some (.abInit f)
  | 0xB1 => some (.abArrive f)
  | 0xB2 => some (.abWait f)
  | 0xB3 => some (.abTry f)
  | 0xB4 => some (.abInval f)
  | 0xB5 => some (.stw f)
  | 0xC0 => some (.mxAcq f)
  | 0xC1 => some (.mxRel f)
  | 0xC2 => some (.mxMma f)
  | 0xC3 => some (.mxLd f)
  | 0xC4 => some (.mxSt f)
  | 0xC5 => some (.mxZero f)
  | 0xC6 => some (.mxQ f)
  | 0xD0 => some (.rgn f)
  | 0xD1 => some (.launch f)
  | 0xD2 => some (.tcbd f)
  | 0xD3 => some (.qpush f)
  | 0xD5 => some (.dwait f)
  | 0xD6 => some (.clk f)
  | 0xD7 => some (.cwait f)
  | 0xE0 => some (.clGo f)
  | 0xE1 => some (.clCk f)
  | 0xE2 => some (.clAbort f)
  | 0xE3 => some (.awr f)
  | 0xE4 => some (.clTpl f)
  | 0xE8 => some (.trap f)
  | 0xE9 => some (.rfe f)
  | 0xEA => some (.srd f)
  | 0xEB => some (.swr f)
  | 0xEC => some (if f.fn = 0 then .halt f else .haltTeam f)
  | 0xED => some (if f.fn = 0 then .antSet f else .antGet f)
  | 0xEE => some (if f.fn = 0 then .inspRd f else .inspWr f)
  | 0xEF => some (.step f)
  | 0xF0 => some (.resume f)
  | 0xF1 => some (.evt f)
  | 0xF2 => some (.cdmp f)
  | _ => none

/-- The Format I instruction of an opcode (R77). -/
def buildI (op : Nat) (f : IForm) : Option Instr :=
  match op with
  | 0x11 => some (.sleep f)
  | 0x3B => some (.movi f)
  | _ => none

/-- The Format M instruction of an opcode (R77). -/
def buildM (op : Nat) (f : MForm) : Option Instr :=
  match op with
  | 0x80 => some (.ld f)
  | 0x81 => some (.st f)
  | 0x82 => some (.atom f)
  | 0x83 => some (.red f)
  | 0x84 => some (.spst f)
  | 0x85 => some (.spld f)
  | 0x86 => some (.prf f)
  | 0x87 => some (if f.fn = 0 then .cinvLine f else .cinvAll f)
  | 0x88 => some (.xlp f)
  | 0xA0 => some (.fence f)
  | 0xA2 => some (.stsig f)
  | 0xD4 => some (.poll f)
  | _ => none

/-- The Format B instruction of an opcode (R77). -/
def buildB (op : Nat) (f : BForm) : Option Instr :=
  match op with
  | 0x02 => some (.bra f)
  | 0x03 => some (.brx f)
  | 0x04 => some (.call f)
  | 0x05 => some (.callx f)
  | 0x06 => some (.ret f)
  | 0x07 => some (.mark f)
  | 0x0A => some (.loop f)
  | _ => none

/-- The instruction of an opcode with its fields. -/
def build (op : Nat) : Form → Option Instr
  | .v f => buildV op f
  | .i f => buildI op f
  | .m f => buildM op f
  | .b f => buildB op f

/-- The opcode and the fields of an instruction; none for an unassigned word and for the autonomous steps,
which have no opcode. -/
def Instr.view : Instr → Option (Nat × Form)
  | .nop f => some (0x01, .v f)
  | .join f => some (0x08, .v f)
  | .exit f => some (0x09, .v f)
  | .elect f => some (0x0B, .v f)
  | .vote f => some (0x0C, .v f)
  | .plog f => some (0x0E, .v f)
  | .pmovPv f => some (0x0F, .v f)
  | .pmovVp f => some (0x0F, .v f)
  | .pmovPm f => some (0x0F, .v f)
  | .pmovMp f => some (0x0F, .v f)
  | .tbar f => some (0x10, .v f)
  | .yield f => some (0x12, .v f)
  | .iadd f => some (0x20, .v f)
  | .isub f => some (0x21, .v f)
  | .imul f => some (0x22, .v f)
  | .imulh f => some (0x23, .v f)
  | .imad f => some (0x24, .v f)
  | .idiv f => some (0x25, .v f)
  | .irem f => some (0x26, .v f)
  | .imin f => some (0x27, .v f)
  | .imax f => some (0x28, .v f)
  | .icmp f => some (0x29, .v f)
  | .isel f => some (0x2A, .v f)
  | .and f => some (0x2B, .v f)
  | .or f => some (0x2C, .v f)
  | .xor f => some (0x2D, .v f)
  | .not f => some (0x2E, .v f)
  | .shl f => some (0x2F, .v f)
  | .shr f => some (0x30, .v f)
  | .sar f => some (0x31, .v f)
  | .rot f => some (0x32, .v f)
  | .clz f => some (0x33, .v f)
  | .popc f => some (0x34, .v f)
  | .brev f => some (0x35, .v f)
  | .bfx f => some (0x36, .v f)
  | .bfi f => some (0x37, .v f)
  | .lea f => some (0x38, .v f)
  | .icvt f => some (0x39, .v f)
  | .mov f => some (0x3A, .v f)
  | .dp4 f => some (0x3C, .v f)
  | .rnsEnc f => some (0x3D, .v f)
  | .rns f => some (0x3E, .v f)
  | .rnsDec f => some (0x3F, .v f)
  | .fcvt f => some (0x40, .v f)
  | .settle f => some (0x41, .v f)
  | .f2i f => some (0x42, .v f)
  | .i2f f => some (0x43, .v f)
  | .frnd f => some (0x44, .v f)
  | .fclass f => some (0x45, .v f)
  | .fscale f => some (0x46, .v f)
  | .fxtrExp f => some (0x47, .v f)
  | .fxtrSig f => some (0x47, .v f)
  | .tget f => some (0x48, .v f)
  | .tset f => some (0x49, .v f)
  | .fpcr f => some (0x4A, .v f)
  | .fpcw f => some (0x4B, .v f)
  | .fpack f => some (0x4C, .v f)
  | .funpk f => some (0x4D, .v f)
  | .fadd f => some (0x50, .v f)
  | .fsub f => some (0x51, .v f)
  | .fmul f => some (0x52, .v f)
  | .fma f => some (0x53, .v f)
  | .fdiv f => some (0x54, .v f)
  | .fsqrt f => some (0x55, .v f)
  | .fmin f => some (0x56, .v f)
  | .fmax f => some (0x57, .v f)
  | .fcmp f => some (0x58, .v f)
  | .fcmpRaw f => some (0x58, .v f)
  | .frcp f => some (0x59, .v f)
  | .frsq f => some (0x5A, .v f)
  | .fexp2 f => some (0x5B, .v f)
  | .flog2 f => some (0x5C, .v f)
  | .fsinpi f => some (0x5D, .v f)
  | .fcospi f => some (0x5E, .v f)
  | .ftanh f => some (0x5F, .v f)
  | .fdot2 f => some (0x60, .v f)
  | .rnd f => some (0x61, .v f)
  | .shfl f => some (0x70, .v f)
  | .rdc f => some (0x71, .v f)
  | .scan f => some (0x72, .v f)
  | .ballot f => some (0x73, .v f)
  | .matchAny f => some (0x74, .v f)
  | .matchAll f => some (0x74, .v f)
  | .isectM f => some (0x75, .v f)
  | .isectAdv f => some (0x75, .v f)
  | .cmpct f => some (0x76, .v f)
  | .expd f => some (0x77, .v f)
  | .lsort f => some (0x78, .v f)
  | .tlbiRange f => some (0x89, .v f)
  | .tlbiAsid f => some (0x89, .v f)
  | .ggen f => some (0x8A, .v f)
  | .tcLd f => some (0xA8, .v f)
  | .tcSt f => some (0xA9, .v f)
  | .tcRingFill f => some (0xAA, .v f)
  | .tcRingDrain f => some (0xAA, .v f)
  | .tcStop f => some (0xAB, .v f)
  | .slTake f => some (0xAC, .v f)
  | .slGive f => some (0xAD, .v f)
  | .waitPath f => some (0xAE, .v f)
  | .pcnt f => some (0xAF, .v f)
  | .abInit f => some (0xB0, .v f)
  | .abArrive f => some (0xB1, .v f)
  | .abWait f => some (0xB2, .v f)
  | .abTry f => some (0xB3, .v f)
  | .abInval f => some (0xB4, .v f)
  | .stw f => some (0xB5, .v f)
  | .mxAcq f => some (0xC0, .v f)
  | .mxRel f => some (0xC1, .v f)
  | .mxMma f => some (0xC2, .v f)
  | .mxLd f => some (0xC3, .v f)
  | .mxSt f => some (0xC4, .v f)
  | .mxZero f => some (0xC5, .v f)
  | .mxQ f => some (0xC6, .v f)
  | .rgn f => some (0xD0, .v f)
  | .launch f => some (0xD1, .v f)
  | .tcbd f => some (0xD2, .v f)
  | .qpush f => some (0xD3, .v f)
  | .dwait f => some (0xD5, .v f)
  | .clk f => some (0xD6, .v f)
  | .cwait f => some (0xD7, .v f)
  | .clGo f => some (0xE0, .v f)
  | .clCk f => some (0xE1, .v f)
  | .clAbort f => some (0xE2, .v f)
  | .awr f => some (0xE3, .v f)
  | .clTpl f => some (0xE4, .v f)
  | .trap f => some (0xE8, .v f)
  | .rfe f => some (0xE9, .v f)
  | .srd f => some (0xEA, .v f)
  | .swr f => some (0xEB, .v f)
  | .halt f => some (0xEC, .v f)
  | .haltTeam f => some (0xEC, .v f)
  | .antSet f => some (0xED, .v f)
  | .antGet f => some (0xED, .v f)
  | .inspRd f => some (0xEE, .v f)
  | .inspWr f => some (0xEE, .v f)
  | .step f => some (0xEF, .v f)
  | .resume f => some (0xF0, .v f)
  | .evt f => some (0xF1, .v f)
  | .cdmp f => some (0xF2, .v f)
  | .sleep f => some (0x11, .i f)
  | .movi f => some (0x3B, .i f)
  | .ld f => some (0x80, .m f)
  | .st f => some (0x81, .m f)
  | .atom f => some (0x82, .m f)
  | .red f => some (0x83, .m f)
  | .spst f => some (0x84, .m f)
  | .spld f => some (0x85, .m f)
  | .prf f => some (0x86, .m f)
  | .cinvLine f => some (0x87, .m f)
  | .cinvAll f => some (0x87, .m f)
  | .xlp f => some (0x88, .m f)
  | .fence f => some (0xA0, .m f)
  | .stsig f => some (0xA2, .m f)
  | .poll f => some (0xD4, .m f)
  | .bra f => some (0x02, .b f)
  | .brx f => some (0x03, .b f)
  | .call f => some (0x04, .b f)
  | .callx f => some (0x05, .b f)
  | .ret f => some (0x06, .b f)
  | .mark f => some (0x07, .b f)
  | .loop f => some (0x0A, .b f)
  | _ => none

/-! ### Decoding -/

/-- What decoding answers: an instruction, or the fault that the words raise (R65 orders 2 to 4). -/
inductive Decoded where
  | ok (i : Instr)
  | bad (v : Viol)
deriving DecidableEq, Repr

/-- OP of a word (R53). -/
def wordOp (w : BitVec 96) : Nat := (w.extractLsb' 88 8).toNat
/-- FN of a word (R53). -/
def wordFn (w : BitVec 96) : Nat := (w.extractLsb' 84 4).toNat
/-- MW of a word (R53). -/
def wordMw (w : BitVec 96) : Bool := w.getLsbD 73

/-- Decode the instruction word `w`, followed in memory by the word `m` (R65). An unassigned OP or FN gives
the step UNASSIGNED_OPCODE. Every other failing check gives its fault. -/
def decode (w m : BitVec 96) : Decoded :=
  match rowOf (wordOp w) (wordFn w) with
  | none => .ok (.unassignedOpcode w)
  | some r =>
    let p := parseForm r.fmt w m
    if tyIllegal r (Ty.ofCode (w.extractLsb' 80 4)) || (wordMw w && m.extractLsb' 88 8 != 0xFE) then .bad ⟨.illegal, 0⟩
    else match firstViol (p.2 ++ checkForm (wordOp w) r p.1) with
      | some v => .bad v
      | none => match build (wordOp w) p.1 with
        | some i => .ok i
        | none => .bad ⟨.illegal, 0⟩

/-- Length in bytes of the instruction whose first word is `w` (R52). -/
def wordLen (w : BitVec 96) : Nat := if wordMw w then 24 else 12

/-- The modifier word of the fields, if there is one. -/
def Form.mods : Form → Option Mods
  | .v f => f.m | .i f => f.m | .m f => f.m | .b _ => none

/-- The guard of the fields. -/
def Form.guard : Form → Guard
  | .v f => f.g | .i f => f.g | .m f => f.g | .b f => f.g

/-- FN of the fields; 0 in the formats that have only FN 0. -/
def Form.fn : Form → BitVec 4
  | .v f => f.fn | .m f => f.fn | .i _ => 0 | .b _ => 0

/-- TY of the fields; code 0 in Format B. -/
def Form.ty : Form → Ty
  | .v f => f.ty | .i f => f.ty | .m f => f.ty | .b _ => .i32

/-- The format of the fields. -/
def Form.fmt : Form → Fmt
  | .v _ => .v | .i _ => .i | .m _ => .m | .b _ => .b

/-- An instruction is well formed when its words pass every check of R65 that does not depend on the state
and mean this instruction. An autonomous step has no words and is not well formed in this sense. -/
def Instr.wf (i : Instr) : Bool :=
  match i with
  | .unassignedOpcode w => (rowOf (wordOp w) (wordFn w)).isNone
  | _ => match i.view with
    | none => false
    | some (op, f) => match rowOf op f.fn.toNat with
      | none => false
      | some r => r.fmt == f.fmt && !tyIllegal r f.ty && (firstViol (checkForm op r f)).isNone
          && build op f == some i

/-- The header bits [95:73] of an instruction (R53). -/
def encodeHead (op : Nat) (f : Form) : BitVec 23 :=
  BitVec.ofNat 8 op ++ f.fn ++ f.ty.code ++ f.guard.raw ++ BitVec.ofBool f.mods.isSome

/-- The instruction word of an opcode with its fields (R53, R57, R61 to R63). -/
def encodeForm (op : Nat) (f : Form) : BitVec 96 :=
  match f with
  | .v x => encodeHead op f ++ x.ct.raw ++ x.d.raw ++ x.a.raw ++ x.b.raw ++ x.c.raw
  | .i x => encodeHead op f ++ 0#3 ++ x.d.raw ++ x.a.raw ++ x.imm
  | .m x => encodeHead op f ++ x.hint.raw ++ x.d.raw ++ x.a.raw ++ x.b.raw ++ x.scope.raw ++ x.order.raw ++ x.off
  | .b x => encodeHead op f ++ BitVec.ofBool x.uni ++ 0#2 ++ x.d.raw ++ x.a.raw ++ x.disp

/-- The words of an instruction: one word, and the modifier word where it has one. None for an autonomous
step. -/
def encode (i : Instr) : Option (BitVec 96 × Option (BitVec 96)) :=
  match i with
  | .unassignedOpcode w => some (w, none)
  | _ => match i.view with
    | none => none
    | some (op, f) => some (encodeForm op f, f.mods.map Mods.raw)

/-- Length in bytes of an instruction: 24 with a modifier word (R52). An unassigned word has the length
that its MW bit gives (R365, CAUSE.ILEN). -/
def Instr.len (i : Instr) : Nat :=
  match i with
  | .unassignedOpcode w => wordLen w
  | _ => match i.view with
    | some (_, f) => if f.mods.isSome then 24 else 12
    | none => 12

/-- The instruction that the decoder reads from bits `w` numbered as the opcode table numbers them; the
bits above `nbits` are zero. -/
def decodeTableWord (nbits w : Nat) : Option Instr :=
  let v := w % 2 ^ nbits
  match decode (BitVec.ofNat 96 v) (BitVec.ofNat 96 (v / 2 ^ 96)) with
  | .ok i => some i
  | .bad _ => none

end Sys2Proof
end

