-- ==== Sys2Proof/Config.lean ====
section
/-! DEFINITION. What the device fixes (sizes and counts of the manual) and the values that the manual leaves
open. A free value is an opaque constant: nothing in Lean can evaluate it, so a claim holds whatever it is. -/

namespace Sys2Proof.Config

/-- Bytes of HBM: 12 stacks of 64 GiB (R19). -/
def hbmBytes : Nat := 12 * 64 * 2 ^ 30
/-- Bytes of Stratus: 4 stores of 512 MiB (R20). -/
def stratusBytes : Nat := 2 ^ 31
/-- Bytes of one core's scratchpad (R13). -/
def scratchBytes : Nat := 512 * 1024
/-- Enabled cores of the device (R10). -/
def cores : Nat := 256
/-- Resident slots of a quadrant (R13, R79). -/
def slots : Nat := 16
/-- Places of the active set of a quadrant (R79). -/
def activeMax : Nat := 8
/-- Entries of a core's L1 TLB (R202). -/
def tlbEntries : Nat := 64
/-- Entries of a die's L2 TLB (R202). -/
def l2TlbEntries : Nat := 8192
/-- Non-leaf entries of a die's walk cache (R202). -/
def walkEntries : Nat := 1024
/-- Outstanding memory requests of a quadrant (R211). -/
def quadRequests : Nat := 64
/-- Depth of a core's copy queue (R244). -/
def copyQueue : Nat := 32
/-- Operations that a pair's matrix queue holds (R277). -/
def matrixQueue : Nat := 4
/-- Tasks that the ready queue holds (R306). -/
def readyMax : Nat := 65536
/-- Greatest value of an in-flight counter (R261). -/
def inflightMax : Nat := 1023
/-- Bytes of one die's Jetstream buffer (R21), in records of 32 bytes. -/
def jetstreamRecords : Nat := 2 * 2 ^ 20 / 32

/-- FREE VALUES. The n-th value of width w that the manual leaves open: stamps, clock phases, signatures,
times that decide nothing architectural (log entry 6). -/
opaque freeValue (w n : Nat) : BitVec w

/-- FREE VALUE. The sign, magnitude and scale of the result of a special function on an operand, before the
model brings it inside the bound that R169 states (log entry 5): function number, element type code, operand
bits. The answer is a number of units of the type's last place from the floor of the exact value. -/
opaque specialOffset (fn : Nat) (ty : Nat) (x : Nat) : Int

/-- FREE VALUE. The host port behind a page of host memory: the manual does not say how pages are shared between the
ports (log entry 11). -/
opaque hostPort (page : Nat) : Bool

/-- FREE VALUE. The fixed hash of a destination page that selects a port of a route (R334): the manual does not give
it (log entry 12). -/
opaque portHash (page : Nat) : Nat

/-- FREE VALUE. The private half of the identity key, which never leaves the management controller (R422). -/
opaque identityKey : Nat

/-- FREE VALUE. The 1588 time at which a port transmits a request for the first time (R338), by port and request id. -/
opaque sendTime (port : Nat) (id : BitVec 64) : BitVec 64

/-- FREE VALUE. The acknowledgement credit in the header of a flit (R332), by port and link sequence number. -/
opaque ackCredit (port : Nat) (linkSeq : BitVec 24) : BitVec 8

end Sys2Proof.Config
end

