-- ==== Sys2Proof/Machine/State.lean ====
section
/-! DEFINITION. The state of the device as plain data, the reasons a step can stop, and the state after
reset (chapters 01, 02 and the state that the class chapters add). -/

namespace Sys2Proof.Machine

/-! ### A group -/

/-- A join-stack entry held in hardware (R89). -/
structure JoinEntry where
  lpc   : DWord
  ppc   : DWord
  smask : Lanes
  pmask : Lanes
  pend  : Bool
deriving DecidableEq, Repr

/-- The paths of the in-flight counters (R261). -/
inductive Path where
  | ldg | stg | copy | mtx | fab | spl
deriving DecidableEq, Repr

/-- The in-flight counters of a group (R261). -/
structure Inflight where
  ldg  : Nat
  stg  : Nat
  copy : Nat
  mtx  : Nat
  fab  : Nat
  spl  : Nat
deriving DecidableEq, Repr

/-- A word of a group's register space as an instruction resolved it at issue (R31, R32): its byte and, for a word of the
VIEW.A window, the key of the accumulator word behind it. -/
structure RsPlace where
  byte : Nat
  acc  : Option Nat
deriving DecidableEq, Repr

/-- What a load writes when its data returns: a scalar, or words of register space, whose places its issue has resolved (R32). -/
inductive LoadDst where
  | none
  | pred (n : Nat)              -- written at issue, lost with the data
  | scal (n : Nat) (v : TVal)
  | words (l : List (RsPlace × TWord))
deriving DecidableEq, Repr

/-- A page by the base-2 logarithm of its size and its number in units of it. -/
structure Page where
  shift : Nat
  num   : Nat
deriving DecidableEq, Repr

/-- The filling of an L1 line that a load asks for when its data returns (R208): line number (physical
address / 128), hint, and the way mask read at the request (R223). -/
structure FillReq where
  line   : Nat
  stream : Bool
  ways   : BitVec 16
deriving DecidableEq, Repr

/-- What an instruction shows to the antennae (R376): addresses, stored and loaded values and flags, each for a
lane or for all executing lanes. -/
structure Obs where
  addrs  : List (Option Nat × Nat) := []   -- effective addresses, by lane; none: held in a scalar operand
  stored : List (Option Nat × Nat) := []
  loaded : List (Option Nat × Nat) := []
  flags  : List (Option Nat × Nat) := []   -- FP flags raised, NV in [4] to NX in [0]
deriving DecidableEq, Repr

/-- A peer write or atomic request that has no response yet (R338, R340), or, with id 0, a peer load: the port that
numbered it, the effective address, FINFO.ACC, how often it has been sent again, its home device, address there and size, the 1588 time
of its first transmission, and what it asks for: an operation with its data, or a SEND's packet of chunk data. -/
structure Req where
  port  : Nat
  id    : BitVec 64
  ea    : DWord
  acc   : Nat
  tries : Nat
  dev   : BitVec 16 := 0
  pa    : Nat := 0
  size  : Nat := 1
  first : DWord := 0
  op    : PeerOp := .load
  data  : BitVec 128 := 0
  cmp   : DWord := 0
  chunk : Option ChunkFlit := none
deriving DecidableEq, Repr

/-- What Cirrus carries for a piece of an engine's work (R335): the requests without a response; `asked`, the data that it reads from
peer pages has been asked for; `sent`, its writes have been performed or are on their way. -/
structure Carry where
  reqs  : List Req
  asked : Bool
  sent  : Bool
deriving DecidableEq, Repr

/-- Nothing carried yet. -/
def Carry.none : Carry := ⟨[], false, false⟩

/-- A read whose data has not returned (R211, R212). `bad` is the fault that
an error met on the way will raise at the consumer: its code, FADDR and FINFO (R207, R339). `obs`, `exec`, `opc` and `sup` are what the antennae of FIELD loaded value see then. -/
structure PendingLoad where
  dst   : LoadDst
  path  : Option Path
  asid  : BitVec 16 := 0
  pages : List Page := []       -- pages whose translations it uses (R204)
  serial : Nat := 0             -- instructions issued before it
  fills : List FillReq
  bad   : Option (FCode × DWord × DWord)
  obs   : Obs
  exec  : Lanes
  opc   : DWord
  sup   : Bool
  reqs  : List Req := []        -- peer requests behind it (R338)
  holds : Bool := false         -- the group issues nothing until it returns (R327)
  far   : Bool := false         -- a lane of it reaches global or Stratus memory (R82)
deriving DecidableEq, Repr

/-- What DATA_LOST and OUTCOME_UNKNOWN mark (R207, R339, R426): a scalar, a word of register space, a predicate, the held join
stack, or a path, whose next wait is told of it. -/
inductive RegName where
  | scal (n : Nat)
  | word (p : RsPlace)
  | pred (n : Nat)
  | join
  | path (p : Path)
deriving DecidableEq, Repr

/-- A loss that waits for its consumer (R207, R339): the register or path it marks and the fault it raises there. -/
structure Loss where
  reg   : RegName
  code  : FCode
  faddr : DWord
  finfo : DWord
deriving DecidableEq, Repr

/-- A write whose acknowledgement has not returned: the counters it lowers (R211, R241) and the peer requests behind
it (R338), and what the wait that covers it is told (R339). -/
structure PendingAck where
  paths : List Path
  reqs  : List Req
  asid  : BitVec 16 := 0
  pages : List Page := []       -- pages whose translations it uses (R204)
  serial : Nat := 0             -- instructions issued before it
  home  : Bool := false         -- it has completed at its home, though older ones keep its counters up (R221, R261)
  lose  : List Loss := []       -- what has become unknown of it (R339)
deriving DecidableEq, Repr

/-- What a group is waiting for, besides what its next instruction waits on when it is tried again. -/
inductive Waiting where
  | no
  | sleep (long : Bool)  -- R101; `long`: 64 cycles or more (R82)
  | poll                 -- back-off, R327
  | spill                -- a join-stack spill not acknowledged, R90
  | fill                 -- a join-stack fill not returned, R90
  | fetch (line : Nat)   -- instruction-cache miss, R84
  | checkpoint           -- a checkpoint write in progress, R315
  | accept               -- a copy command not accepted, R244
  | abar (core byte : Nat)   -- waits at an asynchronous barrier, R268
  | dump                 -- a core dump in progress, R389, R391
  | barrier              -- arrived at the team barrier, R107
  | ggen                 -- ggen not complete, R222
  | preempted            -- waits for its counters before a restart, R316
  | restore              -- loads its checkpoint, R316
deriving DecidableEq, Repr

/-- The stall reason that a wait shows (R86). -/
def Waiting.reason : Waiting → Nat
  | .no => 0 | .sleep _ => 21 | .poll => 12 | .spill => 19 | .fill => 19 | .fetch _ => 2 | .checkpoint => 20
  | .accept => 14 | .abar _ _ => 11 | .dump => 24 | .barrier => 10 | .ggen => 17 | .preempted => 23 | .restore => 20

/-- The release of an `ab.wait` (R268): its pc, its result, and the scope of the acquire that it makes. -/
structure BarDone where
  pc     : DWord
  result : Bool
  scope  : Scope
deriving DecidableEq, Repr

/-- A trap decided but not yet taken (R256, R339). -/
structure TrapInfo where
  code  : FCode
  faddr : DWord
  finfo : DWord
  mask  : Lanes
  async : Bool
  ilen  : Bool      -- MW of the instruction at EPC
deriving DecidableEq, Repr

/-- A core dump in progress (R389, R391): its area, the ranges to copy, the dumped groups, those that the dump has put into
chrysalis, STAY, and the scalar that receives the bytes written. -/
structure DumpReq where
  buf     : DWord
  len     : Nat
  ranges  : List (DWord × Nat)
  keys    : List Nat
  entered : List Nat
  stay    : Bool
  dst     : Option Nat
deriving DecidableEq, Repr

/-- A resident group (R48): register space, scalars, predicates, masks, join stack, trap registers, stack
record, counters and its place in the schedule. -/
structure Group where
  resident : Bool
  ended    : Bool            -- every lane exited; the slot frees once the counters are zero (R99)
  asid     : BitVec 16
  team     : Nat
  index    : Nat
  core     : Nat
  quad     : Nat
  slot     : Nat
  size     : Nat
  regs     : Sparse TWord
  viewV    : DWord
  viewT    : DWord
  viewA    : DWord
  scal     : Sparse TVal
  mask     : Lanes
  full     : Lanes
  held     : Lanes
  exited   : Lanes
  preds    : Sparse Lanes
  fpc      : Sparse Word
  pc       : DWord
  stack    : List JoinEntry
  spilled  : Nat
  retired  : DWord
  dix      : DWord
  trapBase : DWord
  cause    : DWord
  epc      : DWord
  ema      : DWord
  emb      : DWord
  emc      : DWord
  faddr    : DWord
  finfo    : DWord
  mode     : Bool
  dbg      : Bool
  lbase    : DWord
  slane    : DWord
  jbase    : DWord
  jlim     : DWord
  cbase    : DWord
  clim     : DWord
  inflight : Inflight
  loads    : List PendingLoad
  acks     : List PendingAck
  waiting  : Waiting
  stall    : BitVec 5
  age      : Nat
  active   : Bool
  passed   : Nat                 -- times passed over while ready (R80)
  issued   : Nat                 -- the model's count of issues at its latest one (R83)
  pollStep : Nat
  pollTries : Nat
  ckSeq    : DWord
  ckAt     : Nat                 -- instructions issued when its latest checkpoint was taken (R319)
  ranges   : List (Nat × Nat)
  pendCk   : Option Nat           -- slot being written (R315)
  inHandler : Bool
  preempt  : Bool
  deferred : Bool
  late     : Bool
  chrysalis : Bool
  chCause  : BitVec 3
  chAnt    : BitVec 4
  chStall  : BitVec 5           -- stall reason when halted (R381)
  restWait : Bool               -- a wait begun before the halt goes on while the group rests (R379)
  parked   : Bool               -- descheduled by a replayable engine fault (R256)
  asyncTraps : List TrapInfo    -- traps that engines have left for it (R256, R339)
  barDone  : Option BarDone          -- an `ab.wait` has been released (R268)
  waitTold : Option (BitVec 96)      -- payload of the barrier-wait record that it has emitted in the current phase (R109, R270)
  cluBar   : Bool               -- a copy command has counted onto a cluster barrier since the last wait (R262)
  dumpTrap : Option TrapInfo    -- the fault whose dump is being taken (R391)
  dumpReq  : Option DumpReq     -- the dump that the group waits for
  lost     : List Loss
  l1Floor  : Nat
  ownWait  : Bool               -- its access waits on a line that an engine owns (R234)
  copyLate : List Nat           -- copy commands that are complete and wait for older ones to lower COPY (R261)
  copyLost : List (Nat × Loss)  -- copy commands whose outcome is unknown, with what the wait that covers them is told (R339)
  barLanes : Lanes              -- executing lanes of the `tbar` at which it waits (R376)
  doubled  : Bool               -- it has ended with a double fault, whose slot no group has used since (R369)
  readyAt  : Option Nat         -- when it became ready in the pending set, in issues and autonomous steps (model's own, R83)
  newer    : List (Nat × Nat)   -- HBM bytes that it has read past the L1, with the fill order of the copy that the L1 held then (R229)
deriving DecidableEq, Repr

/-- The execution mask with every lane set. -/
def allLanes : Lanes := BitVec.allOnes 96

/-- An empty slot: what a group key with no resident group reads as (log entry 7). -/
def Group.empty : Group :=
  { resident := false, ended := false, asid := 0, team := 0, index := 0, core := 0, quad := 0, slot := 0, size := 0
    regs := [], viewV := 0, viewT := 0, viewA := 0, scal := [], mask := 0, full := 0, held := 0, exited := 0
    preds := [], fpc := [], pc := 0, stack := [], spilled := 0, retired := 0, dix := 0, trapBase := 0
    cause := 0, epc := 0, ema := 0, emb := 0, emc := 0, faddr := 0, finfo := 0, mode := false, dbg := false
    lbase := 0, slane := 0, jbase := 0, jlim := 0, cbase := 0, clim := 0
    inflight := ⟨0, 0, 0, 0, 0, 0⟩, loads := [], acks := [], waiting := .no, stall := 0, age := 0, active := false
    passed := 0, issued := 0, pollStep := 0, pollTries := 0, ckSeq := 0, ckAt := 0, ranges := [], pendCk := none, inHandler := false
    preempt := false, deferred := false, late := false, chrysalis := false, chCause := 0, chAnt := 0
    chStall := 0, restWait := false, parked := false, asyncTraps := [], barDone := none, waitTold := none, cluBar := false, dumpTrap := none, dumpReq := none, lost := [], l1Floor := 0, ownWait := false, copyLate := [], copyLost := [], barLanes := 0, doubled := false, readyAt := none, newer := [] }

/-- A group at launch (R25, R35 to R38, R43 to R46): every register zero, the mask all ones, the join stack
empty. Identity, views, pc and placement are filled in by the launcher. -/
def Group.launch : Group := { Group.empty with resident := true, mask := allLanes, full := allLanes }

/-! ### A team -/

/-- The tag of the oldest of some waiters, which are listed oldest first with their tags; 0 when there is none. -/
def oldestTag (l : List (Nat × DWord)) : DWord := match l with | [] => 0 | p :: _ => p.2

/-- The team barrier (R107, R109): generation, arrived groups, and the groups that have arrived and wait, oldest first, by index
with their tags. -/
structure TeamBar where
  gen      : BitVec 16
  arrived  : BitVec 64
  waits    : List (Nat × DWord)
deriving DecidableEq, Repr

/-- A team on the device (R48): its task, its index, its kind and its scratchpad allocation. `base` is the
byte of its core's scratchpad (of both cores' for a pair team) where its allocation begins. -/
structure Team where
  live     : Bool
  asid     : BitVec 16
  task     : Nat
  lin      : Nat
  x        : Word
  y        : Word
  z        : Word
  groups   : Nat
  pair     : Bool
  core     : Nat
  base     : Nat
  scratch  : Nat
  ended    : BitVec 64
  bar      : TeamBar
  mxHolds  : Bool
  mxLost   : Bool
  done     : Bool
  children : List Nat
deriving DecidableEq, Repr

/-- No team. -/
def Team.empty : Team :=
  { live := false, asid := 0, task := 0, lin := 0, x := 0, y := 0, z := 0, groups := 0, pair := false, core := 0
    base := 0, scratch := 0, ended := 0, bar := ⟨0, 0, []⟩, mxHolds := false, mxLost := false, done := false, children := [] }

/-! ### Contexts -/

/-- What a context has on one core (R47, R192, R208): the way mask, the aperture bases and the fill order
of its latest acquire there. -/
structure CtxCore where
  ways  : BitVec 16
  apscr : DWord
  apstk : DWord
  apstr : DWord
  acq   : Nat
deriving DecidableEq, Repr

/-- A context on a core where nothing has been set: the reset value of WAYMASK (R47). -/
def CtxCore.empty : CtxCore := ⟨0xFFFF, 0, 0, 0, 0⟩

/-! ### The L1 data caches and the TLBs -/

/-- A valid line of an L1 (R208): line number (physical address / 128), its bytes, the context that filled
it, and the order of its fill; `use` is the order that replacement follows, lower first (R210). -/
structure L1Line where
  line   : Nat
  data   : List Byte
  filler : BitVec 16
  order  : Nat
  use    : Int
deriving DecidableEq, Repr

/-- A cached translation (R202): the TLB that holds it, by core or die, its tag, page number in units of its size, the leaf and
its level. `shift` is the base-2 logarithm of the page size. -/
structure TlbEntry where
  unit  : Nat
  asid  : BitVec 16
  gen   : BitVec 16
  shift : Nat
  page  : Nat
  pte   : DWord
  level : Nat
deriving DecidableEq, Repr

/-- A non-leaf entry in a die's walk cache (R202): tag, level, the number of the region that it maps, and the entry. -/
structure WalkEntry where
  die   : Nat
  asid  : BitVec 16
  gen   : BitVec 16
  level : Nat
  page  : Nat
  pte   : DWord
deriving DecidableEq, Repr

/-- What the last check has found uncorrectable (R207, R426): a byte of HBM, of Stratus or of the Contrail store in LPDDR6, a byte of
a line of a core's L1, which its fill order names, a word of scratchpad or of accumulator SRAM by its key. -/
inductive BadCell where
  | hbm (byte : Nat)
  | stratus (off : Nat)
  | lpddr (byte : Nat)
  | l1 (core pa order : Nat)
  | scratch (key : Nat)
  | accum (key : Nat)
deriving DecidableEq, Repr

/-- Lines that an engine owns from the issue of a command until it has written them (R234): bytes lo to
hi - 1 of HBM, or of a core's scratchpad. `src` marks a source that it holds against writes (R245). -/
structure Owned where
  cmd  : Nat
  src  : Bool
  core : Option Nat
  lo   : Nat
  hi   : Nat
deriving DecidableEq, Repr

/-- An armed barrier record or an active ring record in a core's scratchpad (R265): first byte and length; for a
barrier the team that initialised it and what the scratchpad controller keeps besides the record (R270), the waiters, oldest first, by
group key with their tags, and the copy of AWAIT. -/
structure Armed where
  core  : Nat
  team  : Nat
  byte  : Nat
  len   : Nat
  ring  : Bool
  waits : List (Nat × DWord)
  await : DWord
deriving DecidableEq, Repr

/-- An antenna (R375). -/
structure Antenna where
  ctl   : DWord
  comp  : DWord
  cmask : DWord
  lanea : DWord
  laneb : DWord
  count : DWord
deriving DecidableEq, Repr

/-- An antenna at reset (R375). -/
def Antenna.zero : Antenna := ⟨0, 0, 0, 0, 0, 0⟩

/-! ### Contrail -/

/-- A Contrail record (R385). -/
structure Record where
  time    : DWord
  tag     : DWord
  code    : BitVec 16
  engine  : BitVec 12
  isSealed : Bool
  payload : BitVec 96
deriving DecidableEq, Repr

/-- What moves next: a group issues its next instruction, or an autonomous step takes place. -/
inductive Move where
  | issue (grp : Nat)
  | event (i : Instr)
deriving DecidableEq, Repr

/-! ### Queues, graphs and tasks -/

/-- A launch record that the launcher has taken and that has not completed (R299, R300). -/
structure QRec where
  index : Word          -- record number in its queue
  kind  : Nat           -- 0 nop, 1 graph, 2 wait, 3 signal
  serial : Bool
  irq   : Bool
  ntask : Nat
  addr  : DWord
  value : DWord
  statw : DWord
  began : Bool          -- its action has begun: a graph has started, a wait has read its word
  tries : Nat           -- failed reads of a wait record
  tag   : DWord := 0    -- tag at which a wait began to wait (R357)
deriving DecidableEq, Repr

/-- A hardware work queue: its descriptor (R298) and the records in progress, oldest first. -/
structure Queue where
  rbase : DWord
  head  : Word
  tail  : Word
  asid  : BitVec 16
  log2n : BitVec 5
  prio  : BitVec 3
  port  : Bool
  en    : Bool
  err   : BitVec 3
  faddr : DWord
  halted : Bool             -- its host port has failed since EN was last set (R419)
  recs  : List QRec
deriving DecidableEq, Repr

/-- A queue at reset (R298). -/
def Queue.empty : Queue :=
  { rbase := 0, head := 0, tail := 0, asid := 0, log2n := 0, prio := 0, port := false, en := false, err := 0
    faddr := 0, halted := false, recs := [] }

/-- A started graph (R300, R303, R311). -/
structure Graph where
  live   : Bool
  asid   : BitVec 16
  queue  : Nat
  record : Word
  base   : DWord
  ntask  : Nat
  statw  : DWord
  fault  : Option (BitVec 8 × Word)   -- first fault's code and task
deriving DecidableEq, Repr

/-- No graph. -/
def Graph.empty : Graph :=
  { live := false, asid := 0, queue := 0, record := 0, base := 0, ntask := 0, statw := 0, fault := none }

/-- A kernel descriptor as the launcher reads it (R304). -/
structure KDesc where
  regs    : Nat
  scratch : Nat
  viewV   : DWord
  viewT   : DWord
  viewA   : DWord
  trapb   : DWord
  slane   : Nat
  ckregs  : Nat
  super   : Bool
  strload : Bool
deriving DecidableEq, Repr

/-- A registered task (R301, R302): where its TCB lies, what the launcher read from it and its descriptor at
the head of the ready queue (R305), and its progress. -/
structure Task where
  live    : Bool            -- registered
  asid    : BitVec 16
  va      : DWord           -- address of the TCB
  id      : Word
  graph   : Nat             -- key of the graph it belongs to; of a child, its ancestors' graph
  parent  : Nat             -- key of the team that launched it, 0 for none
  state   : Nat             -- 0 idle, 1 ready, 2 running, 3 retired, 4 faulted
  prio    : Nat
  checked : Bool            -- R305 has passed
  entry   : DWord
  gx      : Word
  gy      : Word
  gz      : Word
  groups  : Nat
  pair    : Bool
  cores   : Bool
  restart : Bool
  det     : Bool
  param   : DWord
  seed    : DWord
  depth   : Nat
  succ    : List Nat
  done    : DWord
  kd      : KDesc
  next    : Nat             -- linear index of the next team to place
  again   : List Nat        -- teams lost with their core, to be placed again (R310)
  placed  : Nat             -- teams placed and not ended
  retired : List Nat        -- linear indices of the teams that have retired
  fault   : Option (BitVec 8 × BitVec 8)   -- code and WHY
  succAt  : Nat             -- successors already decremented
  retiring : Bool
  endedAt : Nat             -- instructions issued when its latest team retired (R308)
  dies    : List Nat        -- dies that it holds for its Stratus load phase (R309)
  held    : Nat             -- order in which it took them; 0: it has taken none
deriving DecidableEq, Repr

/-- A descriptor with every field zero. -/
def KDesc.zero : KDesc :=
  { regs := 0, scratch := 0, viewV := 0, viewT := 0, viewA := 0, trapb := 0, slane := 0, ckregs := 0
    super := false, strload := false }

/-- No task. -/
def Task.empty : Task :=
  { live := false, asid := 0, va := 0, id := 0, graph := 0, parent := 0, state := 0, prio := 0
    checked := false, entry := 0, gx := 0, gy := 0, gz := 0, groups := 0, pair := false, cores := false
    restart := false, det := false, param := 0, seed := 0, depth := 0, succ := [], done := 0
    kd := KDesc.zero, next := 0, again := [], placed := 0, retired := [], fault := none, succAt := 0, retiring := false, endedAt := 0
    dies := [], held := 0 }

/-- An entry of the ready overflow (R307): level, task, and its place in the region. -/
structure OvEntry where
  level : Nat
  task  : Nat
  slot  : Nat
deriving DecidableEq, Repr

/-- A deferred floating-point atomic of a deterministic task (R216, R320): its place in the order (team index,
group, program order, lane), the home, and the operation with its prepared operand and rounding. -/
structure DeferEntry where
  task  : Nat
  lin   : Nat
  group : Nat
  order : Nat
  lane  : Nat
  mt    : Nat            -- memory type of the home, as a PTE's MT
  pa    : Nat
  page  : Page           -- the page whose translation it used (R204)
  serial : Nat           -- instructions issued before it
  fn    : Nat
  ty    : Ty
  data  : DWord
  mode  : Nat
  draw  : Word           -- bits [31:0] of the mix value, for STO
  daz   : Bool
  ftz   : Bool
deriving DecidableEq, Repr

/-! ### Contexts of the device -/

/-- A context (R199, R196, R202, R391): page-table root, generation, privilege, stack reserve, attach list,
dump mask. -/
structure Ctx where
  live   : Bool
  root   : DWord
  gen    : BitVec 16
  priv   : Bool
  rnext  : DWord
  rend   : DWord
  home   : DWord            -- base of the home areas in the stack region
  homeSize : Nat            -- bytes of one home area
  attach : List (BitVec 16)
  dump   : DWord            -- dump mask by fault code (R391)
  dumpReq : BitVec 512      -- request record of the dumps of faults (R391), laid out as R389 gives
  deferMax : Nat            -- entries of the deferral area (R320)
  quantum : DWord
  tenant : Option (BitVec 256)   -- tenant key, when records are sealed (R424)
  debug  : Bool             -- debug context: its groups have PRIV.DBG (R45)
  pool   : List Nat         -- the driver's free list of 4 KiB pages for first touch, by physical address (R206)
deriving DecidableEq, Repr

/-- No context. -/
def Ctx.empty : Ctx :=
  { live := false, root := 0, gen := 0, priv := false, rnext := 0, rend := 0, home := 0, homeSize := 0
    attach := [], dump := 0, dumpReq := 0, deferMax := 0, quantum := 0, tenant := none, debug := false, pool := [] }

/-! ### Translation maintenance -/

/-- A queued `tlbi` (R221): what it removes and the group whose STG it lowers; `swept` says after how many issued instructions the
entries went, and it then waits for the accesses that used them. -/
structure TlbiCmd where
  grp  : Nat
  die  : Nat
  asid : BitVec 16
  hint : Nat              -- 0 any size, 1 4 KiB, 2 64 KiB, 3 2 MiB, 4 1 GiB
  all  : Bool
  lo   : Nat
  len  : Nat
  serial : Nat := 0       -- instructions issued before it
  swept : Option Nat := none
deriving DecidableEq, Repr

/-- A `ggen` not complete (R222); `swept` as in a `tlbi`, when the generation would pass 0xFFFF. -/
structure GgenCmd where
  grp  : Nat
  asid : BitVec 16
  dst  : Nat
  swept : Option Nat := none
deriving DecidableEq, Repr

/-! ### Tensor copy engines -/

/-- The canonical encodings of scratchpad and accumulator containers (R249). -/
inductive Canon where
  | cx | c32 | c64 | rns | raw
deriving DecidableEq, Repr

/-- A layout record as the engine has read it (R246). Lists run over the dimensions: strides of dimensions 1 to 4, tile
lengths and extents of 0 to 4. `can` is the canonical encoding in force. -/
structure Layout where
  base  : DWord
  strs  : List Nat
  tls   : List Nat
  exts  : List Nat
  fmt   : Nat
  ndim  : Nat
  rm    : Nat
  scloc : Nat
  sat   : Bool
  can   : Canon
deriving DecidableEq, Repr

/-- The barrier onto which a command counts: core and byte of its record, and whether its scope is the cluster
(R252, R264). -/
structure BarRef where
  core : Nat
  byte : Nat
  wide : Bool
deriving DecidableEq, Repr

/-- A tensor transfer of one tile with what it took from its group at issue (R244, R252, R254). `elem` is the element
argument of its first element's draw. -/
structure CopyCmd where
  id      : Nat
  grp     : Nat
  core    : Nat              -- core of the engine
  team    : Nat
  asid    : BitVec 16
  user    : Bool
  strload : Bool             -- may write Stratus (R272)
  store   : Bool
  lay     : Layout
  origin  : List Nat
  tcore   : Nat              -- the tile: core and byte of scratchpad, window address
  tbyte   : Nat
  tva     : DWord
  bar     : Option BarRef
  mode    : Nat
  seed    : DWord
  dix     : DWord
  elem    : Nat
  accepted : Bool
  stopped : Option TrapInfo  -- a replayable fault has stopped it (R256)
  undone  : Nat              -- the part of its transfer, in containers, elements or blocks, left when it was stopped
  carry   : Carry            -- of a ring: of the tile in flight
deriving DecidableEq, Repr

/-- An active ring (R257, R258): its record, and the transfer that its tiles follow with the origin of tile 0 and the
tile of slot 0; `next` is the number of the next tile, `tile` its command number once its slot is available (0 before), `stopping`
that `tc.stop` has come while it was in flight. -/
structure Ring where
  rcore   : Nat
  rbyte   : Nat
  cmd     : CopyCmd
  pitch   : Nat              -- bytes from slot to slot
  nslot   : Nat
  dim     : Nat
  step    : Nat
  count   : Nat              -- 0: until `tc.stop`
  next    : Nat
  tile    : Nat
  stopping : Bool
deriving DecidableEq, Repr

/-! ### Matrix engines -/

/-- What a queued matrix operation does (R286). -/
inductive MxWork where
  | mma (ctl : DWord)
  | load (f64 : Bool)
  | store (f64 rs cs outf : Bool)
  | zero
deriving DecidableEq, Repr

/-- A quarter of B as the issue of `mx.mma` resolved it (R32, R280): its holder, the register-space byte of its first row, and the
VIEW.A through which its words are read. -/
structure Quarter where
  grp   : Nat
  byte  : Nat
  viewA : DWord
deriving DecidableEq, Repr

/-- A queued matrix operation (R277) with what its issue resolved: its tile place, the byte of its image or A half in both
scratchpads of the pair, the quarters of B (none for a holder that does not exist or has ended), the 128-byte granules of its scales by core and byte, and its
barrier. `data` is what the engine has read when the operation has begun: A and the
quarters of B, an image, or the scales. -/
structure MxOp where
  id       : Nat
  grp      : Nat
  team     : Nat
  asid     : BitVec 16
  core     : Nat             -- the leader
  work     : MxWork
  tile     : Nat
  byte     : Nat
  va       : DWord
  quarters : List (Option Quarter)
  rowScale : List (Nat × Nat)
  colScale : List (Nat × Nat)
  bar      : Option BarRef
  begun    : Bool
  data     : List (List TWord)
deriving DecidableEq, Repr

/-- The matrix engine of a pair (R276, R277, R293): its holder's team key, whether it is in reset, its sticky status bits and
its operations in order. -/
structure MxPair where
  holder : Option Nat
  reset  : Bool
  nv     : Bool
  ovf    : Bool
  ops    : List MxOp
deriving DecidableEq, Repr

/-- A free matrix engine. -/
def MxPair.empty : MxPair := ⟨none, false, false, false, []⟩

/-! ### Context switches -/

/-- A context switch in progress on a core (R318): the cycles it charges and whether it pre-empted a group late. -/
structure Switch where
  core     : Nat
  outgoing : BitVec 16
  incoming : BitVec 16
  cycles   : Word
  late     : Bool
deriving DecidableEq, Repr

/-- What the control processor holds of a context that is switched out of a core (R50, R274, R278): its groups by key, the
scratchpad words, armed records and rings of its teams, and the reservation of the core's pair with its accumulators. -/
structure SavedCtx where
  bad     : List BadCell
  core    : Nat
  asid    : BitVec 16
  groups  : Sparse Group
  teams   : List Nat
  scratch : Sparse TWord
  armed   : List Armed
  rings   : List Ring
  mx      : Option (Nat × MxPair)
  accum   : Sparse TWord
deriving DecidableEq, Repr

/-! ### The fabric -/

/-- An entry of a port's replay filter: source, request id, the response that is sent again (R338). -/
structure FilterEntry where
  port  : Nat
  src   : Nat
  id    : DWord
  value : DWord
deriving DecidableEq, Repr

/-- A notice that ends a sequence (R349, R355, R360): a mismatch of two ranks' signatures, the second rank being the sender
of the packet; an abort; an abort by a watchdog that names a rank. -/
inductive Ending where
  | mismatch (rankA rankB : Nat) (sigA sigB : Sig)
  | aborted
  | watchdog (rank : Nat)
deriving DecidableEq, Repr

/-- A notice received before its sequence is issued here. -/
structure Notice where
  comm : Nat
  seq  : Word
  src  : Sender
  what : Ending
deriving DecidableEq, Repr

/-- A packet that leaves the device. Ranks name members of the communicator. -/
inductive Packet where
  | chunk (p : ChunkFlit)
  | credit (c : Credit)
  | ending (comm : Nat) (seq : Word) (what : Ending)
  | probe (comm : Nat) (seq : Word) (node : Nat)
  | answer (comm : Nat) (seq : Word) (ans : Answer)
  | response (id : DWord) (value : BitVec 128)
  | request (id : DWord) (op : PeerOp) (pa size : Nat) (data : BitVec 128) (cmp : DWord)
  | resend (linkSeq : BitVec 24)         -- a flit asked for again
deriving DecidableEq, Repr

/-- A flit sent (R332): its port, the destination device and causal tag of its header, the packet that it belongs to; the rest of the
header: source device, link sequence, acknowledgement credit, request id, payload bytes in the flit; the 1588 time of the first
transmission, which a request carries (R338), and the signature that a packet of a collective carries (R349). Of KIND, the flags and the CRC the manual gives no codes and no polynomial: the packet
stands for them (log entry 87). -/
structure Sent where
  port    : Nat
  dev     : BitVec 16
  tag     : DWord
  pkt     : Packet
  src     : BitVec 16 := 0
  linkSeq : BitVec 24 := 0
  ack     : BitVec 8 := 0
  reqId   : DWord := 0
  bytes   : Nat := 0
  first   : DWord := 0
  sig     : Option Sig := none
deriving DecidableEq, Repr

/-! ### Collectives -/

/-- A communicator record (R343). -/
structure Comm where
  nrank    : Word
  myrank   : Word
  rmap     : DWord
  asid     : BitVec 16
  en       : Bool
  wdact    : Bool
  port     : Bool
  deadline : Word
  nextseq  : Word
  doneseq  : Word
deriving DecidableEq, Repr

/-- A communicator at reset (R343). -/
def Comm.empty : Comm :=
  { nrank := 0, myrank := 0, rmap := 0, asid := 0, en := false, wdact := false, port := false, deadline := 0, nextseq := 0
    doneseq := 0 }

/-- A node of a chunk-graph template (R344): KIND 0 SEND, 1 RECV, 2 COPY. -/
structure TplNode where
  kind : Nat
  src  : Nat
  dst  : Nat
  red  : Bool
  peer : Nat
  cadd : Nat
  cmul : BitVec 8
  dep  : Nat
  succ : List Nat
deriving DecidableEq, Repr

/-- A template slot (R356); a free slot lists no node. -/
structure Template where
  asid   : BitVec 16
  tplid  : Word
  nchunk : Nat
  nodes  : List TplNode
deriving DecidableEq, Repr

/-- A free template slot. -/
def Template.empty : Template := ⟨0, 0, 0, []⟩

/-- The progress of a node (R345): completed predecessors, whether it is ready and complete, the bytes a RECV has
received, the tag at which it became ready, what Cirrus carries for it, and the tag of the packet that brought a RECV's last bytes. -/
structure NodeSt where
  count : Nat
  ready : Bool
  done  : Bool
  got   : Nat
  tag   : DWord
  carry : Carry
  cause : DWord
deriving DecidableEq, Repr

/-- A node at the start of its collective. -/
def NodeSt.start : NodeSt := ⟨0, false, false, 0, 0, Carry.none, 0⟩

/-- A watchdog's walk in progress (R360): the step's node, V, L, the answers with their tags, and the rank whose answer is
outstanding. -/
structure Walk where
  node    : Nat
  seen    : List Nat
  late    : List Nat
  answers : List (Nat × Option Answer × DWord)
  waiting : Nat
deriving DecidableEq, Repr

/-- A collective (R348 to R350, R354): what its `cl.go` took, its progress and its end. `status` is 0 in progress, 1 complete,
2 aborted, 3 error; `told` says that the error has been reported, `lowered` that FAB has been lowered. -/
structure Coll where
  comm    : Nat
  seq     : Word
  cmd     : Nat               -- owner number of its lines
  grp     : Nat
  team    : Nat
  core    : Nat
  asid    : BitVec 16
  user    : Bool
  nrank   : Nat
  myrank  : Nat
  rmap    : List (BitVec 16)
  bufs    : List DWord        -- IN, OUT, SCR
  count   : Nat
  ty      : Nat
  op      : Nat
  gph     : Bool
  slot    : Nat
  bar     : Option (Nat × Nat)
  gate    : Option (Nat × Nat)
  flag    : DWord
  flagv   : DWord
  tplid   : Word
  nchunk  : Nat
  nodes   : List TplNode
  st      : List NodeSt
  running : Bool              -- the gate has opened, or there is none
  tag     : DWord             -- tag of its `cl.go`
  gateTag : DWord             -- tag at which its gate step became ready
  cause   : DWord             -- tag of the packet received last
  status  : Nat
  code    : Option FCode
  finfo   : DWord
  clash   : Option Ending     -- what a mismatch recorded
  told    : Bool
  lowered : Bool
  stopped : Option TrapInfo   -- a replayable fault of its Skippers that is not serviced yet (R256, R350)
  serial  : Nat               -- instructions issued before its `cl.go` (R261)
  tripped : List Nat          -- nodes whose deadline has passed; 65,535 for the gate
  irqSent : Bool
  walks   : List Walk
  stage   : Nat               -- how far its end has come: 1 the lone member's copy has asked, 2 it has written, 3 BAR and FLAG are served
  closing : List Req          -- the requests of its end that have no response
deriving DecidableEq, Repr

/-- A `step` that a debug group has asked for (R382): the debug group and the address of its `step`, the target, the named
lanes, ONLY; `begun` says that the target has issued a command that is not accepted yet; and the result once it is known. -/
structure StepReq where
  debugger : Nat
  pc     : DWord
  target : Nat
  lanes  : Lanes
  only   : Bool
  begun  : Bool
  result : Option Nat
deriving DecidableEq, Repr

/-! ### The management controller -/

/-- TSTAT (R420). -/
structure TimeState where
  state  : BitVec 2      -- 0 free-running, 1 locking, 2 locked, 3 holdover
  pps    : Bool
  ptm    : List Nat      -- host ports on which PTM is present
  offset : BitVec 32
deriving DecidableEq, Repr

/-- An island (R428 to R430): its state (0 On, 1 Gated, 2 Retention, 3 Off), clock in MHz, voltage in mV, issue limit. -/
structure Island where
  st    : BitVec 2
  mhz   : Nat
  mv    : Nat
  issue : Nat
deriving DecidableEq, Repr

/-- An attestation report (R422). -/
structure Report where
  devid  : BitVec 16
  life   : BitVec 4
  nonce  : BitVec 512
  meas   : List (BitVec 512)
  resets : DWord
  sigR   : BitVec 528
  sigS   : BitVec 528
deriving DecidableEq, Repr


/-! ### The device -/

/-- The state of the whole device. -/
structure State where
  cur      : Nat                 -- key of the group whose instruction `exec` runs (model's own)
  agenda   : List Move           -- moves and outside inputs to come (model's own, log entry 3)
  tried    : List Nat            -- groups whose latest attempt ended in a wait, since the state last changed (model's own)
  lately   : Nat                 -- instructions issued since the latest autonomous step (model's own)
  turns    : Nat                 -- autonomous steps so far, which spreads the choice among due ones (model's own)
  clock    : Nat                 -- instructions issued so far, which orders issues (model's own, R83)
  freeCtr  : Nat                 -- number of the next free value (model's own, log entry 6)
  groups   : Sparse Group
  teams    : Sparse Team
  ctxCores : Sparse CtxCore      -- key core · 65,536 + ASID
  hbm      : Memory
  stratus  : Memory
  host     : Memory              -- host memory as the device sees it (log entry 11)
  peer     : Memory              -- key device id · 2^48 + physical address (log entry 11)
  scratch  : Sparse TWord        -- key core · 131,072 + word
  accum    : Sparse TWord        -- key pair · 131,072 + word
  l1       : Sparse L1Line       -- key core · 1,024 + set · 16 + way
  l1Ctr    : Nat                 -- fill order counter
  tlb      : List TlbEntry       -- the L2 TLBs of the dies, newest first (R202)
  l1tlb    : List TlbEntry       -- the L1 TLBs of the cores, newest first (R202)
  walks    : List WalkEntry      -- the walk caches of the dies, newest first (R202)
  ants     : Sparse Antenna      -- key core · 16 + antenna (R375)
  icache   : List (Nat × Nat)    -- core and virtual line (ASID · 2^64 + address / 128) held, newest first (log entry 9)
  owned    : List Owned          -- lines that engines own (R234)
  armed    : List Armed          -- armed barriers and active rings (R265, R270)
  refresh  : List Nat            -- Stratus banks in their refresh window: die · 64 + bank (R271)
  seqs     : Sparse (BitVec 36)  -- sequence of each engine's causal tags (R341)
  jet      : Sparse (List Record)    -- Jetstream buffer of each die, oldest first (R21)
  drops    : Sparse DWord        -- records dropped per die (R21)
  contrail : List Record         -- the Contrail store, oldest first
  stamps   : Sparse DWord        -- stamp counter of each die, as of its last record (R432)
  counts   : Sparse DWord        -- counters of the management window, by number
  routes   : Sparse (BitVec 16)  -- route table: ports towards each device id (R334)
  queues   : Sparse Queue
  graphs   : Sparse Graph
  graphCtr : Nat
  tasks    : Sparse Task         -- key ASID · 2^64 + address of the TCB
  teamCtr  : Nat
  ready    : List (Nat × Nat)    -- level and task key, oldest first (R306)
  overflow : List OvEntry        -- ready overflow, oldest first (R307)
  ovBase   : Nat                 -- physical address of the overflow region (R307)
  ovMax    : Nat                 -- entries that the overflow region holds
  deferred : List DeferEntry
  ctxs     : Sparse Ctx          -- key ASID
  device   : BitVec 16           -- device id
  poison   : List BadCell        -- data that is uncorrectable (R207, R426)
  tlbis    : List TlbiCmd        -- privileged invalidation queues, oldest first (R221)
  ggens    : List GgenCmd        -- `ggen` instructions not complete (R222)
  cmdCtr   : Nat                 -- number of the latest command of a copy engine or fabric agent (R234)
  copies   : List CopyCmd        -- queued copy commands, oldest first (R244)
  rings    : List Ring           -- active rings (R244)
  mx       : Sparse MxPair       -- matrix engines, by pair
  spares   : List Nat            -- logical cores that a spare has replaced (R11)
  lastTaken : Sparse Nat         -- by level: one more than the queue from which a record was last taken (R298)
  irqs     : List (Nat × Nat)    -- interrupts sent: host port and vector (R418)
  hostDown : List Nat            -- host ports that have failed (R419)
  switches : List Switch         -- context switches in progress (R318)
  saved    : List SavedCtx       -- contexts switched out (R50)
  absent   : List Nat            -- logical cores with no core behind them (R12)
  phys     : Sparse Nat          -- one more than the physical core behind a remapped logical core (R11)
  portsDown : List Nat           -- Cirrus ports that are down (R333)
  lanesLost : List Nat           -- Cirrus ports that run on their spare lane (R333)
  reqIds   : Sparse DWord        -- the latest request id of each Cirrus port (R338)
  filters  : List FilterEntry    -- the replay filters, oldest first (R338)
  linkSeqs : Sparse (BitVec 24)  -- link sequence number of the latest flit of each Cirrus port (R332)
  replayBuf : List Sent          -- the replay buffers of the ports, oldest first (R332)
  noCredit : List Nat            -- Cirrus ports whose peer withholds credit for requests (R338)
  credits  : List Credit         -- credits of peers' RECVs, of sequences that are not over (R346)
  outbox   : List Sent           -- flits sent, oldest first (model's own record of what leaves the device)
  lastk    : Sparse DWord        -- latest tag received, by communicator · 65,536 + rank (R357)
  comms    : Sparse Comm         -- communicator records (R343)
  tpls     : Sparse Template     -- template slots (R356)
  colls    : List Coll           -- collectives, oldest first (R349)
  offers   : List ChunkFlit      -- packets of chunks that no ready RECV has taken (R346)
  notices  : List Notice         -- notices of sequences that are not issued here yet (R349, R355)
  waited   : List (Nat × Nat)    -- accesses of engines and of the outside that wait on an owned line: kind and number (R243)
  inbox    : List Instr          -- host writes and peer requests that wait on an owned line, oldest first (R234, R235)
  steps    : List StepReq        -- `step` requests, oldest first (R382)
  sampling : Sparse DWord        -- PC sampling of each die: EN in [0], k in [5:1] (R388)
  summed   : Sparse DWord        -- the drop counter of each die at its last summary record (R21)
  sampled  : Sparse Nat          -- by quadrant: one more than the slot sampled last (R388)
  seqBase  : BitVec 36           -- sequence of the engines that `seqs` does not list (R342)
  tstat    : TimeState           -- R420
  mgmtTime : DWord               -- the management controller's time counter (R432)
  islands  : Sparse Island       -- the islands that are not as at power-on (R428)
  budget   : DWord               -- the power budget (R429)
  life     : BitVec 4            -- 0 manufacturing, 1 provisioned, 2 deployed, 3 returned (R422)
  lifeNext : Option (BitVec 4)   -- the lifecycle state that the next reset enters (R423)
  resets   : DWord               -- device resets since provisioning (R422)
  attest   : Option Report       -- the latest attestation report (R422)
  recovery : Bool                -- an image has failed verification (R421)
  meas     : List (BitVec 512)   -- digests of the images of boot steps 1 to 4 (R422)
  rootKey  : BitVec 512          -- the fused digest of Kyosol's root key (R421)
  operKey  : BitVec 512          -- the registered digest of the operator key; 0 for none (R421)
  chErrors : Sparse Nat          -- corrected errors of a pseudo-channel in the second that runs: stack · 256 + channel (R425)
  chSpared : Sparse Nat          -- by HBM stack: one more than the pseudo-channel that its spare has replaced (R425)
deriving DecidableEq, Repr

/-! ### Stops of the model -/

/-- Why the model stops with a fault. Each is safe: the model stops where it does not know the hardware. -/
inductive Fault where
  /-- Raised by an access whose translation names an HBM physical address at or beyond 768 GiB (R19): the
  manual gives no memory there. Safe. -/
  | hbmAbsent
deriving DecidableEq, Repr

/-- Why the model refuses an instruction. -/
inductive Refusal where
  /-- Raised by the arms of `exec` of an instruction that has no meaning yet. Safe. -/
  | notModelled (mnemonic : String)
deriving DecidableEq, Repr

/-- The machine right after reset (R5, R423): no context, no group, memories wiped, every register of the
management window at its reset value; nothing runs until the outside world acts (log entry 1). -/
def State.reset : State :=
  { cur := 0, agenda := [], tried := [], lately := 0, turns := 0, clock := 0, freeCtr := 0, groups := [], teams := [], ctxCores := [], hbm := [], stratus := []
    host := [], peer := [], scratch := [], accum := [], l1 := [], l1Ctr := 0, tlb := [], l1tlb := [], walks := [], icache := [], ants := [], owned := [], armed := [], refresh := [], seqs := [], jet := []
    drops := [], contrail := [], stamps := [], counts := [], routes := []
    queues := [], graphs := [], graphCtr := 0, tasks := [], teamCtr := 0, ready := [], overflow := [], ovBase := 0, ovMax := 0, deferred := []
    ctxs := [], device := 0
    poison := [], tlbis := [], ggens := []
    cmdCtr := 0, copies := [], rings := []
    mx := [], spares := []
    lastTaken := [], irqs := [], hostDown := [], switches := [], saved := [], absent := [], phys := []
    portsDown := [], lanesLost := [], reqIds := [], filters := [], linkSeqs := [], replayBuf := [], noCredit := [], credits := [], outbox := [], lastk := [], comms := [], tpls := [], colls := []
    offers := [], notices := []
    waited := [], inbox := [], steps := [], sampling := [], sampled := [], summed := []
    seqBase := 0x100000, tstat := ⟨0, false, [], 0⟩, mgmtTime := 0, islands := [], budget := 0, life := 0, lifeNext := none
    resets := 0, attest := none, recovery := false, meas := [], rootKey := 0, operKey := 0, chErrors := [], chSpared := []
  }

end Sys2Proof.Machine
end

