-- ==== Sys2Proof/Machine/Regs.lean ====
section
/-! DEFINITION. Access to the parts of the state: groups, teams and tasks; scalars, masks, predicates, FPC and
vector words of the issuing group (chapter 02). -/

namespace Sys2Proof

/-- The unconditional guard: GN 0, GP 0 (R56). -/
def Guard.isNone (gd : Guard) : Bool := !gd.neg && gd.pred == 0

/-- The guard that never executes: GN 1, GP 0 (R55). -/
def Guard.isNever (gd : Guard) : Bool := gd.neg && gd.pred == 0

/-- lane_of of R68: the lane that lane i reads through a pattern, none for a shift past lane 95 (R60). -/
def Pattern.lane (p : Pattern) (i : Nat) : Option Nat :=
  match p with
  | .ident  => some i
  | .rot k  => some ((i + k.val) % 96)
  | .bc k   => some k.val
  | .bf k   => some (32 * ((i / 32 + k.val / 32) % 3) + ((i % 32) ^^^ (k.val % 32)))
  | .mir    => some (95 - i)
  | .mirb   => some (32 * (i / 32) + 31 - i % 32)
  | .sh k   => if i + k.val < 96 then some (i + k.val) else none
  | .beat k => some (i % 32 + 32 * k.val)

/-- A vector operand of an instruction: its register, whether it is a pair, and the pattern it is read
through. -/
structure VecOp where
  n    : Nat
  wide : Bool
  pat  : Pattern
deriving DecidableEq, Repr

/-- The vector operand of a source. -/
def Src.vecOp (x : Src) (wide : Bool) : List VecOp := match x with | .vec n p => [⟨n.toNat, wide, p⟩] | _ => []
/-- The vector operand of a destination. -/
def Dst.vecOp (x : Dst) (wide : Bool) : List VecOp := match x with | .vec n => [⟨n.toNat, wide, .ident⟩] | _ => []

end Sys2Proof

namespace Sys2Proof.Machine

/-! ### Tables -/

/-- Key of a group slot: core, quadrant, slot. -/
def groupKey (core quad slot : Nat) : Nat := core * 64 + quad * 16 + slot

/-- The group at a key. -/
def State.group (s : State) (k : Nat) : Group := Store.get Group.empty s.groups k
/-- A group replaced. -/
def State.putGroup (s : State) (k : Nat) (g : Group) : State := { s with groups := Store.put k g s.groups }
/-- The issuing group. -/
def State.g (s : State) : Group := s.group s.cur
/-- The issuing group replaced. -/
def State.setG (s : State) (g : Group) : State := s.putGroup s.cur g
/-- The team at a key. -/
def State.team (s : State) (k : Nat) : Team := Store.get Team.empty s.teams k
/-- A team replaced. -/
def State.putTeam (s : State) (k : Nat) (t : Team) : State := { s with teams := Store.put k t s.teams }
/-- The team of the issuing group. -/
def State.t (s : State) : Team := s.team s.g.team
/-- The task at a key. -/
def State.task (s : State) (k : Nat) : Task := Store.get Task.empty s.tasks k
/-- A task replaced. -/
def State.putTask (s : State) (k : Nat) (t : Task) : State := { s with tasks := Store.put k t s.tasks }
/-- The task of a team. -/
def State.taskOf (s : State) (t : Team) : Task := s.task t.task
/-- A graph. -/
def State.graph (s : State) (k : Nat) : Graph := Store.get Graph.empty s.graphs k
/-- A graph replaced. -/
def State.putGraph (s : State) (k : Nat) (g : Graph) : State := { s with graphs := Store.put k g s.graphs }
/-- A hardware work queue. -/
def State.queue (s : State) (k : Nat) : Queue := Store.get Queue.empty s.queues k
/-- A queue replaced. -/
def State.putQueue (s : State) (k : Nat) (q : Queue) : State := { s with queues := Store.put k q s.queues }
/-- The context of an ASID. -/
def State.ctx (s : State) (asid : BitVec 16) : Ctx := Store.get Ctx.empty s.ctxs asid.toNat
/-- A context replaced. -/
def State.putCtx (s : State) (asid : BitVec 16) (c : Ctx) : State := { s with ctxs := Store.put asid.toNat c s.ctxs }
/-- Key of a context on a core. -/
def ctxCoreKey (core : Nat) (asid : BitVec 16) : Nat := core * 65536 + asid.toNat
/-- What a context has on a core (R47, R192). -/
def State.ctxCore (s : State) (core : Nat) (asid : BitVec 16) : CtxCore :=
  Store.get CtxCore.empty s.ctxCores (ctxCoreKey core asid)
/-- The same, replaced. -/
def State.putCtxCore (s : State) (core : Nat) (asid : BitVec 16) (c : CtxCore) : State :=
  { s with ctxCores := Store.put (ctxCoreKey core asid) c s.ctxCores }

/-- The logical cores a team occupies (R15, R17). -/
def Team.coreList (t : Team) : List Nat := if t.pair then [t.core, t.core + 1] else [t.core]

/-- The resident groups with their keys. -/
def State.residents (s : State) : Sparse Group := s.groups.filter fun p => p.2.resident

/-- The resident groups of a team, with their keys. -/
def State.teamGroups (s : State) (team : Nat) : Sparse Group :=
  s.groups.filter fun p => p.2.resident && p.2.team == team

/-! ### The execution mask and the predicates (R34, R35, R37, R379) -/

/-- Lanes 32k to 32k + 31 of a lane set, in bits [31:0] of a scalar (R34). -/
def lanePart (m : Lanes) (k : Nat) : DWord := (m.extractLsb' (32 * k) 32).setWidth 64

/-- A lane set with lanes 32k to 32k + 31 replaced by bits [31:0] of a scalar (R34). -/
def setLanePart (m : Lanes) (k : Nat) (v : DWord) : Lanes :=
  let field : Lanes := (v.setWidth 32).setWidth 96 <<< (32 * k)
  let hole : Lanes := (BitVec.allOnes 32).setWidth 96 <<< (32 * k)
  (m &&& ~~~hole) ||| field

/-- A mask restore: FULL becomes the restored value without the exited lanes and the live mask FULL without
the held lanes (R35, R379). -/
def Group.restoreMask (g : Group) (m : Lanes) : Group :=
  { g with full := m &&& ~~~g.exited, mask := (m &&& ~~~g.exited) &&& ~~~g.held }

/-- A scalar register read (R33, R34). -/
def Group.sreg (g : Group) (n : Nat) : TVal :=
  if n = 0 then TVal.zero
  else if n = 61 then ⟨lanePart g.mask 0, 0⟩
  else if n = 62 then ⟨lanePart g.mask 1, 0⟩
  else if n = 63 then ⟨lanePart g.mask 2, 0⟩
  else Store.get TVal.zero g.scal n

/-- The 64 bits of a scalar register. -/
def Group.sval (g : Group) (n : Nat) : DWord := (g.sreg n).val

/-- A scalar register written: s0 discards, s61 to s63 restore their part of the mask (R33 to R35, R379). -/
def Group.setSreg (g : Group) (n : Nat) (v : TVal) : Group :=
  if n = 0 then g
  else if n = 61 then g.restoreMask (setLanePart g.full 0 v.val)
  else if n = 62 then g.restoreMask (setLanePart g.full 1 v.val)
  else if n = 63 then g.restoreMask (setLanePart g.full 2 v.val)
  else { g with scal := Store.set TVal.zero g.scal n v }

/-- Lanes in which predicate n is true; p0 is true everywhere (R37). -/
def Group.pred (g : Group) (n : Nat) : Lanes := if n = 0 then allLanes else Store.get 0 g.preds n

/-- A predicate written in the lanes `at_`; p0 discards (R37). -/
def Group.setPred (g : Group) (n : Nat) (at_ v : Lanes) : Group :=
  if n = 0 then g else { g with preds := Store.set 0 g.preds n ((g.pred n &&& ~~~at_) ||| (v &&& at_)) }

/-- The lanes of a set, in ascending order. -/
def lanesOf (m : Lanes) : List Nat := (List.range 96).filter fun i => m.getLsbD i

/-- The lane set of a property. -/
def laneSet (p : Nat → Bool) : Lanes :=
  (List.range 96).foldl (fun acc i => if p i then acc ||| ((1 : Lanes) <<< i) else acc) 0

/-- The lowest lane of a set (none when empty). -/
def lowestLane (m : Lanes) : Option Nat := (List.range 96).find? fun i => m.getLsbD i

/-- Lanes in which the guard is true (R55). -/
def Group.guardLanes (g : Group) (gd : Guard) : Lanes :=
  if gd.neg then ~~~(g.pred gd.pred.val) else g.pred gd.pred.val

/-- The executing lanes: exec(i) of R68. -/
def Group.execLanes (g : Group) (gd : Guard) : Lanes := g.mask &&& g.guardLanes gd

/-- The group rule of R56: does an instruction that acts once for the group execute? -/
def Group.groupExec (g : Group) (gd : Guard) : Bool := gd.isNone || g.execLanes gd != 0

/-! ### FPC (R38) -/

/-- FPC of a lane. -/
def Group.fpcOf (g : Group) (i : Nat) : Word := Store.get 0 g.fpc i
/-- FPC of a lane written. -/
def Group.setFpc (g : Group) (i : Nat) (v : Word) : Group := { g with fpc := Store.set 0 g.fpc i v }

/-! ### Views and the register space (R25 to R31) -/

/-- VIEW.V.BASE. -/
def Group.vBase (g : Group) : Nat := (g.viewV.extractLsb' 0 16).toNat
/-- VIEW.V.COUNT. -/
def Group.vCount (g : Group) : Nat := (g.viewV.extractLsb' 16 8).toNat
/-- VIEW.T.BASE. -/
def Group.tBase (g : Group) : Nat := (g.viewT.extractLsb' 0 16).toNat
/-- VIEW.T.ROWS. -/
def Group.tRows (g : Group) : Nat := (g.viewT.extractLsb' 16 8).toNat
/-- VIEW.T.COUNT. -/
def Group.tCount (g : Group) : Nat := (g.viewT.extractLsb' 24 8).toNat
/-- VIEW.A.BASE. -/
def Group.aBase (g : Group) : Nat := (g.viewA.extractLsb' 0 16).toNat
/-- VIEW.A.LEN in bytes. -/
def Group.aLen (g : Group) : Nat := 1024 * (g.viewA.extractLsb' 16 7).toNat
/-- VIEW.A.OFFSET in bytes. -/
def Group.aOffset (g : Group) : Nat := 1024 * (g.viewA.extractLsb' 23 9).toNat

/-- Is the register-space byte inside the VIEW.A window (R29)? -/
def Group.inWindow (g : Group) (b : Nat) : Bool := g.aBase ≤ b && b < g.aBase + g.aLen

/-- Key of the accumulator word behind a byte of the window (R29). -/
def Group.accKey (g : Group) (b : Nat) : Nat := (g.core / 2) * 131072 + (g.aOffset + (b - g.aBase)) / 4

/-- The register-space word at byte `b` of group `g`, through the window where it lies there (R31). -/
def State.rsWord (s : State) (g : Group) (b : Nat) : TWord :=
  if g.inWindow b then Store.get TWord.zero s.accum (g.accKey b) else Store.get TWord.zero g.regs (b / 4)

/-- The register-space word at byte `b` of the group at key `k` written (R31). -/
def State.setRsWord (s : State) (k : Nat) (b : Nat) (w : TWord) : State :=
  let g := s.group k
  if g.inWindow b then { s with accum := Store.set TWord.zero s.accum (g.accKey b) w }
  else s.putGroup k { g with regs := Store.set TWord.zero g.regs (b / 4) w }

/-- The place of the register-space word at byte `b`, through the views as they are (R31, R32). -/
def Group.place (g : Group) (b : Nat) : RsPlace := ⟨b, if g.inWindow b then some (g.accKey b) else none⟩

/-- Do two places name the same storage: one accumulator word, or one word of the registers? -/
def RsPlace.same (p q : RsPlace) : Bool := p.acc == q.acc && (p.acc.isSome || p.byte == q.byte)

/-- Byte offset of lane i of vector register n (R27). -/
def Group.vByte (g : Group) (n i : Nat) : Nat := g.vBase + 384 * n + 4 * i

/-- Lane i of vector register n of the issuing group. -/
def State.vword (s : State) (n i : Nat) : TWord := s.rsWord s.g (s.g.vByte n i)

/-- Lane i of vector register n of the issuing group written. -/
def State.setVword (s : State) (n i : Nat) (w : TWord) : State := s.setRsWord s.cur (s.g.vByte n i) w

/-- Lane i of vector register n, or of the pair n, n + 1, as a value with the tail of its low word (R27, R39). -/
def State.vval (s : State) (n : Nat) (wide : Bool) (i : Nat) : TVal :=
  if wide then ⟨(s.vword (n + 1) i).val ++ (s.vword n i).val, (s.vword n i).tail⟩
  else ⟨(s.vword n i).val.setWidth 64, (s.vword n i).tail⟩

/-- Lane i of vector register n, or of the pair, written; the high word's tail is zero (R39, R68). -/
def State.setVval (s : State) (n : Nat) (wide : Bool) (i : Nat) (v : TVal) : State :=
  let s1 := s.setVword n i ⟨v.val.setWidth 32, v.tail⟩
  if wide then s1.setVword (n + 1) i ⟨v.val.extractLsb' 32 32, 0⟩ else s1

/-- A scalar of the issuing group written. -/
def State.setS (s : State) (n : Nat) (v : TVal) : State := s.setG (s.g.setSreg n v)

/-- Values written to lanes of a vector register, in list order. -/
def State.setLanes (s : State) (n : Nat) (wide : Bool) : List (Nat × TVal) → State
  | [] => s
  | (i, v) :: l => State.setLanes (s.setVval n wide i v) n wide l

/-! ### Stops and the form of a meaning -/

/-- FINFO of a fault: the generic layout of R366 with its DETAIL, or a layout of its own. -/
inductive Info where
  | generic (detail : BitVec 8)
  | raw (v : DWord)
deriving DecidableEq, Repr

/-- Why an instruction does not complete: it traps (R66, R365), or the model stops. -/
inductive Stop where
  | trap (code : FCode) (faddr : DWord) (info : Info) (lanes : Lanes)
  | fault (f : Fault)
deriving DecidableEq, Repr

/-- How an instruction goes on when it does not fault: it retires and falls through, it retires and continues
at an address, or it waits and is tried again, with a stall reason of R86, or it leaves the
group held until a step of another kind completes it. An instruction that completes shows `o`
to the antennae (R376). -/
inductive Next where
  | go (s : State) (o : Obs := {})
  | to (s : State) (pc : DWord) (o : Obs := {})
  | wait (s : State) (reason : Nat)
  | held (s : State)
deriving DecidableEq, Repr

/-- The result of an instruction's body. -/
abbrev Body := Except Stop Next

/-- A trap with the generic layout and no address. -/
def trapGen (c : FCode) (detail : BitVec 8) (lanes : Lanes) : Stop := .trap c 0 (.generic detail) lanes

/-- A check: the stop when the condition fails. -/
def require (b : Bool) (e : Stop) : Except Stop Unit := if b then .ok () else .error e

/-- The decode fault OPERAND of R65 order 4: the trap mask is the active lanes. -/
def State.operand (s : State) (detail : BitVec 8 := 0) : Stop := trapGen .operand detail s.g.mask

/-- R30 and R27: an index beyond the view, an odd pair. -/
def Group.vecOk (g : Group) (o : VecOp) : Bool :=
  if o.wide then o.n % 2 == 0 && o.n + 1 < g.vCount else o.n < g.vCount

/-- Lanes of `e` whose word of the vector operand lies in the VIEW.A window. -/
def Group.windowLanes (g : Group) (e : Lanes) (o : VecOp) : Lanes :=
  if g.aLen = 0 then 0
  else laneSet fun i => e.getLsbD i && match o.pat.lane i with
    | none => false
    | some j => g.inWindow (g.vByte o.n j) || (o.wide && g.inWindow (g.vByte (o.n + 1) j))

/-- The faults of R30 for words of the window: MATRIX_LOST for a team that has lost its accumulators,
MATRIX_OWNER for a team that holds no reservation or is no pair team. -/
def State.windowFault (s : State) (lanes : Lanes) : Except Stop Unit :=
  if lanes = 0 then .ok ()
  else if s.t.mxLost then .error (trapGen .matrixLost 0 lanes)
  else require (s.t.pair && s.t.mxHolds) (trapGen .matrixOwner 0 lanes)

/-- The views checked for every vector operand (order 4 of R65), then the window faults of the lanes `e`. -/
def State.checkVecs (s : State) (e : Lanes) (ops : List VecOp) : Except Stop Unit := do
  require (ops.all s.g.vecOk) s.operand
  s.windowFault (ops.foldl (fun m o => m ||| s.g.windowLanes e o) 0)

end Sys2Proof.Machine
end

