-- ==== Sys2Proof/Machine/Contrail.lean ====
section
/-! DEFINITION. Causal tags and Contrail records (R21, R71, R341, R342, R385, R386, R424, R432), and the
counters of the management window. -/

namespace Sys2Proof

/-- The code of a fault (R367). -/
def FCode.num : FCode → Nat
  | .illegal => 0x01 | .reserved => 0x02 | .operand => 0x03 | .privilege => 0x04 | .align => 0x05
  | .aperture => 0x06 | .page => 0x07 | .protect => 0x08 | .atomicPath => 0x09 | .spillLimit => 0x0A
  | .joinMismatch => 0x0B | .fp => 0x0C | .barrierClobber => 0x0D | .countUnder => 0x0E | .depth => 0x0F
  | .determinism => 0x10 | .matrixLost => 0x11 | .matrixOwner => 0x12 | .collMismatch => 0x13
  | .watchdog => 0x14 | .dataLost => 0x15 | .outcomeUnknown => 0x16 | .swTrap => 0x17 | .coreLost => 0x18

end Sys2Proof

/-- Is a peer's access a load? -/
def Sys2Proof.PeerOp.isLoad (op : Sys2Proof.PeerOp) : Bool := match op with | .load => true | _ => false

namespace Sys2Proof.Machine

/-! ### Free values and counters -/

/-- The next free value of width w (log entry 6). -/
def State.fresh (s : State) (w : Nat) : BitVec w := Config.freeValue w s.freeCtr
/-- The free value used up. -/
def State.useFresh (s : State) : State := { s with freeCtr := s.freeCtr + 1 }

/-- A counter of the management window. -/
def State.count (s : State) (k : Nat) : DWord := Store.get 0 s.counts k
/-- A 48-bit counter of the management window raised by n. -/
def State.bump (s : State) (k : Nat) (n : Nat := 1) : State :=
  { s with counts := Store.put k (BitVec.ofNat 64 ((s.count k).toNat + n) &&& 0xFFFFFFFFFFFF) s.counts }

/-! ### Engines (R341) -/

/-- The quadrant scheduler 4n + q. -/
def engSched (core quad : Nat) : Nat := 4 * core + quad
/-- The tensor copy engine of a core. -/
def engCopy (core : Nat) : Nat := 0x400 + core
/-- The matrix engine of a pair. -/
def engMatrix (pair : Nat) : Nat := 0x500 + pair
/-- The Skipper of a port. -/
def engSkipper (port : Nat) : Nat := 0x580 + port
/-- A Cirrus port. -/
def engPort (port : Nat) : Nat := 0x590 + port
/-- The graph launcher agent of a die. -/
def engLauncher (die : Nat) : Nat := 0x5A0 + die
/-- A core of the control processor. -/
def engControl : Nat := 0x5A4
/-- The management controller. -/
def engMgmt : Nat := 0x5A8
/-- A host port. -/
def engHost (port : Nat) : Nat := 0x5AA + port
/-- The scratchpad controller of a core. -/
def engScratch (core : Nat) : Nat := 0x600 + core

/-- The scheduler of a group. -/
def Group.engine (g : Group) : Nat := engSched g.core g.quad

/-- The die whose Jetstream buffer takes an engine's records. The manual does not place the ports' engines
on dies: port n is taken with die n / 4 (log entry 12). -/
def engDie (e : Nat) : Nat :=
  if e < 0x400 then e / 256
  else if e < 0x500 then (e - 0x400) / 64
  else if e < 0x580 then (e - 0x500) / 32
  else if e < 0x590 then (e - 0x580) / 4
  else if e < 0x5A0 then (e - 0x590) / 4
  else if e < 0x5A4 then e - 0x5A0
  else if e < 0x600 then 0
  else (e - 0x600) / 64

/-! ### Tags (R342) -/

/-- An engine's sequence. -/
def State.seqOf (s : State) (e : Nat) : BitVec 36 := Store.get s.seqBase s.seqs e
/-- An engine's tag as it stands. -/
def State.tagOf (s : State) (e : Nat) : DWord := s.device ++ BitVec.ofNat 12 e ++ s.seqOf e
/-- An engine's sequence advanced by one: a record or a packet sent, an arrival. -/
def State.advance (s : State) (e : Nat) : State := { s with seqs := Store.put e (s.seqOf e + 1) s.seqs }
/-- A tagged packet or arrival received: the sequence becomes max(own, received) + 1. -/
def State.receive (s : State) (e : Nat) (tag : DWord) : State :=
  let r : BitVec 36 := tag.setWidth 36
  let m := if s.seqOf e < r then r else s.seqOf e
  { s with seqs := Store.put e (m + 1) s.seqs }

/-! ### Ports (R334, R351) -/

/-- The Cirrus ports towards a device that are up, lowest first (R334). -/
def State.portsTo (s : State) (dev : Nat) : List Nat :=
  (List.range 16).filter fun p => (Store.get 0 s.routes dev).getLsbD p && !s.portsDown.contains p

/-- The port on which a packet to a page of a device leaves (R334). -/
def State.portOf (s : State) (dev pa : Nat) : Nat :=
  let ps := s.portsTo dev
  ps.getD (Config.portHash (dev * 2 ^ 36 + pa / 4096) % ps.length) 0

/-- The next request id of a port (R338). -/
def State.nextReq (s : State) (port : Nat) : DWord := Store.get 0 s.reqIds port + 1

/-- The lowest port that is up (R351). -/
def State.lowPort (s : State) : Nat := ((List.range 16).find? fun p => !s.portsDown.contains p).getD 0

/-- The port whose Skipper serves a peer: the lowest of its route that is up (R351, log entry 12). -/
def State.skipPort (s : State) (dev : BitVec 16) : Nat := (s.portsTo dev.toNat).headD 0

/-- Numbers of the counters of a port (R363): 0 flits sent, 1 flits received, 2 payload bytes, 3 CRC failures, 4 link replays,
5 FEC corrections, 6 lane retrains, 7 filter hits, 8 withheld credits, 9 unknown outcomes. -/
def ctrPort (port k : Nat) : Nat := 0x20C_0000 + port * 16 + k
/-- Numbers of the counters of a Skipper (R363): 0 nodes run, 1 collectives completed, 2 aborted, 3 mismatched, 4 watchdog
trips. -/
def ctrSkip (port k : Nat) : Nat := 0x20D_0000 + port * 8 + k

/-- Payload bytes of the flits that carry `n` bytes, 224 at most in each (R332). -/
def flitBytes (n : Nat) : List Nat := (List.range (max 1 ((n + 223) / 224))).map fun k => min 224 (n - 224 * k)

/-- A port's replay buffer holds its 512 latest flits (R332). -/
def trimReplay (port : Nat) (l : List Sent) : List Sent :=
  if (l.filter fun f => f.port == port).length ≤ 512 then l else l.eraseP fun f => f.port == port

/-- The acknowledgement credit that a port sends: none while its replay filter is full, for credit is withheld then (R338, log entry 87). -/
def State.ackNow (s : State) (port : Nat) (q : BitVec 24) : BitVec 8 :=
  if 65536 ≤ (s.filters.filter fun e => e.port == port).length then 0 else Config.ackCredit port q

/-- The flits of one packet leave on a port, each with the packet's header and the port's next link sequence number (R332). -/
def State.sendFlits (s : State) (h : Sent) : List Nat → State
  | [] => s
  | b :: bs =>
    let q := Store.get 0 s.linkSeqs h.port + 1
    let f := { h with src := s.device, linkSeq := q, ack := s.ackNow h.port q, bytes := b }
    State.sendFlits { s with linkSeqs := Store.put h.port q s.linkSeqs, outbox := s.outbox ++ [f]
                             replayBuf := trimReplay h.port (s.replayBuf ++ [f]) } h bs

/-- A packet with a given header and `n` payload bytes leaves, sent by an engine with its next tag (R332, R342, R363). -/
def State.sendHead (s : State) (eng : Nat) (h : Sent) (n : Nat) : State :=
  let s1 := s.advance eng
  ((s1.sendFlits { h with tag := s1.tagOf eng } (flitBytes n)).bump (ctrPort h.port 0) (flitBytes n).length).bump (ctrPort h.port 2) n

/-- A packet of `n` payload bytes leaves on a port. -/
def State.send (s : State) (eng port : Nat) (dev : BitVec 16) (pkt : Packet) (n : Nat) : State :=
  s.sendHead eng { port := port, dev := dev, tag := 0, pkt := pkt } n

/-- The port on which a request leaves: the one that its page selects among those that are up (R334), or of chunk data the port of the
Skipper that serves the peer (R351). -/
def State.reqPort (s : State) (r : Req) : Nat := if r.chunk.isSome then s.skipPort r.dev else s.portOf r.dev.toNat r.pa

/-- A request leaves, or leaves again (R334, R338): a load carries no payload, another operation its data, a SEND its chunk. -/
def State.sendRequest (s : State) (r : Req) : State :=
  let p := s.reqPort r
  let h : Sent := { port := p, dev := r.dev, tag := 0, pkt := .request r.id r.op r.pa r.size r.data r.cmp, reqId := r.id, first := r.first }
  match r.chunk with
  | some k => s.sendHead (engSkipper p) { h with pkt := .chunk { k with tag := s.tagOf (engSkipper p) + 1 }, sig := some k.sig } k.data.length
  | none => s.sendHead (engPort p) h (if r.op.isLoad then 0 else r.size)

/-! ### Records -/

/-- The Jetstream buffer of a die. -/
def State.jetOf (s : State) (die : Nat) : List Record := Store.get [] s.jet die

/-- Counter of records dropped, per die (R21). -/
def State.dropOf (s : State) (die : Nat) : DWord := Store.get 0 s.drops die

/-- Records that are dropped first when a buffer is full: PC samples and throttle records (R21). -/
def droppable (code : Nat) : Bool := code == 0x0E || code == 0x0F

/-- Is the Jetstream buffer of a die full? -/
def State.jetFull (s : State) (die : Nat) : Bool := Config.jetstreamRecords ≤ (s.jetOf die).length

/-- The oldest buffered record of a die drains into the store (R21). -/
def State.drain (s : State) (die : Nat) : State :=
  match s.jetOf die with
  | [] => s
  | r :: rs => { s with jet := Store.put die rs s.jet, contrail := s.contrail ++ [r] }

/-- The stamp of a die moves on to a time that is not earlier than its last one; how far is free (R432). -/
def State.stampOn (s : State) (die : Nat) : State :=
  let last : DWord := Store.get 0 s.stamps die
  let t := s.fresh 64
  { s.useFresh with stamps := Store.put die (if t < last then last else t) s.stamps }

/-- Payload of a record of a context: encrypted when the context has a tenant key (R424). -/
def State.sealFor (s : State) (ctx : Option (BitVec 16)) (tag : DWord) (payload : BitVec 96) : Bool × BitVec 96 :=
  match ctx with
  | none => (false, payload)
  | some a => match (s.ctx a).tenant with
    | none => (false, payload)
    | some k => (true, sealPayload (recordKey k s.device a) tag payload)

/-- emit of R71: the engine's sequence advances and one record enters its die's Jetstream buffer. A record
that may be dropped is dropped and counted when the buffer is full; for any other the engine stalls until the
buffer has drained a record, which is done here (R21). -/
def State.emit (s : State) (e code : Nat) (ctx : Option (BitVec 16)) (payload : BitVec 96) : State :=
  let die := engDie e
  if s.jetFull die && droppable code then
    { s with drops := Store.put die (s.dropOf die + 1) s.drops }
  else
    let s0 := if s.jetFull die then s.drain die else s
    let s1 := (s0.advance e).stampOn die
    let tag := s1.tagOf e
    let p := s1.sealFor ctx tag payload
    let r : Record :=
      { time := Store.get 0 s1.stamps die, tag := tag, code := BitVec.ofNat 16 code, engine := BitVec.ofNat 12 e
        isSealed := p.1, payload := p.2 }
    { s1 with jet := Store.put die (s1.jetOf die ++ [r]) s1.jet }

/-- G of R385: slot in [3:0], quadrant in [5:4]. -/
def Group.gField (g : Group) : BitVec 6 := BitVec.ofNat 2 g.quad ++ BitVec.ofNat 4 g.slot

/-- The lowest lane of a set in seven bits, 0x7F when it is empty (R366, R386). -/
def laneField (m : Lanes) : BitVec 7 := match lowestLane m with | some i => BitVec.ofNat 7 i | none => 0x7F

/-- Payload of a fault record (R386). -/
def faultPayload (code : Nat) (lanes : Lanes) (gf : BitVec 6) (epc finfo : DWord) (double replayed abandoned : Bool) :
    BitVec 96 :=
  finfo.setWidth 17 ++ BitVec.ofBool abandoned ++ BitVec.ofBool replayed ++ BitVec.ofBool double
    ++ epc.setWidth 57 ++ gf ++ laneField lanes ++ BitVec.ofNat 6 code

/-! ### Chrysalis (R379, R380, R386) -/

/-- Payload of a chrysalis record. -/
def chrysalisPayload (g : Group) (cause : BitVec 3) : BitVec 96 :=
  (g.asid ++ cause ++ g.gField ++ g.pc.setWidth 57).setWidth 96

/-- Number of the counter of chrysalis entries of a core (R392). -/
def ctrChrysalis (core : Nat) : Nat := 0x202_0000 + core

/-- Is the group in a wait that goes on while it rests (R379): a wait for a path, a barrier, a task? -/
def Group.inWait (g : Group) : Bool := [9, 10, 11, 25].contains g.stall.toNat || g.barDone.isSome

/-- The group at key k enters chrysalis, with its cause and the halting antenna; a group already there is
unaffected (R380). -/
def State.enterChrysalis (s : State) (k : Nat) (cause : BitVec 3) (ant : BitVec 4) : State :=
  let g := s.group k
  if g.chrysalis || !g.resident || g.ended then s
  else ((s.putGroup k { g with
      chrysalis := true, chCause := cause, chAnt := ant, chStall := g.stall, restWait := g.inWait }).emit g.engine 0x0C
    (some g.asid) (chrysalisPayload g cause)).bump (ctrChrysalis g.core)

/-- The group at key k leaves chrysalis; steps asked of it and not made are void. -/
def State.leaveChrysalis (s : State) (k : Nat) : State :=
  let g := s.group k
  if !g.chrysalis then s
  else
    let s1 := s.putGroup k { g with chrysalis := false, restWait := false }
    { s1 with steps := s1.steps.filter fun r => r.target != k || r.begun || r.result.isSome }.emit g.engine 0x0D
      (some g.asid) (chrysalisPayload g g.chCause)

end Sys2Proof.Machine
end

