-- ==== Sys2Proof/Machine/Antenna.lean ====
section
/-! DEFINITION. The antennae of a core (R375 to R377), and the halt of a group none of whose lanes is left to run (R379). -/

namespace Sys2Proof.Machine

/-- Number of the counter of antenna matches of a core. -/
def ctrMatch (core : Nat) : Nat := 0x201_0000 + core

/-- Number of lanes in a set. -/
def popcount (m : Lanes) : Nat := (lanesOf m).length

/-- An antenna of a core (R375). -/
def State.antenna (s : State) (core n : Nat) : Antenna := Store.get Antenna.zero s.ants (core * 16 + n)

/-- CTL.FIELD. -/
def Antenna.field (a : Antenna) : Nat := (a.ctl.extractLsb' 1 3).toNat
/-- CTL.CMP. -/
def Antenna.cmp (a : Antenna) : Nat := (a.ctl.extractLsb' 4 3).toNat
/-- CTL.CHAIN. -/
def Antenna.chain (a : Antenna) : Bool := a.ctl.getLsbD 7
/-- CTL.ACTION. -/
def Antenna.action (a : Antenna) : Nat := (a.ctl.extractLsb' 8 3).toNat

/-- The comparison of R376 on a value. -/
def Antenna.holds (a : Antenna) (x : Nat) : Bool :=
  let m := x &&& a.cmask.toNat
  let c := a.comp.toNat &&& a.cmask.toNat
  match a.cmp with
  | 0 => m == c
  | 1 => m != c
  | 2 => m < c
  | 3 => c ≤ m
  | _ => a.comp.toNat ≤ x && x < a.cmask.toNat

/-- Values shown for a lane. -/
def forLane (l : List (Option Nat × Nat)) (i : Nat) : List Nat :=
  l.filterMap fun p => if p.1 == none || p.1 == some i then some p.2 else none

/-- The values that an antenna's FIELD takes from an instruction in a lane (R376). -/
def Antenna.values (a : Antenna) (o : Obs) (pc : DWord) (i : Nat) : List Nat :=
  match a.field with
  | 0 => forLane o.addrs i
  | 1 => forLane o.stored i
  | 2 => forLane o.loaded i
  | 3 => forLane o.flags i
  | _ => [pc.toNat]

/-- Does an armed antenna match a lane of an instruction (R376)? -/
def Antenna.hits (a : Antenna) (asid : BitVec 16) (sup : Bool) (o : Obs) (pc : DWord) (i : Nat) : Bool :=
  a.ctl.getLsbD 0 && a.ctl.extractLsb' 16 16 == asid && (!sup || a.ctl.getLsbD 11)
    && (if i < 64 then a.lanea.getLsbD i else a.laneb.getLsbD (i - 64))
    && (a.values o pc i).any a.holds

/-- The first antenna of the chain that ends at antenna m (R376). -/
def State.chainHead (s : State) (core : Nat) : Nat → Nat
  | 0 => 0
  | m + 1 => if (s.antenna core m).chain then State.chainHead s core m else m + 1

/-- The antennae of the chain that ends at m. -/
def State.chainOf (s : State) (core m : Nat) : List Antenna :=
  (List.range (m + 1 - s.chainHead core m)).map fun j => s.antenna core (s.chainHead core m + j)

/-- Payload of an antenna-match record (R386). -/
def matchPayload (g : Group) (pc : DWord) (m : Nat) (lanes : Lanes) (action : Nat) : BitVec 96 :=
  (BitVec.ofNat 3 action ++ BitVec.ofNat 7 (popcount lanes) ++ laneField lanes ++ g.gField ++ BitVec.ofNat 4 m
    ++ pc.setWidth 57).setWidth 96

/-- What the chain that ends at antenna m does on its match in some lanes of an instruction of the group at key k, but for a halt (R377): a
count, or a record. -/
def State.antAct (s : State) (k m : Nat) (pc : DWord) (lanes : Lanes) : State :=
  let g := s.group k
  let a := s.antenna g.core m
  let s0 := s.bump (ctrMatch g.core)
  if a.action = 0 then
    let a' : Antenna := { a with count := BitVec.ofNat 64 ((a.count.toNat + popcount lanes) % 2 ^ 48) }
    { s0 with ants := Store.put (g.core * 16 + m) a' s0.ants }
  else s0.emit g.engine 0x0B (some g.asid) (matchPayload g pc m lanes a.action)

/-- The halt of the group at key k by the matching chains, each with its antenna and lanes: the widest one prevails (R377). The halting
antenna is the lowest among the widest (log entry 89). -/
def State.antHalt (s : State) (k : Nat) (ms : List (Nat × Lanes)) : State :=
  let g := s.group k
  let act (m : Nat) : Nat := (s.antenna g.core m).action
  let widest := ms.foldl (fun w p => max w (act p.1)) 0
  match if widest < 2 then [] else ms.filter fun p => act p.1 == widest with
  | [] => s
  | (m, l) :: rest =>
    let lanes := rest.foldl (fun x p => x ||| p.2) l
    let s1 := if widest = 2 then s.putGroup k { g with held := g.held ||| lanes, mask := g.mask &&& ~~~lanes } else s
    let s2 := s1.enterChrysalis k 1 (BitVec.ofNat 4 m)
    if widest = 4 then (s2.teamGroups g.team).foldl (fun st p => st.enterChrysalis p.1 3 0) s2 else s2

/-- The chains of the core that match an instruction of the group at key k, by their last antenna, with the matching lanes (R376).
`atReturn` says that this is the return of its loaded values: then exactly the chains that watch a loaded value are evaluated. -/
def State.antMatches (s : State) (k : Nat) (o : Obs) (ex : Lanes) (pc : DWord) (sup atReturn : Bool) : List (Nat × Lanes) :=
  let g := s.group k
  ((List.range 16).filter fun m => !((s.antenna g.core m).chain && m != 15)).filterMap fun m =>
    let c := s.chainOf g.core m
    if (c.any fun a => a.field == 2) != atReturn then none
    else
      let lanes := laneSet fun i => ex.getLsbD i && c.all fun a => a.hits g.asid sup o pc i
      if lanes = 0 then none else some (m, lanes)

/-- The antennae of the core evaluate an instruction of the group at key k (R376, R377): each count and event happens, and the widest
halt. -/
def State.antennae (s : State) (k : Nat) (o : Obs) (ex : Lanes) (pc : DWord) (sup atReturn : Bool) : State :=
  if s.ants == [] || (s.group k).dbg then s
  else
    let ms := s.antMatches k o ex pc sup atReturn
    (ms.foldl (fun st p => st.antAct k p.1 pc p.2) s).antHalt k ms

/-- When exited and held lanes are all 96 and some lane is held, the group enters chrysalis (R379). -/
def State.heldCheck (s : State) (k : Nat) : State :=
  let g := s.group k
  if g.resident && !g.ended && g.held != 0 && g.exited ||| g.held == allLanes then s.enterChrysalis k 5 0 else s

end Sys2Proof.Machine
end

