-- ==== Sys2Proof/Machine/Mem.lean ====
section
/-! DEFINITION. The memory units: address checks and windows (R190 to R198), translation (R199 to R202), the
L1 (R208, R231), and reads and writes of one location (R212 to R214). -/

namespace Sys2Proof.Machine

/-! ### Accesses and their faults -/

/-- What an access is, for its checks and for FINFO (R201, R205). `record` says that the instruction is one
that may reach the group stack record (R196). -/
structure Access where
  acc    : Nat            -- FINFO.ACC
  size   : Nat
  write  : Bool := false
  atomic : Bool := false
  sys    : Bool := false  -- system scope
  user   : Bool := true
  record : Bool := false
deriving DecidableEq, Repr

/-- A fault of an access: its code, FINFO's LVL, WIN and REASON, and the access kind and size that FINFO shows. -/
structure AccErr where
  code   : FCode
  lvl    : Nat
  win    : Nat
  reason : Nat
  faddr  : DWord
  acc    : Nat
  lsize  : Nat
deriving DecidableEq, Repr

/-- Why an access cannot be made: it faults, or the model stops. -/
inductive AccStop where
  | err (e : AccErr)
  | model (f : Fault)
deriving DecidableEq, Repr

/-- FINFO of an access fault (R205). -/
def AccErr.finfo (e : AccErr) (asid : BitVec 16) : DWord :=
  0#32 ++ asid ++ BitVec.ofNat 4 e.lsize ++ BitVec.ofNat 4 e.reason ++ BitVec.ofNat 2 e.win ++ BitVec.ofNat 3 e.lvl
    ++ BitVec.ofNat 3 e.acc

/-- Base-2 logarithm of an access size. -/
def log2Size (n : Nat) : Nat := Nat.log2 n

/-- The error of an access at an effective address. -/
def Access.err (a : Access) (code : FCode) (lvl win reason : Nat) (ea : DWord) : AccStop :=
  .err ⟨code, lvl, win, reason, ea, a.acc, log2Size a.size⟩

/-! ### Locations -/

/-- Where an access goes once it is steered and translated. -/
inductive Loc where
  | lost                      -- behind a page-table entry that cannot be read (R207)
  | scratch (core byte : Nat)
  | record (off : Nat)
  | stack (lbase x lane : Nat)
  | hbm (pa : Nat)
  | host (pa : Nat)
  | peer (dev pa : Nat)
  | stratus (off : Nat)
deriving DecidableEq, Repr

/-- Is it a location on a peer device? -/
def Loc.isPeer (l : Loc) : Bool := match l with | .peer _ _ => true | _ => false

/-- Physical HBM address of byte x of lane i's stack (R195). -/
def stackByte (lbase x lane : Nat) : Nat := lbase + 384 * (x / 4) + 4 * lane + x % 4

/-- HBM address of the k-th byte of a location in HBM (R195); none elsewhere. -/
def Loc.hbmByte (l : Loc) (k : Nat) : Option Nat :=
  match l with
  | .hbm pa => some (pa + k)
  | .stack b x i => some (stackByte b (x + k) i)
  | _ => none

/-- One byte of host, peer, Stratus or HBM memory at its home. -/
def State.homeByte (s : State) (l : Loc) (k : Nat) : Byte :=
  match l with
  | .hbm pa => s.hbm.byte (pa + k)
  | .stack b x i => s.hbm.byte (stackByte b (x + k) i)
  | .host pa => s.host.byte (pa + k)
  | .peer dev pa => s.peer.byte (dev * 2 ^ 48 + pa + k)
  | .stratus off => s.stratus.byte (off + k)
  | _ => 0

/-- The host port behind a page of host memory. -/
def hostPortOf (pa : Nat) : Nat := if Config.hostPort (pa / 4096) then 1 else 0

/-- One byte written at its home; one for a host that has failed is discarded (R419). -/
def State.setHomeByte (s : State) (l : Loc) (k : Nat) (b : Byte) : State :=
  match l with
  | .hbm pa => { s with hbm := s.hbm.setByte (pa + k) b }
  | .stack lb x i => { s with hbm := s.hbm.setByte (stackByte lb (x + k) i) b }
  | .host pa => if s.hostDown.contains (hostPortOf (pa + k)) then s else { s with host := s.host.setByte (pa + k) b }
  | .peer dev pa => { s with peer := s.peer.setByte (dev * 2 ^ 48 + pa + k) b }
  | .stratus off => { s with stratus := s.stratus.setByte (off + k) b }
  | _ => s

/-! ### Translation -/

/-- Bits [63:57] of an address equal bit 56 (R190). -/
def canonical (ea : DWord) : Bool := ea.extractLsb' 57 7 == (if ea.getLsbD 56 then 0x7F#7 else 0)

/-- Index of a virtual address into the table of a level (R199). -/
def vaIndex (va : DWord) (level : Nat) : Nat := (va.toNat / 2 ^ (12 + 9 * level)) % 512

/-- MT of a leaf. -/
def pteMt (p : DWord) : Nat := (p.extractLsb' 4 2).toNat
/-- AP of a leaf. -/
def pteAp (p : DWord) : Nat := (p.extractLsb' 6 2).toNat

/-- A malformed entry at a level (R199, R200, R335). -/
def State.malformed (s : State) (p : DWord) (level : Nat) : Bool :=
  p.extractLsb' 10 2 != 0 ||
  (if p.getLsbD 8 then
    let mt := pteMt p
    let low := (p.extractLsb' 12 36).toNat
    2 < level || pteAp p == 3 || (p.getLsbD 9 && level != 0) || low % 2 ^ (9 * level) != 0
      || (mt != 2 && p.extractLsb' 52 12 != 0)
      || (mt == 3 && p.extractLsb' 31 21 != 0)
      || (mt == 2 && (p.extractLsb' 48 16 == s.device || Store.get 0 s.routes (p.extractLsb' 48 16).toNat == 0))
  else level == 0 || p.extractLsb' 52 12 != 0)

/-- Does a page-table entry hold uncorrectable data (R207)? -/
def State.badEntry (s : State) (at_ : Nat) : Bool :=
  s.poison != [] && (List.range 8).any fun k => s.poison.contains (.hbm (at_ + k))

/-- What a walk finds from a table on: a leaf with its level, or the level and REASON of a fault (0xC for an entry that cannot be
read); `none` when a table lies beyond HBM. -/
def State.walkAt (s : State) (va : DWord) : Nat → Nat → Option (Except (Nat × Nat) (DWord × Nat))
  | 0, _ => none
  | n + 1, table =>
    if Config.hbmBytes ≤ table then none
    else
      let p : DWord := BitVec.ofNat 64 (s.hbm.read (table + 8 * vaIndex va n) 8)
      if s.badEntry (table + 8 * vaIndex va n) then some (.error (n, 0xC))
      else if !p.getLsbD 0 then some (.error (n, 0))
      else if s.malformed p n then some (.error (n, 1))
      else if p.getLsbD 8 then some (.ok (p, n))
      else State.walkAt s va n (4096 * (p.extractLsb' 12 40).toNat)

/-- Base-2 logarithm of the page size of a leaf (R200). -/
def leafShift (p : DWord) (level : Nat) : Nat := if p.getLsbD 9 then 16 else 12 + 9 * level

/-- The page number of an address for pages of size 2^shift. -/
def pageNum (va : DWord) (shift : Nat) : Nat := va.toNat % 2 ^ 57 / 2 ^ shift

/-- The table that a non-leaf entry names. -/
def nextTable (p : DWord) : Nat := 4096 * (p.extractLsb' 12 40).toNat

/-- An entry of a TLB that translates the address: ASID and generation are the current ones (R202). -/
def State.tlbHit (s : State) (l : List TlbEntry) (unit : Nat) (asid : BitVec 16) (va : DWord) : Option TlbEntry :=
  l.find? fun e => e.unit == unit && e.asid == asid && e.gen == (s.ctx asid).gen && e.page == pageNum va e.shift

/-- A cached translation of the address, in the L1 TLB of the core, else in the L2 TLB of its die (R202). -/
def State.tlbFind (s : State) (core : Nat) (asid : BitVec 16) (va : DWord) : Option TlbEntry :=
  (s.tlbHit s.l1tlb core asid va).or (s.tlbHit s.tlb (core / 64) asid va)

/-- The entry of a level in the walk cache of a die (R202). -/
def State.walkHit (s : State) (die : Nat) (asid : BitVec 16) (va : DWord) (level : Nat) : Option WalkEntry :=
  s.walks.find? fun e => e.die == die && e.asid == asid && e.gen == (s.ctx asid).gen && e.level == level
    && e.page == pageNum va (12 + 9 * level)

/-- Where a walk begins (R203): below the cached entry of the lowest level, else at the root. The levels left to read and the table
of the first of them. -/
def State.walkFrom (s : State) (die : Nat) (asid : BitVec 16) (va : DWord) : Nat × Nat :=
  match [1, 2, 3, 4].findSome? fun l => s.walkHit die asid va l with
  | some e => (e.level, nextTable e.pte)
  | none => (5, nextTable (s.ctx asid).root)

/-- The leaf of an address with its level: from a TLB, else by a walk. -/
def State.leafOf (s : State) (core : Nat) (asid : BitVec 16) (va : DWord) : Option (Except (Nat × Nat) (DWord × Nat)) :=
  match s.tlbFind core asid va with
  | some e => some (.ok (e.pte, e.level))
  | none => s.walkAt va (s.walkFrom (core / 64) asid va).1 (s.walkFrom (core / 64) asid va).2

/-- The non-leaf entries, by level, that a walk reads on its way to a leaf. -/
def State.walkPath (s : State) (va : DWord) : Nat → Nat → List (Nat × DWord)
  | 0, _ => []
  | n + 1, table =>
    let p : DWord := BitVec.ofNat 64 (s.hbm.read (table + 8 * vaIndex va n) 8)
    if p.getLsbD 8 then [] else (n, p) :: State.walkPath s va n (nextTable p)

/-- An entry put first in a list that holds `cap` entries of its unit; the oldest of the unit gives way (log entry 9). -/
def keepNewest {α : Type} (mine : α → Bool) (cap : Nat) (e : α) (l : List α) : List α :=
  e :: ((l.filter mine).take (cap - 1) ++ l.filter fun x => !mine x)

/-- The non-leaf entries of a walk enter the walk cache of the die (R202). -/
def State.noteWalk (s : State) (die : Nat) (asid : BitVec 16) (va : DWord) : State :=
  let f := s.walkFrom die asid va
  { s with walks := (s.walkPath va f.1 f.2).foldl (fun l p =>
      keepNewest (fun x => x.die == die) Config.walkEntries
        { die := die, asid := asid, gen := (s.ctx asid).gen, level := p.1, page := pageNum va (12 + 9 * p.1), pte := p.2 } l) s.walks }

/-- The entry that translates an address through a leaf, in the TLB of a unit. -/
def State.tlbEntry (s : State) (unit : Nat) (asid : BitVec 16) (va : DWord) (leaf : DWord × Nat) : TlbEntry :=
  { unit := unit, asid := asid, gen := (s.ctx asid).gen, shift := leafShift leaf.1 leaf.2
    page := pageNum va (leafShift leaf.1 leaf.2), pte := leaf.1, level := leaf.2 }

/-- The die's share of what an access leaves behind: the translation in the L2 TLB and the entries of the walk, when it made one
(R202). Nothing that does not translate is cached. -/
def State.noteDie (s : State) (die : Nat) (asid : BitVec 16) (va : DWord) : State :=
  match s.tlbHit s.tlb die asid va with
  | some _ => s
  | none => match s.walkAt va (s.walkFrom die asid va).1 (s.walkFrom die asid va).2 with
    | some (.ok l) =>
      { s.noteWalk die asid va with
        tlb := keepNewest (fun x => x.unit == die) Config.l2TlbEntries (s.tlbEntry die asid va l) s.tlb }
    | _ => s

/-- The cached translations that an access leaves behind, in the L1 TLB of its core and on its die (R202, log entry 9). -/
def State.tlbNote (s : State) (core : Nat) (asid : BitVec 16) (va : DWord) : State :=
  match s.tlbHit s.l1tlb core asid va, s.leafOf core asid va with
  | none, some (.ok l) =>
    { s.noteDie (core / 64) asid va with
      l1tlb := keepNewest (fun x => x.unit == core) Config.tlbEntries (s.tlbEntry core asid va l) s.l1tlb }
  | _, _ => s

/-- The location that a leaf gives an address (R199, R200). -/
def leafLoc (p : DWord) (level : Nat) (va : DWord) : Loc :=
  let sh := leafShift p level
  let off := va.toNat % 2 ^ sh
  let join (frames : Nat) : Nat := (4096 * frames) / 2 ^ sh * 2 ^ sh + off
  match pteMt p with
  | 0 => .hbm (join (p.extractLsb' 12 40).toNat)
  | 1 => .host (join (p.extractLsb' 12 40).toNat)
  | 2 => .peer (p.extractLsb' 48 16).toNat (join (p.extractLsb' 12 36).toNat)
  | _ => .stratus (join (p.extractLsb' 12 19).toNat)

/-- A global access of a core: translated and checked by R201. LVL of a fault is 7 where a cached translation made no walk. An entry
that cannot be read leaves the access with no location, and its consumer is told (R207). -/
def State.resolveGlobal (s : State) (core : Nat) (asid : BitVec 16) (a : Access) (ea : DWord) : Except AccStop Loc :=
  match s.leafOf core asid ea with
  | none => .error (.model .hbmAbsent)
  | some (.error (lvl, reason)) => if reason = 0xC then .ok .lost else .error (a.err .page lvl 0 reason ea)
  | some (.ok (p, level)) =>
    let lvl := if (s.tlbFind core asid ea).isSome then 7 else level
    if (a.write || a.atomic) && !p.getLsbD 1 then .error (a.err .protect lvl 0 0x2 ea)
    else if a.acc == 3 && !p.getLsbD 2 then .error (a.err .protect lvl 0 0x3 ea)
    else if a.user && p.getLsbD 3 then .error (a.err .protect lvl 0 0x4 ea)
    else if (a.write || a.atomic) && pteMt p == 3 then .error (a.err .protect lvl 0 0x5 ea)
    else if a.atomic && (pteAp p == 0 || (a.sys && pteAp p == 1)) then .error (a.err .atomicPath lvl 0 0x8 ea)
    else match leafLoc p level ea with
      | .hbm pa => if Config.hbmBytes ≤ pa then .error (.model .hbmAbsent) else .ok (.hbm pa)
      | l => .ok l

/-! ### Windows (R190, R191) -/

/-- The windows in the order of R190. -/
inductive Window where
  | scratch | record | stack | stratus | global
deriving DecidableEq, Repr

/-- FINFO.WIN of a window (R205). -/
def Window.num : Window → Nat
  | .global => 0 | .scratch => 1 | .record | .stack => 2 | .stratus => 3

/-- Offset of an address in the window that holds it, by the aperture bases of the context on the core. -/
def steer (c : CtxCore) (ea : DWord) : Window × Nat :=
  if (ea - c.apscr).toNat < 0x100000 then (.scratch, (ea - c.apscr).toNat)
  else if (ea - (c.apstk - 64)).toNat < 64 then (.record, (ea - (c.apstk - 64)).toNat)
  else if (ea - c.apstk).toNat < 0x100000000 then (.stack, (ea - c.apstk).toNat)
  else if (ea - c.apstr).toNat < 0x80000000 then (.stratus, (ea - c.apstr).toNat)
  else (.global, ea.toNat)

/-- The scratchpad byte behind a window offset, if the team's allocation permits the access (R17, R193). -/
def Team.scratchLoc (t : Team) (o size : Nat) : Option Loc :=
  if o + size ≤ t.scratch then some (.scratch t.core (t.base + o))
  else if t.pair && 0x80000 ≤ o && o + size ≤ 0x80000 + t.scratch then some (.scratch (t.core + 1) (t.base + (o - 0x80000)))
  else none

/-- One address of one lane of group g checked, steered and translated (R190). A write to the Stratus window faults PROTECT (R194) with
REASON 0x5, which R201 gives for a leaf of type Stratus: DESIGN CHOICE, log entry 100. -/
def State.resolve (s : State) (g : Group) (a : Access) (lane : Nat) (scalar : Bool) (ea : DWord) :
    Except AccStop Loc :=
  if !canonical ea then .error (a.err .aperture 7 0 0xE ea)
  else if ea.toNat % a.size != 0 then .error (a.err .align 7 (steer (s.ctxCore g.core g.asid) ea).1.num 0xD ea)
  else match steer (s.ctxCore g.core g.asid) ea with
    | (.scratch, o) => match (s.team g.team).scratchLoc o a.size with
      | some l => .ok l
      | none => .error (a.err .protect 7 1 0x6 ea)
    | (.record, o) =>
      if a.record && scalar && !a.user && a.size == 8 then .ok (.record o)
      else .error (.err ⟨.protect, 7, 2, 0x7, ea, 7, 3⟩)
    | (.stack, x) =>
      if x < g.slane.toNat then
        if stackByte g.lbase.toNat (x + a.size - 1) lane < Config.hbmBytes then .ok (.stack g.lbase.toNat x lane)
        else .error (.model .hbmAbsent)
      else .error (a.err .spillLimit 7 2 0x9 ea)
    | (.stratus, o) => if a.write || a.atomic then .error (a.err .protect 7 3 0x5 ea) else .ok (.stratus o)
    | (.global, _) => s.resolveGlobal g.core g.asid a ea

/-- True for a location that raises the in-flight counters of global and stack-window memory (R211). -/
def Loc.counted (l : Loc) : Bool := match l with | .scratch .. | .record _ => false | _ => true

/-! ### The L1 (R208) -/

/-- Key of a way of a core's L1. -/
def l1Key (core line way : Nat) : Nat := core * 1024 + (line % 64) * 16 + way

/-- The empty way. -/
def L1Line.none : L1Line := ⟨0, [], 0, 0, 0⟩

/-- A way of a core's L1; an invalid way lists nothing. -/
def State.l1Way (s : State) (core line way : Nat) : L1Line := Store.get L1Line.none s.l1 (l1Key core line way)

/-- The way of a core's L1 that holds a line, if one does. -/
def State.l1Find (s : State) (core line : Nat) : Option Nat :=
  (List.range 16).find? fun w => (s.l1Way core line w).data != [] && (s.l1Way core line w).line == line

/-- May a load of group g hit the line (R208, R231)? One that has waited on an owned line reads at home (R234). -/
def State.l1Usable (s : State) (g : Group) (l : L1Line) : Bool :=
  (l.filler == g.asid || (s.ctxCore g.core g.asid).acq ≤ l.order) && g.l1Floor ≤ l.order && !g.ownWait

/-- The L1 line that serves a load of group g with a byte of HBM: one that it hits, but for a byte that the group has read past the
L1 since the line was filled, of which it never sees an older value again (R208, R229, log entry 79). -/
def State.l1Source (s : State) (g : Group) (nol1 : Bool) (pa : Nat) : Option L1Line :=
  match s.l1Find g.core (pa / 128) with
  | some w =>
    let l := s.l1Way g.core (pa / 128) w
    if !nol1 && s.l1Usable g l && !g.newer.contains (pa, l.order) then some l else none
  | none => none

/-- One byte of HBM as a load of group g sees it: from the L1 line that serves it, else from the home. -/
def State.loadByte (s : State) (g : Group) (nol1 : Bool) (pa : Nat) : Byte :=
  match s.l1Source g nol1 pa with
  | some l => l.data.getD (pa % 128) 0
  | none => s.hbm.byte pa

/-- Does a load of group g at this address hit? -/
def State.l1Hit (s : State) (g : Group) (pa : Nat) : Bool :=
  match s.l1Find g.core (pa / 128) with
  | some w => s.l1Usable g (s.l1Way g.core (pa / 128) w)
  | none => false

/-- Invalidate one way. -/
def State.l1Drop (s : State) (core line way : Nat) : State := { s with l1 := Store.erase (l1Key core line way) s.l1 }

/-- Invalidate the line of a core's L1 that holds an address (R215, R219). -/
def State.l1Invalidate (s : State) (core pa : Nat) : State :=
  match s.l1Find core (pa / 128) with
  | some w => s.l1Drop core (pa / 128) w
  | none => s

/-- Invalidate every line on a core that a context filled (R208, R219). -/
def State.l1InvalidateCtx (s : State) (core : Nat) (asid : BitVec 16) : State :=
  { s with l1 := s.l1.filter fun p => !(p.1 / 1024 == core && p.2.filler == asid) }

/-- Valid lines on a core that a context filled: L1OCC (R47). -/
def State.l1Occ (s : State) (core : Nat) (asid : BitVec 16) : Nat :=
  (s.l1.filter fun p => p.1 / 1024 == core && p.2.filler == asid).length

/-- The victim of a fill: the lowest invalid way of the mask, else its least recently filled way. -/
def State.l1Victim (s : State) (core line : Nat) (ways : BitVec 16) : Option Nat :=
  let cand := (List.range 16).filter fun w => ways.getLsbD w
  match cand.find? fun w => (s.l1Way core line w).data == [] with
  | some w => some w
  | none => cand.foldl (fun best w => match best with
    | none => some w
    | some b => if (s.l1Way core line w).use < (s.l1Way core line b).use then some w else some b) none

/-- The place in the order of replacement that makes a line the least recently filled of its set (R210). -/
def State.l1Behind (s : State) (core line : Nat) : Int :=
  ((List.range 16).filter fun w => (s.l1Way core line w).data != []).foldl (fun u w => min u (s.l1Way core line w).use) 1 - 1

/-- Is a line of HBM uncorrectable in part? -/
def State.badLine (s : State) (line : Nat) : Bool :=
  s.poison.any fun c => match c with | .hbm b => b / 128 == line | _ => false

/-- A line filled from its home into a core's L1, under the way mask of the request (R208, R210, R223). A
stream fill becomes the least recently filled line of its set. A line whose home is uncorrectable fills nothing: data is never
delivered poisoned (R207). -/
def State.l1Fill (s : State) (core : Nat) (asid : BitVec 16) (f : FillReq) : State :=
  if s.badLine f.line then s else
  let s0 := match s.l1Find core f.line with
    | some w => s.l1Drop core f.line w
    | none => s
  match s0.l1Victim core f.line f.ways with
  | none => s
  | some w =>
    let l : L1Line := { line := f.line, data := s0.hbm.bytes (f.line * 128) 128, filler := asid, order := s0.l1Ctr + 1
                        use := if f.stream then s0.l1Behind core f.line else s0.l1Ctr + 1 }
    { s0 with l1 := Store.put (l1Key core f.line w) l s0.l1, l1Ctr := s0.l1Ctr + 1 }

/-- A byte stored through a core's L1: the line found is updated, or invalidated under nol1 (R208, R210); the byte is good again. -/
def State.l1Store (s : State) (core : Nat) (nol1 : Bool) (pa : Nat) (b : Byte) : State :=
  match s.l1Find core (pa / 128) with
  | none => s
  | some w =>
    if nol1 then s.l1Drop core (pa / 128) w
    else
      let l := s.l1Way core (pa / 128) w
      { s with l1 := Store.put (l1Key core (pa / 128) w) { l with data := l.data.set (pa % 128) b } s.l1
               poison := if s.poison == [] then [] else s.poison.filter fun c => c != .l1 core pa l.order }

/-- An acquire of group g on its L1: its later loads hit no line filled before (R231); at cluster scope or wider,
and at team scope for a pair team, every line its context filled on the core goes (R208). -/
def State.acquireL1 (s : State) (k : Nat) (scope : Scope) : State :=
  let g := s.group k
  let s1 := s.putGroup k { g with l1Floor := s.l1Ctr + 1, newer := [] }
  if scope == .team && !(s.team g.team).pair then s1
  else
    let c := s1.ctxCore g.core g.asid
    (s1.l1InvalidateCtx g.core g.asid).putCtxCore g.core g.asid { c with acq := s.l1Ctr + 1 }

/-! ### Scratchpad (R39, R40, R193) -/

/-- Key of a scratchpad word. -/
def scratchKey (core byte : Nat) : Nat := core * 131072 + byte / 4

/-- A scratchpad word. -/
def State.sword (s : State) (core byte : Nat) : TWord := Store.get TWord.zero s.scratch (scratchKey core byte)
/-- A scratchpad word written. -/
def State.setSword (s : State) (core byte : Nat) (w : TWord) : State :=
  { s with scratch := Store.set TWord.zero s.scratch (scratchKey core byte) w }

/-- The value of `n` bytes of scratchpad from a byte address (an access of at most 4 bytes stays in a word). -/
def State.readScratch (s : State) (core byte n : Nat) : Nat :=
  if n < 4 then ((s.sword core byte).val.toNat / 2 ^ (8 * (byte % 4))) % 2 ^ (8 * n)
  else leValue ((List.range (n / 4)).flatMap fun k => leBytes 4 (s.sword core (byte + 4 * k)).val.toNat)

/-- Words written upward from a byte address: the first carries the tail, the others tail zero. -/
def State.writeWords (s : State) (core byte : Nat) (tail : Tail) (v : Nat) : Nat → State
  | 0 => s
  | n + 1 => State.writeWords (s.setSword core byte ⟨BitVec.ofNat 32 v, tail⟩) core (byte + 4) 0 (v / 2 ^ 32) n

/-- `n` bytes of scratchpad written: a part of a word leaves its tail zero (R40). -/
def State.writeScratch (s : State) (core byte n : Nat) (v : Nat) (tail : Tail) : State :=
  if n < 4 then
    let old := (s.sword core byte).val
    let sh := 8 * (byte % 4)
    let hole : Word := (BitVec.ofNat 32 (2 ^ (8 * n) - 1)) <<< sh
    s.setSword core byte ⟨(old &&& ~~~hole) ||| ((BitVec.ofNat 32 v <<< sh) &&& hole), 0⟩
  else s.writeWords core byte tail v (n / 4)

/-! ### The group stack record (R196) -/

/-- A word of the stack record of group g. -/
def State.readRecord (s : State) (g : Group) (off : Nat) : DWord :=
  match off / 8 with
  | 0 => g.lbase | 1 => g.slane | 2 => g.jbase | 3 => g.jlim | 4 => g.cbase | 5 => g.clim
  | 6 => (s.ctx g.asid).rnext | _ => (s.ctx g.asid).rend

/-- Does a value keep the unlisted bits of a record word zero and its stated multiple (R196)? -/
def recordOk (off : Nat) (v : DWord) : Bool :=
  let addr := v.toNat < 2 ^ 52
  let word := v.toNat < 2 ^ 32
  match off / 8 with
  | 0 | 4 => addr && v.toNat % 128 == 0
  | 1 => word && v.toNat % 16 == 0
  | 2 => addr && v.toNat % 16 == 0
  | 3 | 5 => word
  | _ => addr

/-- A word of the stack record of the group at key k written. -/
def State.writeRecord (s : State) (k : Nat) (off : Nat) (v : DWord) : State :=
  let g := s.group k
  match off / 8 with
  | 0 => s.putGroup k { g with lbase := v }
  | 1 => s.putGroup k { g with slane := v }
  | 2 => s.putGroup k { g with jbase := v }
  | 3 => s.putGroup k { g with jlim := v }
  | 4 => s.putGroup k { g with cbase := v }
  | 5 => s.putGroup k { g with clim := v }
  | 6 => s.putCtx g.asid { s.ctx g.asid with rnext := v }
  | _ => s.putCtx g.asid { s.ctx g.asid with rend := v }

/-! ### mem_read and mem_write of one location -/

/-- Bytes of a location read by a load of group g. -/
def State.loadBytes (s : State) (g : Group) (nol1 : Bool) (l : Loc) (n : Nat) : List Byte :=
  (List.range n).map fun k => match l.hbmByte k with
    | some pa => s.loadByte g nol1 pa
    | none => s.homeByte l k

/-- mem_read (R70): the value of `n` bytes with the tail of a scratchpad word read whole (R40). -/
def State.readLoc (s : State) (g : Group) (nol1 : Bool) (l : Loc) (n : Nat) : Nat × Tail :=
  match l with
  | .scratch c b => (s.readScratch c b n, if n == 4 || n == 8 then (s.sword c b).tail else 0)
  | .record o => ((s.readRecord g o).toNat, 0)
  | _ => (leValue (s.loadBytes g nol1 l n), 0)

/-- The value of `n` bytes at their home, past every L1. -/
def State.readHome (s : State) (g : Group) (l : Loc) (n : Nat) : Nat :=
  match l with
  | .scratch c b => s.readScratch c b n
  | .record o => (s.readRecord g o).toNat
  | _ => leValue ((List.range n).map (s.homeByte l))

/-- Bytes written at their home. -/
def State.writeHomeBytes (s : State) (l : Loc) (k : Nat) : List Byte → State
  | [] => s
  | b :: bs => State.writeHomeBytes (s.setHomeByte l k b) l (k + 1) bs

/-- Bytes of HBM passed through the L1 of a core (R208). -/
def State.l1StoreBytes (s : State) (core : Nat) (nol1 : Bool) (l : Loc) (k : Nat) : List Byte → State
  | [] => s
  | b :: bs => State.l1StoreBytes (match l.hbmByte k with
      | some pa => s.l1Store core nol1 pa b
      | none => s) core nol1 l (k + 1) bs

/-- mem_write (R70) by the group at key k: a store of `n` bytes with a tail for scratchpad words. -/
def State.writeLoc (s : State) (k : Nat) (nol1 : Bool) (l : Loc) (n v : Nat) (tail : Tail) : State :=
  match l with
  | .scratch c b => s.writeScratch c b n v tail
  | .record o => s.writeRecord k o (BitVec.ofNat 64 v)
  | _ => (s.writeHomeBytes l 0 (leBytes n v)).l1StoreBytes (s.group k).core nol1 l 0 (leBytes n v)

/-- The L1 lines of the HBM bytes of a location, from the n-th byte down, invalidated (R208). -/
def State.l1InvalidateLoc (s : State) (core : Nat) (l : Loc) : Nat → State
  | 0 => s
  | n + 1 => State.l1InvalidateLoc (match l.hbmByte n with | some pa => s.l1Invalidate core pa | none => s) core l n

/-- The HBM bytes of a location that a line of a core's L1 holds, with the line's fill order. -/
def State.l1Copies (s : State) (core : Nat) (l : Loc) (n : Nat) : List (Nat × Nat) :=
  (List.range n).filterMap fun k => match l.hbmByte k with
    | some pa => (s.l1Find core (pa / 128)).map fun w => (pa, (s.l1Way core (pa / 128) w).order)
    | none => none

/-- The group at key k has read a location past the L1: it never sees an older value of these bytes again (R229, log entry 79). -/
def State.sawHome (s : State) (k : Nat) (l : Loc) (n : Nat) : State :=
  let g := s.group k
  match s.l1Copies g.core l n with
  | [] => s
  | cs => s.putGroup k { g with newer := (g.newer ++ cs).eraseDups }

/-- Bytes that the hardware writes to HBM for a group on a core, a join-stack image or a checkpoint: they reach their home and the
line that the core's L1 holds (R208, R229), and replace what was uncorrectable there (R426). -/
def State.writeOwn (s : State) (core at_ : Nat) (bs : List Byte) : State :=
  let good := if s.poison == [] then [] else s.poison.filter fun c =>
    match c with | .hbm b => !(at_ ≤ b && b < at_ + bs.length) | _ => true
  let t := { s with hbm := s.hbm.setBytes at_ bs, poison := good }
  if s.l1 == [] then t else t.l1StoreBytes core false (.hbm at_) 0 bs

/-- A value put at its home by an atomic of the group at key k: the issuing core's L1 lines go, a scratchpad word
gets tail 0 (R208, R215). -/
def State.writeAtomic (s : State) (k : Nat) (l : Loc) (n v : Nat) : State :=
  match l with
  | .scratch c b => s.writeScratch c b n v 0
  | .record o => s.writeRecord k o (BitVec.ofNat 64 v)
  | _ => (s.writeHomeBytes l 0 (leBytes n v)).l1InvalidateLoc (s.group k).core l n

/-! ### Owned lines, armed records, refresh windows -/

/-- Do the byte ranges [a, a + n) and [lo, hi) meet? -/
def meets (a n lo hi : Nat) : Bool := a < hi && lo < a + n

/-- Does the location lie in a line that an engine owns, or, for a write, in a source that it holds (R234, R245)? -/
def State.isOwned (s : State) (l : Loc) (n : Nat) (write : Bool) : Bool :=
  s.owned.any fun o => (write || !o.src) && match l, o.core with
    | .scratch c b, some oc => c == oc && meets b n o.lo o.hi
    | .hbm pa, none => meets pa n o.lo o.hi
    | .stack b x i, none => (List.range n).any fun k => meets (stackByte b (x + k) i) 1 o.lo o.hi
    | _, _ => false

/-- The Stratus bank of a package offset: die · 64 + bank (R20, R271). -/
def stratusBank (off : Nat) : Nat := off / 2 ^ 29 * 64 + (off % 2 ^ 29 / 8192) % 64

/-- Does a read of the location meet a refresh window (R194)? -/
def State.inRefresh (s : State) (l : Loc) : Bool :=
  match l with
  | .stratus off => s.refresh.contains (stratusBank off)
  | _ => false

/-- Why an access must wait: a line that an engine owns (17), a refresh window (16). -/
def State.locWait (s : State) (l : Loc) (n : Nat) (write : Bool) : Option Nat :=
  if s.isOwned l n write then some 17 else if s.inRefresh l then some 16 else none

/-- Does a write of `n` bytes overlap an armed barrier record or an active ring record (R265)? -/
def State.clobbers (s : State) (l : Loc) (n : Nat) : Bool :=
  match l with
  | .scratch c b => s.armed.any fun a => a.core == c && meets b n a.byte (a.byte + a.len)
  | _ => false

/-! ### The lanes of one instruction -/

/-- The result of resolving one access of one lane. -/
structure LaneLoc where
  lane : Nat
  ea   : DWord
  loc  : Loc
deriving DecidableEq, Repr

/-- The trap of the faulting lanes: CAUSE is the fault of the lowest faulting lane and the trap mask every lane
that faults with that code (R205). `all` is the mask when the access acts for the group. -/
def accTrap (asid : BitVec 16) (errs : List (Nat × AccStop)) (whole : Option Lanes) : Option Stop :=
  match errs with
  | [] => none
  | (_, .model f) :: _ => some (.fault f)
  | (_, .err e) :: _ =>
    let m := laneSet fun i => errs.any fun p => p.1 == i && (match p.2 with | .err e' => e'.code == e.code | _ => false)
    some (.trap e.code e.faddr (.raw (e.finfo asid)) (whole.getD m))

/-- The lane whose fault decides (R205). -/
def accStop (asid : BitVec 16) (errs : List (Nat × AccStop)) (whole : Option Lanes) : Option (Nat × Stop) :=
  match errs, accTrap asid errs whole with
  | (i, _) :: _, some e => some (i, e)
  | _, _ => none

/-- Number of the counter of accesses that waited on an owned line, of a die (R243). -/
def ctrOwned (die : Nat) : Nat := 0x212_0000 + die

/-- The home die of a location: HBM homes are interleaved by 4 KiB (R19). -/
def Loc.die (l : Loc) : Nat :=
  match l with
  | .scratch c _ => c / 64
  | .stratus o => o / 2 ^ 29
  | _ => match l.hbmByte 0 with | some pa => pa / 4096 % 4 | none => 0

/-- An access of an engine or of the outside waits on an owned line: its work, by kind and number, is counted once, on a die (R243, log
entry 101). -/
def State.noteWait (s : State) (die kind id : Nat) : State :=
  if s.waited.contains (kind, id) then s else { s.bump (ctrOwned die) with waited := s.waited ++ [(kind, id)] }

/-- The work goes on. -/
def State.waitOver (s : State) (kind id : Nat) : State := { s with waited := s.waited.filter fun p => p != (kind, id) }

/-- Does an access of the lanes meet a line that an engine owns (R234)? -/
def State.lanesOwned (s : State) (ls : List LaneLoc) (n : Nat) (write : Bool) : Bool := ls.any fun l => s.isOwned l.loc n write

/-- The wait that an access of the lanes meets, the lowest reason of several (R86). -/
def State.lanesWait (s : State) (ls : List LaneLoc) (n : Nat) (write : Bool) : Option Nat :=
  if ls.any fun l => s.inRefresh l.loc then some 16 else if s.lanesOwned ls n write then some 17 else none

/-- BARRIER_CLOBBER of the lanes whose write overlaps an armed or active record, with the lowest of them, whose
address FADDR holds (R265, R367). -/
def State.clobberStop (s : State) (ls : List LaneLoc) (n : Nat) (whole : Option Lanes) : Option (Nat × Stop) :=
  match ls.filter fun l => s.clobbers l.loc n with
  | [] => none
  | l :: rest =>
    let m := laneSet fun i => (l :: rest).any fun x => x.lane == i
    some (l.lane, .trap .barrierClobber l.ea (.generic 0) (whole.getD m))

/-- Of the faults that several lanes find, the lowest lane's is the cause (R205); of two in one lane, the earlier in
the list. -/
def lowestStop : List (Option (Nat × Stop)) → Option (Nat × Stop)
  | [] => none
  | none :: l => lowestStop l
  | some a :: l => match lowestStop l with
    | some b => if b.1 < a.1 then some b else some a
    | none => some a

/-- Every lane of a list checked, steered and translated (R190, R205), for a write with the check of R265; `one` is the
lane whose stack lane 96 reaches. `extra` gives what the lanes that pass may fault on besides. The locations, or the
fault of the lowest faulting lane. -/
def State.checkLanes (s : State) (g : Group) (a : Access) (scalar : Bool) (one : Nat) (whole : Option Lanes)
    (extra : List LaneLoc → Option (Nat × Stop)) (eas : List (Nat × DWord)) : Except Stop (List LaneLoc) :=
  let rs := eas.map fun p => (p.1, p.2, s.resolve g a (if p.1 = 96 then one else p.1) scalar p.2)
  let errs := rs.filterMap fun r => match r.2.2 with | .error e => some (r.1, e) | .ok _ => none
  let oks : List LaneLoc := rs.filterMap fun r => match r.2.2 with | .ok l => some ⟨r.1, r.2.1, l⟩ | .error _ => none
  match lowestStop [accStop g.asid errs whole, if a.write || a.atomic then s.clobberStop oks a.size whole else none, extra oks] with
  | some e => .error e.2
  | none => .ok oks

/-- Is the location one of global memory, reached through a translation or lost behind one? -/
def LaneLoc.translated (s : State) (g : Group) (l : LaneLoc) : Bool :=
  match l.loc with
  | .hbm _ | .host _ | .peer _ _ | .lost => true
  | .stratus _ => (steer (s.ctxCore g.core g.asid) l.ea).1 == .global
  | _ => false

/-- Number of an MMU counter of a die (R224): 0 `tlbi` commands, 1 `ggen` commands, 2 L1 TLB misses, 3 L2 TLB misses, 4 walks
started, 5 walks merged, 6 the high-water mark of the MMU's queue. -/
def ctrMmu (die k : Nat) : Nat := 0x211_0000 + die * 8 + k

/-- The page through which a core translates an address. -/
def State.pageOf (s : State) (core : Nat) (asid : BitVec 16) (va : DWord) : Option Page :=
  match s.leafOf core asid va with
  | some (.ok l) => some ⟨leafShift l.1 l.2, pageNum va (leafShift l.1 l.2)⟩
  | _ => none

/-- The pages whose translations the accesses of lanes use. -/
def State.pagesOf (s : State) (g : Group) (ls : List LaneLoc) : List Page :=
  ((ls.filter (LaneLoc.translated s g)).filterMap fun l => s.pageOf g.core g.asid l.ea).eraseDups

/-- A counter raised by a count that may be zero. -/
def State.bumpBy (s : State) (k n : Nat) : State := if n = 0 then s else s.bump k n

/-- The misses of accesses at some addresses counted: each looks its address up, those that miss on one page share a walk (R203, R224,
log entry 9). An instruction asks for 96 walks at most, so the queue before the 192 walkers stays empty. -/
def State.countVas (s : State) (core : Nat) (asid : BitVec 16) (vas : List DWord) : State :=
  let d := core / 64
  let m1 := vas.filter fun va => (s.tlbHit s.l1tlb core asid va).isNone
  let m2 := m1.filter fun va => (s.tlbHit s.tlb d asid va).isNone
  let walks := (m2.map (s.pageOf core asid)).eraseDups.length
  (((s.bumpBy (ctrMmu d 2) m1.length).bumpBy (ctrMmu d 3) m2.length).bumpBy (ctrMmu d 4) walks).bumpBy (ctrMmu d 5) (m2.length - walks)

/-- What translations of some addresses for a core leave in the counters of the MMU and in the TLBs (R202, R224). -/
def State.noteVas (s : State) (core : Nat) (asid : BitVec 16) (vas : List DWord) : State :=
  vas.foldl (fun t va => t.tlbNote core asid va) (s.countVas core asid vas)

/-- What the accesses of lanes leave in the TLBs and the counters of the MMU (R202, R224). -/
def State.noteLanes (s : State) (ls : List LaneLoc) : State :=
  s.noteVas s.g.core s.g.asid ((ls.filter (LaneLoc.translated s s.g)).map fun l => l.ea)

/-! ### Uncorrectable data (R207, R426) -/

/-- The checked unit that holds the k-th byte of a location. -/
def Loc.cell (l : Loc) (k : Nat) : Option BadCell :=
  match l with
  | .scratch c b => some (.scratch (scratchKey c (b + k)))
  | .stratus off => some (.stratus (off + k))
  | _ => (l.hbmByte k).map .hbm

/-- Is the k-th byte of a location uncorrectable? -/
def State.isBad (s : State) (l : Loc) (k : Nat) : Bool :=
  match l with
  | .lost => true
  | _ => s.poison != [] && match l.cell k with | some c => s.poison.contains c | none => false

/-- The first byte of an access that a test finds lost, with its lane. -/
def badByteBy (bad : Loc → Nat → Bool) (n : Nat) (ls : List LaneLoc) : Option (LaneLoc × DWord) :=
  ls.findSome? fun l => ((List.range n).find? (bad l.loc)).map fun k => (l, l.ea + BitVec.ofNat 64 k)

/-- The first byte of an access whose data is uncorrectable at home, with its lane (R207). -/
def State.badByte (s : State) (n : Nat) (ls : List LaneLoc) : Option (LaneLoc × DWord) := badByteBy s.isBad n ls

/-- Is the k-th byte that a load of group g takes uncorrectable where it comes from, the L1 line that serves it or its home? -/
def State.loadBad (s : State) (g : Group) (nol1 : Bool) (l : Loc) (k : Nat) : Bool :=
  match l.hbmByte k with
  | none => s.isBad l k
  | some pa => s.poison != [] && match s.l1Source g nol1 pa with
    | some x => s.poison.contains (.l1 g.core pa x.order)
    | none => s.isBad l k

/-- DATA_LOST of an access of a context on a core (R205): its kind, window and size, and the level where its walk ended, 7 when it
made none. -/
def State.lossErr (s : State) (core : Nat) (asid : BitVec 16) (acc n : Nat) (ea : DWord) : AccErr :=
  let w := (steer (s.ctxCore core asid) ea).1
  let lvl := if w != .global || (s.tlbFind core asid ea).isSome then 7
    else match s.leafOf core asid ea with | some (.ok p) => p.2 | some (.error e) => e.1 | none => 7
  ⟨.dataLost, lvl, w.num, 0xC, ea, acc, log2Size n⟩

/-- FINFO of DATA_LOST of a group's access. -/
def State.lossFinfo (s : State) (g : Group) (acc n : Nat) (l : LaneLoc) : DWord := (s.lossErr g.core g.asid acc n l.ea).finfo g.asid

/-- What an uncorrectable error of an access of `n` bytes raises: its code, FADDR and FINFO (R205, R207). -/
def State.badAccess (s : State) (g : Group) (acc n : Nat) (ls : List LaneLoc) : Option (FCode × DWord × DWord) :=
  (s.badByte n ls).map fun b => (.dataLost, b.2, s.lossFinfo g acc n b.1)

/-- What an uncorrectable error of a load of `n` bytes raises at its consumer (R205, R207). -/
def State.badLoad (s : State) (g : Group) (nol1 : Bool) (acc n : Nat) (ls : List LaneLoc) : Option (FCode × DWord × DWord) :=
  (badByteBy (s.loadBad g nol1) n ls).map fun b => (.dataLost, b.2, s.lossFinfo g acc n b.1)

end Sys2Proof.Machine
end

