-- ==== Sys2Proof/Machine/Life.lean ====
section
/-! DEFINITION. What happens to a group as a whole: join-stack spills and fills (R90), checkpoints (R314,
R315), the team barrier (R107 to R109), and its end and its team's end (R99, R365, R369). -/

namespace Sys2Proof

/-- The 8-byte image of a word with its tail (R217). -/
def TWord.image (w : TWord) : List Byte := Machine.leBytes 4 w.val.toNat ++ Machine.leBytes 4 w.tail.toNat

/-- The word of an 8-byte image; its zero bits are ignored (R217). -/
def TWord.ofImage (b : List Byte) : TWord :=
  ⟨BitVec.ofNat 32 (Machine.leValue (b.take 4)), BitVec.ofNat 3 (Machine.leValue ((b.drop 4).take 1))⟩

/-- The 16-byte image of a scalar with its tail (R217). -/
def TVal.image (v : TVal) : List Byte := Machine.leBytes 8 v.val.toNat ++ Machine.leBytes 8 v.tail.toNat

/-- The scalar of a 16-byte image (R217). -/
def TVal.ofImage (b : List Byte) : TVal :=
  ⟨BitVec.ofNat 64 (Machine.leValue (b.take 8)), BitVec.ofNat 3 (Machine.leValue ((b.drop 8).take 1))⟩

end Sys2Proof

namespace Sys2Proof.Machine

/-! ### Images -/

/-- The 48-byte image of a join entry (R89). -/
def JoinEntry.image (e : JoinEntry) : List Byte :=
  leBytes 8 e.lpc.toNat ++ leBytes 8 e.ppc.toNat ++ leBytes 12 e.smask.toNat ++ leBytes 12 e.pmask.toNat
    ++ leBytes 8 (if e.pend then 1 else 0)

/-- The join entry of a 48-byte image; reserved bits are ignored (R89). -/
def JoinEntry.ofImage (b : List Byte) : JoinEntry :=
  { lpc := BitVec.ofNat 64 (leValue (b.take 8)), ppc := BitVec.ofNat 64 (leValue ((b.drop 8).take 8))
    smask := BitVec.ofNat 96 (leValue ((b.drop 16).take 12)), pmask := BitVec.ofNat 96 (leValue ((b.drop 28).take 12))
    pend := leValue ((b.drop 40).take 1) % 2 == 1 }

/-- JSD.DEPTH: entries held and spilled (R46). -/
def Group.depth (g : Group) : Nat := g.stack.length + g.spilled

/-- JSD (R46). -/
def Group.jsd (g : Group) : DWord := BitVec.ofNat 64 (g.depth % 65536 + 65536 * g.stack.length)

/-! ### The join stack in memory (R90) -/

/-- SPILL_LIMIT of a push (R90, R205): ACC 5, REASON 0xA, SIZE 6. The push acts for the group. -/
def Group.spillTrap (g : Group) (faddr : Nat) : Stop :=
  .trap .spillLimit (BitVec.ofNat 64 faddr)
    (.raw ((⟨.spillLimit, 7, 2, 0xA, 0, 5, 6⟩ : AccErr).finfo g.asid)) g.mask

/-- A push (R90): at HELD = 16 the oldest held entry is first written above the images already there, and the
group then waits for the acknowledgement. -/
def State.push (s : State) (e : JoinEntry) : Except Stop State :=
  let g := s.g
  if g.depth = 65535 then .error (g.spillTrap (g.jbase.toNat + 48 * g.spilled))
  else if g.stack.length < 16 then .ok (s.setG { g with stack := e :: g.stack })
  else if g.jlim.toNat < 48 * (g.spilled + 1) then .error (g.spillTrap (g.jbase.toNat + g.jlim.toNat))
  else
    let at_ := g.jbase.toNat + 48 * g.spilled
    if Config.hbmBytes < at_ + 48 then .error (.fault .hbmAbsent)
    else
      let s1 := s.setG { g with stack := e :: g.stack.take 15, spilled := g.spilled + 1, waiting := .spill }
      .ok (s1.writeOwn g.core at_ ((g.stack.getD 15 ⟨0, 0, 0, 0, false⟩).image))

/-- Must the spill that a push would make wait: an engine owns a line of its image (R234)? -/
def State.pushOwned (s : State) : Bool :=
  s.g.stack.length == 16 && s.isOwned (.hbm (s.g.jbase.toNat + 48 * s.g.spilled)) 48 true

/-- A pop (R90): when it leaves no held entry while spilled ones remain, the group waits for a fill. -/
def Group.pop (g : Group) : Group :=
  let rest := g.stack.drop 1
  { g with stack := rest, waiting := if rest == [] && g.spilled != 0 then .fill else g.waiting }

/-- The loss of a join-stack image that cannot be read (R207, R426): FINFO as for a record that the hardware reads of the stack window. -/
def Group.joinLoss (g : Group) (at_ : Nat) : Loss :=
  let e : AccErr := ⟨.dataLost, 7, 2, 0xC, BitVec.ofNat 64 at_, 5, 6⟩
  ⟨.join, .dataLost, e.faddr, e.finfo g.asid⟩

/-- The image on top of the spilled part of a group's join stack comes back (R90); one that is uncorrectable leaves the stack lost. -/
def State.fillStack (s : State) (k : Nat) : State :=
  let g := s.group k
  let at_ := g.jbase.toNat + 48 * (g.spilled - 1)
  let bad := (List.range 48).find? (s.isBad (.hbm at_))
  s.putGroup k { g with stack := g.stack ++ [JoinEntry.ofImage (s.hbm.bytes at_ 48)], spilled := g.spilled - 1
                        waiting := .no, stall := 0, ownWait := false
                        lost := match bad with | some b => g.lost ++ [g.joinLoss (at_ + b)] | none => g.lost }

/-! ### Checkpoints (R314, R315) -/

/-- Z of R314. -/
def Group.slotSize (g : Group) : Nat := g.clim.toNat / 256 * 128

/-- Address of checkpoint slot 0 or 1. -/
def Group.slotBase (g : Group) (i : Nat) : Nat := g.cbase.toNat + i * g.slotSize

/-- SEQ of a slot. -/
def State.slotSeq (s : State) (g : Group) (i : Nat) : Nat := s.hbm.read (g.slotBase i + 8) 8

/-- The current slot: the one with the larger SEQ (R314). -/
def State.currentSlot (s : State) (g : Group) : Nat := if s.slotSeq g 0 < s.slotSeq g 1 then 1 else 0

/-- The slot that a new checkpoint writes: the other one; the first one when none was ever written. -/
def State.nextSlot (s : State) (g : Group) : Nat :=
  if s.slotSeq g 0 = 0 && s.slotSeq g 1 = 0 then 0 else 1 - s.currentSlot g

/-- Vector registers named by ranges (first, count), in order. -/
def rangeRegs (ranges : List (Nat × Nat)) : List Nat :=
  ranges.flatMap fun r => (List.range r.2).map fun k => r.1 + k

/-- The bytes +0x000 to +0xA7F of a checkpoint slot (R314). -/
def Group.slotHead (g : Group) (head : DWord) (seq : Nat) (ranges : List (Nat × Nat)) : List Byte :=
  let range (k : Nat) : List Byte := match ranges[k]? with
    | some r => leBytes 4 (r.1 + 256 * r.2)
    | none => leBytes 4 0
  leBytes 8 head.toNat ++ leBytes 8 seq ++ leBytes 8 g.retired.toNat ++ leBytes 8 g.dix.toNat
    ++ leBytes 8 g.viewV.toNat ++ leBytes 8 g.viewT.toNat ++ leBytes 8 g.viewA.toNat
    ++ leBytes 12 g.mask.toNat ++ leBytes 12 g.exited.toNat ++ leBytes 4 g.jsd.toNat
    ++ range 0 ++ range 1 ++ range 2
    ++ leBytes 8 (if g.mode then 1 else 0) ++ List.replicate 24 0
    ++ (List.range 64).flatMap (fun n => (g.sreg n).image)
    ++ (List.range 32).flatMap (fun n => leBytes 12 (g.pred n).toNat)
    ++ (List.range 96).flatMap (fun i => leBytes 4 (g.fpcOf i).toNat)
    ++ g.stack.reverse.flatMap JoinEntry.image ++ List.replicate (48 * (16 - g.stack.length)) 0

/-- The images of the named registers (R314). -/
def State.slotRegs (s : State) (g : Group) (ranges : List (Nat × Nat)) : List Byte :=
  (rangeRegs ranges).flatMap fun n => (List.range 96).flatMap fun i => (s.rsWord g (g.vByte n i)).image

/-- Numbers of the launcher's counters (R331, R307): 0 tasks readied, 1 refused, 2 retired, 3 teams placed, 4 COUNT_UNDER events, 5
the overflow's high-water mark, 6 checkpoints, 7 their bytes, 8 restarts, 9 context switches, 10 their cycles, 11 doorbell writes
discarded. -/
def ctrTask (k : Nat) : Nat := 0x209_0000 + k

/-- Bytes of a checkpoint of some ranges (R314). -/
def ckBytes (ranges : List (Nat × Nat)) : Nat := 2688 + 768 * (rangeRegs ranges).length

/-- Must the checkpoint that the group would take wait: an engine owns a line of its slot (R234)? -/
def State.slotOwned (s : State) (k : Nat) (ranges : List (Nat × Nat)) : Bool :=
  let g := s.group k
  s.isOwned (.hbm (g.slotBase (s.nextSlot g))) (ckBytes ranges) true

/-- Does a checkpoint of these ranges fit the slot to be written? SPILL_LIMIT when it does not (R198, R205, R315). -/
def State.slotFits (s : State) (k : Nat) (ranges : List (Nat × Nat)) : Except Stop Unit :=
  let g := s.group k
  let base := g.slotBase (s.nextSlot g)
  let size := ckBytes ranges
  if g.slotSize < size then
    .error (.trap .spillLimit (BitVec.ofNat 64 (base + g.slotSize))
      (.raw ((⟨.spillLimit, 7, 2, 0xB, 0, 6, 7⟩ : AccErr).finfo g.asid)) g.mask)
  else if Config.hbmBytes < base + size then .error (.fault .hbmAbsent)
  else .ok ()

/-- A checkpoint of the group at key k with HEADPC `head` (R315). The slot's bytes are written at once; the slot
becomes current at CHECKPOINT_COMPLETE, and until then no pre-emption takes the group and no other checkpoint begins. -/
def State.checkpoint (s : State) (k : Nat) (head : DWord) (ranges : List (Nat × Nat)) : Except Stop State := do
  s.slotFits k ranges
  let g := s.group k
  let slot := s.nextSlot g
  let seq := s.slotSeq g (s.currentSlot g) + 1
  let s1 := s.writeOwn g.core (g.slotBase slot) (g.slotHead head seq ranges ++ s.slotRegs g ranges)
  let s2 := s1.putGroup k { g with
    pendCk := some slot, ckSeq := BitVec.ofNat 64 seq, ckAt := s.clock + 1, ranges := ranges, deferred := false }
  .ok ((s2.bump (ctrTask 6)).bump (ctrTask 7) (ckBytes ranges))

/-! ### The groups of a quadrant -/

/-- Resident groups of a quadrant, with keys. -/
def State.quadGroups (s : State) (core quad : Nat) : Sparse Group :=
  s.groups.filter fun p => p.2.resident && p.2.core == core && p.2.quad == quad

/-- Is the group between two instructions (R317): it waits for nothing that completes an instruction? -/
def Group.atBoundary (g : Group) : Bool :=
  match g.waiting with
  | .checkpoint | .accept | .dump | .ggen | .restore => false
  | _ => true

/-- Is a pre-emption of the group deferred (R317, R368, R384): after a non-idempotent instruction, in supervisor mode, while
a checkpoint is being written, inside an instruction, in chrysalis? -/
def Group.deferring (g : Group) : Bool := g.deferred || g.mode || g.pendCk.isSome || g.chrysalis || !g.atBoundary

/-- Is the group held by something that only an event ends? -/
def Group.isBlocked (g : Group) : Bool := g.waiting != .no || g.loads.any (fun l => l.holds) || g.parked || (g.chrysalis && !g.restWait) || g.ended || g.preempt && !g.deferring

/-- Can the group be tried: resident and not held? -/
def Group.canIssue (g : Group) : Bool := g.resident && !g.isBlocked

/-! ### The team barrier (R107 to R109) -/

/-- Payload of a barrier record (R386): kind, object, generation, group. -/
def barrierPayload (kind obj gen last : Nat) : BitVec 96 :=
  BitVec.ofNat 96 (kind % 16 + 2 ^ 4 * (obj % 2 ^ 44) + 2 ^ 48 * (gen % 2 ^ 32) + 2 ^ 80 * (last % 64))

/-- OBJ of the team barrier: core and linear team index (R357). -/
def Team.barObj (t : Team) : Nat := t.core * 2 ^ 36 + t.lin % 2 ^ 32

/-- A waiting group leaves the completed barrier (R108): its `tbar` retires, the return is a team-scope acquire, and
the checkpoint of its region is taken again after it, except inside a handler (R323); the antennae see it (R376), and a group that
rests goes on resting (R379). -/
def State.leaveBarrier (s : State) (k : Nat) : State :=
  let g := s.group k
  let g1 := { g with waiting := .no, stall := 0, restWait := false, waitTold := none, pc := g.pc + 12
                     retired := if g.mode then g.retired else g.retired + 1 }
  let s1 := (s.putGroup k g1).acquireL1 k .team
  let s2 := if g.inHandler then s1
    else match s1.checkpoint k g1.pc g.ranges with
      | .ok t => t
      | .error _ => s1
  (s2.antennae k {} g.barLanes g.pc g.mode false).heldCheck k

/-- The barrier of the team at key tk completes when every group that has not ended has arrived and one waits. -/
def State.barrierCheck (s : State) (tk last : Nat) : State :=
  let t := s.team tk
  let waiting := (s.teamGroups tk).filter fun p => p.2.waiting == .barrier
  let all := (List.range t.groups).all fun i => t.bar.arrived.getLsbD i || t.ended.getLsbD i
    || (s.teamGroups tk).any fun p => p.2.index == i && p.2.ended
  if waiting == [] || !all then s
  else
    let eng := match (s.teamGroups tk).find? fun p => p.2.index == last with
      | some p => p.2.engine
      | none => engSched t.core 0
    let s1 := s.emit eng 0x06 (some t.asid) (barrierPayload 0 t.barObj t.bar.gen.toNat last)
    let s2 := s1.putTeam tk { t with bar := ⟨t.bar.gen + 1, 0, []⟩ }
    waiting.foldl (fun st p => st.leaveBarrier p.1) s2

/-! ### The end of a group -/

/-- Are all in-flight counters zero (R99, R308)? -/
def Group.quiet (g : Group) : Bool := g.inflight == ⟨0, 0, 0, 0, 0, 0⟩

/-- Does a queued matrix operation still have to read a quarter of B in the group's registers (R296)? -/
def State.quarterHeld (s : State) (k : Nat) : Bool :=
  s.mx.any fun p => p.2.ops.any fun o => !o.begun && o.quarters.any fun q => match q with | some x => x.grp == k | none => false

/-- An ended group whose counters are zero frees its slot and its register space (R99), not before a matrix operation has
read its quarter of B (R296). -/
def State.tryFree (s : State) (k : Nat) : State :=
  let g := s.group k
  if g.resident && g.ended && g.quiet && !s.quarterHeld k then
    let t := s.team g.team
    let s1 := s.putTeam g.team { t with ended := t.ended ||| ((1 : BitVec 64) <<< g.index) }
    s1.putGroup k { g with resident := false, active := false, regs := [], loads := [], acks := [] }
  else s

/-- A group waits at no asynchronous barrier any more (R270). -/
def State.unwait (s : State) (k : Nat) : State :=
  { s with armed := s.armed.map fun a => { a with waits := a.waits.filter fun w => w.1 != k } }

/-- The group at key k ends: every lane is exited; it counts as arrived at its team's barrier (R99, R107). -/
def State.endGroup (s : State) (k : Nat) : State :=
  let g := s.group k
  if !g.resident || g.ended then s
  else
    let s1 := s.putGroup k { g with exited := allLanes, mask := 0, full := 0, ended := true, waiting := .no
                                    chrysalis := false, preempt := false }
    ((s1.unwait k).barrierCheck g.team g.index).tryFree k

/-- A first fault marks a graph FAULTED (R300, R365). -/
def State.graphFault (s : State) (gk : Nat) (code : Nat) (task : Word) : State :=
  let g := s.graph gk
  if gk = 0 then s
  else match g.fault with
    | some _ => s
    | none => s.putGraph gk { g with fault := some (BitVec.ofNat 8 code, task) }

/-- The end of a team whose group faulted without a handler (R365): every group ends at once, the graph is marked
and the task takes the code, so that no further team of its grid is placed. -/
def State.teamFault (s : State) (tk : Nat) (code : Nat) : State :=
  let t := s.team tk
  let task := s.task t.task
  let s1 := s.graphFault task.graph code task.id
  let s2 := match task.fault with
    | some _ => s1
    | none => s1.putTask t.task { task with fault := some (BitVec.ofNat 8 code, 0) }
  let s3 := { s2 with ready := s2.ready.filter fun p => p.2 != t.task, overflow := s2.overflow.filter fun p => p.task != t.task }
  (s3.teamGroups tk).foldl (fun st p => st.endGroup p.1) s3

end Sys2Proof.Machine
end

