-- ==== Sys2Proof/Machine/Tiles.lean ====
section
/-! DEFINITION. What the operations queued on the matrix engines read and write of the accumulator tiles and of register space, and
what has to wait for them (R28, R29, R31, R51, R277, R280, R281). -/

namespace Sys2Proof.Machine

/-! ### The engine of a pair (R276, R277) -/

/-- The engine of a pair. -/
def State.mxPair (s : State) (p : Nat) : MxPair := Store.get MxPair.empty s.mx p
/-- The engine of a pair replaced. -/
def State.putMx (s : State) (p : Nat) (m : MxPair) : State := { s with mx := Store.set MxPair.empty s.mx p m }
/-- The pair of the issuing group. -/
def State.pairNo (s : State) : Nat := s.g.core / 2

/-! ### Control words of `mx.mma` (R282) -/

/-- The A encoding of a control word. -/
def mmaCanon (ctl : DWord) : Canon :=
  match (ctl.extractLsb' 0 2).toNat with | 0 => .cx | 1 => .c32 | 2 => .c64 | _ => .rns

/-- K of a control word. -/
def mmaK (ctl : DWord) : Nat := (ctl.extractLsb' 8 8).toNat
/-- TILE of a control word. -/
def mmaTile (ctl : DWord) : Nat := (ctl.extractLsb' 16 3).toNat
/-- ACC of a control word. -/
def mmaAcc (ctl : DWord) : Bool := ctl.getLsbD 6

/-- Tile rows that an operation needs of a quarter (R280). -/
def rowsNeeded (c : Canon) (k : Nat) : Nat := if c == .c64 then 2 * k else k

/-! ### Tile places (R281) -/

/-- The 32-bit tile places of a tile. -/
def places (f64 : Bool) (n : Nat) : List Nat := if f64 then [2 * n, 2 * n + 1] else [n]

/-- Places that an operation reads. -/
def MxOp.readPlaces (o : MxOp) : List Nat :=
  match o.work with
  | .mma ctl => if mmaAcc ctl then places (mmaCanon ctl == .c64) o.tile else []
  | .store f64 _ _ _ => places f64 o.tile
  | _ => []

/-- Places that an operation writes. -/
def MxOp.writePlaces (o : MxOp) : List Nat :=
  match o.work with
  | .mma ctl => places (mmaCanon ctl == .c64) o.tile
  | .load f64 => places f64 o.tile
  | .zero => [o.tile]
  | .store _ _ _ _ => []

/-- The tile place that holds an accumulator word. -/
def accPlace (key : Nat) : Nat := key % 131072 / 16384

/-- Bytes of register space that an operation reads in a quarter of B, once its rows begin at byte `b`. -/
def MxOp.quarterBytes (o : MxOp) : Nat := match o.work with | .mma ctl => 128 * rowsNeeded (mmaCanon ctl) (mmaK ctl) | _ => 0

/-! ### Quarters of B (R280) -/

/-- The holder of a quarter as the operation reads it: through the VIEW.A of the issue (R32). -/
def State.quarterGroup (s : State) (q : Quarter) : Group := { s.group q.grp with viewA := q.viewA }

/-- The places of the words in a quarter of `n` bytes. -/
def State.quarterPlaces (s : State) (q : Quarter) (n : Nat) : List RsPlace :=
  (List.range (n / 4)).map fun j => (s.quarterGroup q).place (q.byte + 4 * j)

/-- Does a quarter of `n` bytes hold a word of the group at key k? -/
def State.quarterHolds (s : State) (q : Quarter) (n k : Nat) (p : RsPlace) : Bool :=
  match p.acc with
  | none => q.grp == k && q.byte ≤ p.byte && p.byte < q.byte + n && ((s.quarterGroup q).place p.byte).acc == none
  | some _ => (s.quarterPlaces q n).any fun x => x.acc == p.acc

/-- The tile places in which an operation reads words of its quarters, behind windows of VIEW.A (R31). -/
def State.quarterTiles (s : State) (o : MxOp) : List Nat :=
  o.quarters.flatMap fun q => match q with
    | some q => (s.quarterPlaces q o.quarterBytes).filterMap fun p => p.acc.map accPlace
    | none => []

/-! ### What waits for an operation -/

/-- Does a read of the word have to wait for a matrix operation: one that has not retired and writes its tile (R31)? -/
def State.mxReadWaits (s : State) (core : Nat) (p : RsPlace) : Bool :=
  match p.acc with
  | some a => (s.mxPair (core / 2)).ops.any fun o => o.writePlaces.contains (accPlace a)
  | none => false

/-- Does a write of the word of the group at key k have to wait for a matrix operation: one that has not retired and reads or
writes its tile (R31), or one that has not yet read a quarter of B that holds the word (R51)? -/
def State.mxWriteWaits (s : State) (k : Nat) (p : RsPlace) : Bool :=
  (s.mxPair ((s.group k).core / 2)).ops.any fun o =>
    (match p.acc with | some a => (o.readPlaces ++ o.writePlaces).contains (accPlace a) | none => false)
      || (!o.begun && o.quarters.any fun q => match q with
        | some q => s.quarterHolds q o.quarterBytes k p
        | none => false)

/-- Does an operation have to wait before it reads its quarters: an older one that has not retired writes a tile behind which a word
of a quarter lies (R31, R51)? -/
def State.quarterWaits (s : State) (pair : Nat) (o : MxOp) : Bool :=
  let writers := ((s.mxPair pair).ops.filter fun x => x.begun).flatMap fun x => x.writePlaces
  writers != [] && (s.quarterTiles o).any writers.contains

end Sys2Proof.Machine
end

