-- ==== Sys2Proof/Machine/Names.lean ====
section
/-! DEFINITION. The registers that an instruction names (R67, R85), what a granule of the scoreboard is (R26), and the losses that an
instruction's writes end (R207). -/

namespace Sys2Proof

/-- Scalars that a source names, with those that follow it where an instruction reads several. -/
def Src.scals (x : Src) (n : Nat) : List Nat := match x with | .scal k => (List.range n).map fun j => k.val + j | _ => []
/-- Scalars that a destination names. -/
def Dst.scals (x : Dst) (n : Nat) : List Nat := match x with | .scal k => (List.range n).map fun j => k.val + j | _ => []

/-- The index of a destination or source of special kind. -/
def Src.specialNum : Src → Nat
  | .special n _ => n.toNat | _ => 0

/-- The index of a destination of special kind. -/
def Dst.specialNum : Dst → Nat
  | .special n => n.toNat | _ => 0

/-- Is the register 32 bits wide (R41)? -/
def narrowReg (n : Nat) : Bool := n ≤ 0x04 || (0x06 ≤ n && n ≤ 0x08) || n == 0x0A || n == 0x0B

end Sys2Proof

namespace Sys2Proof.Machine

/-! ### The registers an instruction names -/

/-- How many consecutive scalars the fields D, A, B and C of a Format V opcode stand for (R163, R251, R252, R292, R352, R372). -/
def scalRuns (op : Nat) (fn : BitVec 4) : Nat × Nat × Nat × Nat :=
  match op with
  | 0x60 => (1, 2, 2, 1)                                         -- fdot2
  | 0x73 => (3, 1, 1, 1)                                         -- ballot
  | 0xA8 | 0xA9 => (1, 2, 5, 1)                                  -- tc.ld, tc.st
  | 0xAA => (1, 1, 5, 1)                                         -- tc.ring
  | 0xC4 => (1, 1, 1, 4)                                         -- mx.st
  | 0xE3 => (8, 1, 1, 1)                                         -- awr
  | 0xED => if fn = 0 then (1, 1, 5, 1) else (6, 1, 1, 1)        -- ant
  | 0xEE => if fn = 0 then (2, 1, 1, 1) else (1, 1, 1, 2)        -- insp
  | 0xEF => (1, 1, 2, 1)                                         -- step
  | _ => (1, 1, 1, 1)

/-- Scalars that an instruction reads. -/
def readScals (op : Nat) (f : Form) : List Nat :=
  match f with
  | .v x =>
    let r := scalRuns op x.fn
    x.a.scals r.2.1 ++ x.b.scals r.2.2.1 ++ x.c.scals r.2.2.2 ++ (match x.m with
      | some m => if m.clp then [m.clo.val, m.chi.val] else []
      | none => [])
  | .i x => x.a.scals 1
  | .m x => x.a.scals 1 ++ x.b.scals 1 ++ (if op == 0xA2 then x.d.scals 2 else if op == 0x82 && x.fn == 7 then x.d.scals 1 else [])
  | .b x => x.a.scals 1 ++ (if op == 0x0A then x.d.scals 1 else [])

/-- Scalars that an instruction writes. -/
def writeScals (op : Nat) (f : Form) : List Nat :=
  match f with
  | .v x => x.d.scals (scalRuns op x.fn).1
  | .i x => x.d.scals 1
  | .m x => if op == 0xA2 then [] else x.d.scals 1
  | .b x => x.d.scals 1

/-- Is D, A, B of a Format V opcode a pair where it is a vector register (R27)? A pair goes with a 64-bit type; the exceptions
are those of each instruction's description. -/
def pairFields (op : Nat) (x : VForm) : Bool × Bool × Bool :=
  let w := x.ty.is64
  match op with
  | 0x38 => (true, true, false)                                  -- lea
  | 0x39 => (w, (Ty.ofCode x.fn).is64, false)                    -- icvt
  | 0x3D => (false, x.fn == 2, false)                            -- rns.enc
  | 0x3F => (w, false, false)                                    -- rns.dec
  | 0x40 | 0x42 | 0x43 => (w, (Ty.ofCode x.fn).is64, false)      -- fcvt, f2i, i2f
  | 0x45 => (false, w, false)                                    -- fclass
  | 0x46 => (w, w, false)                                        -- fscale
  | 0x47 => (x.fn == 1 && w, w, false)                           -- fxtr
  | 0x60 => (false, true, true)                                  -- fdot2
  | 0x70 => (w, w, false)                                        -- shfl
  | 0x74 => (false, w, w)                                        -- match
  | 0x75 => (false, w, w)                                        -- isect
  | 0xEA => (!narrowReg x.a.specialNum, w, w)                    -- srd
  | _ => (w, w, w)

/-- Which of the fields D, A, B and C of an opcode and function value may name a vector register (R77): one that may not, and that is
zero, names nothing. -/
def vecFields (op : Nat) (fn : BitVec 4) : Bool × Bool × Bool × Bool :=
  match rowOf op fn.toNat with
  | some r => (r.d.v, r.a.v, r.b.v, r.c.v)
  | none => (false, false, false, false)

/-- Some operands, of a field that may name them. -/
def named (b : Bool) (l : List VecOp) : List VecOp := if b then l else []

/-- Vector operands that an instruction reads. -/
def readVecs (op : Nat) (f : Form) : List VecOp :=
  match f with
  | .v x =>
    let w := pairFields op x
    let u := vecFields op x.fn
    named u.2.1 (x.a.vecOp w.2.1) ++ named u.2.2.1 (x.b.vecOp w.2.2) ++ named u.2.2.2 (x.c.vecOp (op != 0x60 && x.ty.is64))
  | .i _ | .b _ => []
  | .m x =>
    let u := vecFields op x.fn
    named u.2.1 (x.a.vecOp true) ++ named u.2.2.1 (x.b.vecOp (op != 0x84 && x.ty.is64))
      ++ (if op == 0x82 && x.fn == 7 then x.d.vecOp x.ty.is64 else [])

/-- Vector operands that an instruction writes. -/
def writeVecs (op : Nat) (f : Form) : List VecOp :=
  match f with
  | .v x => named (vecFields op x.fn).1 (x.d.vecOp (pairFields op x).1)
  | .i x => x.d.vecOp x.ty.is64
  | .m x => named (vecFields op x.fn).1 (x.d.vecOp (op == 0x88 || (op != 0x85 && x.ty.is64)))
  | .b _ => []

/-- The register range of a field: first register and count, (0, 0) for a field that names none. -/
def rangeOf (x : Src) : Nat × Nat :=
  match x with
  | .special n low => (n.toNat, low.toNat % 256)
  | _ => (0, 0)

/-- The three ranges of `rgn`. -/
def rgnRanges (f : VForm) : List (Nat × Nat) := [rangeOf f.a, rangeOf f.b, rangeOf f.c]

/-- Do the ranges of a `rgn` lie in the group's view (R323)? -/
def Group.rangesOk (g : Group) (f : VForm) : Bool := (rgnRanges f).all fun r => r.2 == 0 || r.1 + r.2 ≤ g.vCount

/-- Is the register one of the trap registers, which user mode may not name (R41)? -/
def trapReg (n : Nat) : Bool := 0x18 ≤ n && n ≤ 0x1F

/-- Bytes of the words of a vector operand in lane j. -/
def Group.laneBytes (g : Group) (o : VecOp) (j : Nat) : List Nat :=
  g.vByte o.n j :: (if o.wide then [g.vByte (o.n + 1) j] else [])

/-- Bytes of every word of the registers of some vector operands. -/
def Group.opBytes (g : Group) (l : List VecOp) : List Nat := l.flatMap fun o => (List.range 96).flatMap (g.laneBytes o)

/-- The granule of the scoreboard that holds a byte of register space (R26). -/
def granule (b : Nat) : Nat := b / 384

/-- Granules of the registers of some vector operands, through the views as they are. -/
def Group.granules (g : Group) (l : List VecOp) : List Nat :=
  (l.flatMap fun o => (o.n :: (if o.wide then [o.n + 1] else [])).flatMap fun n =>
    [granule (g.vByte n 0), granule (g.vByte n 0 + 383)]).eraseDups

/-- Do two lists share an element? -/
def shares (a b : List Nat) : Bool := a.any fun x => b.contains x

/-- Does an instruction that reads and writes these vector operands of the issuing group wait for a matrix operation (R31, R51)? -/
def State.mxStall (s : State) (rd wr : List VecOp) : Bool :=
  if (s.mxPair s.pairNo).ops == [] then false
  else ((s.g.opBytes rd).any fun b => s.mxReadWaits s.g.core (s.g.place b))
    || (s.g.opBytes wr).any fun b => s.mxWriteWaits s.cur (s.g.place b)

/-! ### Losses -/

/-- Losses of read paths whose registers have all been written again are over (R207). -/
def pathsOver (l : List Loss) : List Loss :=
  l.filter fun x => match x.reg with
    | .path .ldg | .path .spl => l.any fun y => y.faddr == x.faddr && (match y.reg with | .path _ => false | _ => true)
    | _ => true

/-- The lanes in which an instruction writes its vector destination: `cmpct` fills the lanes from 0 on (R185). -/
def Group.writtenLanes (g : Group) (op : Nat) (f : Form) : List Nat :=
  let e := lanesOf (g.execLanes f.guard)
  if op == 0x76 then List.range e.length else e

/-- Places of the words that an instruction writes. -/
def Group.writePlaces (g : Group) (op : Nat) (f : Form) : List RsPlace :=
  ((writeVecs op f).flatMap fun o => (g.writtenLanes op f).flatMap (g.laneBytes o)).map g.place

/-- The losses that remain after an instruction has written its destination. -/
def lostAfter (g : Group) (i : Instr) : List Loss :=
  if g.lost == [] then []
  else match i.view with
  | none => g.lost
  | some (op, f) =>
    let w := g.writePlaces op f
    pathsOver (g.lost.filter fun l => match l.reg with
      | .scal n => !(writeScals op f).contains n
      | .word p => !w.any p.same
      | .pred _ | .join | .path _ => true)

end Sys2Proof.Machine
end

