-- ==== Sys2Proof/Machine/Ops.lean ====
section
/-! DEFINITION. Taking an exception and returning from one (R365 to R370, R391), the antennae (R375 to R377),
and the one form in which every instruction ends: it retires, waits, traps or stops the model. -/

namespace Sys2Proof.Machine

/-! ### Counters of the management window -/

/-- Number of the counter of traps of a code on a core (R392). -/
def ctrTrap (core code : Nat) : Nat := 0x100_0000 + core * 64 + code
/-- Number of the counter of double faults of a core. -/
def ctrDouble (core : Nat) : Nat := 0x200_0000 + core
/-- Number of the counter of steps of a core. -/
def ctrStep (core : Nat) : Nat := 0x203_0000 + core
/-- Number of the counter of dumps of a core. -/
def ctrDump (core : Nat) : Nat := 0x204_0000 + core

/-! ### Taking an exception -/

/-- CAUSE at trap entry (R365, R366), with LOCK set. -/
def causeWord (t : TrapInfo) (pmode : Bool) : DWord :=
  0#53 ++ BitVec.ofBool t.async ++ BitVec.ofBool t.ilen ++ 1#1 ++ BitVec.ofBool pmode
    ++ BitVec.ofBool (t.code == .swTrap) ++ BitVec.ofNat 6 t.code.num

/-- CAUSE.LOCK. -/
def Group.locked (g : Group) : Bool := g.cause.getLsbD 8

/-- The trap registers of a group that takes a trap (R365). -/
def Group.trapRegs (g : Group) (t : TrapInfo) : Group :=
  { g with cause := causeWord t g.mode, epc := g.pc, ema := lanePart g.mask 0, emb := lanePart g.mask 1
           emc := lanePart g.mask 2, faddr := t.faddr, finfo := t.finfo }

/-- The group that has entered its handler (R365): its trap registers, the trap mask, supervisor mode, PC at
TRAPBASE. -/
def Group.entered (g : Group) (t : TrapInfo) : Group :=
  { g.trapRegs t with
    mask := t.mask, full := t.mask, mode := true, pc := g.trapBase, inHandler := true, stall := 0, restWait := false
    ownWait := false }

/-- The fault record of a trap of the group at key k (R386). -/
def State.faultRecord (s : State) (k : Nat) (t : TrapInfo) (double : Bool) : State :=
  let g := s.group k
  s.emit g.engine 0x0A (some g.asid)
    (faultPayload t.code.num t.mask g.gField g.pc t.finfo double false (t.async && !double))

/-- Trap entry of the group at key k (R365): a double fault under LOCK ends the group (R369); without a handler its
team ends; else the handler is entered. -/
def State.enterTrap (s : State) (k : Nat) (t : TrapInfo) : State :=
  let g := s.group k
  if g.locked then
    let s1 := (s.faultRecord k t true).bump (ctrDouble g.core)
    (s1.putGroup k { s1.group k with doubled := true }).endGroup k
  else if g.trapBase = 0 then ((s.faultRecord k t false).bump (ctrTrap g.core t.code.num)).teamFault g.team t.code.num
  else ((s.faultRecord k t false).bump (ctrTrap g.core t.code.num)).putGroup k (g.entered t)

/-- Is the fault code set in the dump mask of the group's context (R391)? -/
def State.dumps (s : State) (g : Group) (t : TrapInfo) : Bool := (s.ctx g.asid).dump.getLsbD t.code.num

/-- A fault delivered to the group at key k: the dump of R391 comes first where its context asks for one, and trap
entry follows when the dump is complete. -/
def State.takeTrap (s : State) (k : Nat) (t : TrapInfo) : State :=
  let g := s.group k
  if s.dumps g t then s.putGroup k { g with waiting := .dump, dumpTrap := some t, stall := 24 }
  else s.enterTrap k t

/-- FINFO in the generic layout (R366). -/
def genericFinfo (detail : BitVec 8) (op : Nat) (fn : BitVec 4) (lanes : Lanes) : DWord :=
  0#37 ++ laneField lanes ++ fn ++ BitVec.ofNat 8 op ++ detail

/-- FINFO of a stop of an instruction. -/
def Info.finfo (i : Info) (op : Nat) (fn : BitVec 4) (lanes : Lanes) : DWord :=
  match i with
  | .generic d => genericFinfo d op fn lanes
  | .raw v => v

/-! ### Return from an exception -/

/-- EMA, EMB and EMC as a lane set. -/
def Group.savedMask (g : Group) : Lanes := setLanePart (setLanePart (setLanePart 0 0 g.ema) 1 g.emb) 2 g.emc

/-- `rfe` (R370): the mask is restored without exited and held lanes, the mode returns and LOCK clears. -/
def Group.returned (g : Group) : Group :=
  { g.restoreMask g.savedMask with mode := g.cause.getLsbD 7, cause := g.cause &&& ~~~(0x100 : DWord), inHandler := false }

/-- Where `rfe` continues (R370). -/
def Group.returnPc (g : Group) : DWord :=
  if g.cause.getLsbD 6 then g.epc + (if g.cause.getLsbD 9 then 24 else 12) else g.epc

/-! ### How an instruction ends -/

/-- The group retires its instruction: it counts in user mode (R43) and continues at `pc`. -/
def Group.retire (g : Group) (user : Bool) (pc : DWord) : Group :=
  { g with pc := pc, retired := if user then g.retired + 1 else g.retired
           stall := BitVec.ofNat 5 g.waiting.reason, passed := 0, restWait := false, ownWait := false }

/-- DIX advances in user mode (R44). -/
def Group.advDix (g : Group) : Group := if g.mode then g else { g with dix := g.dix + 1 }

/-- The common end of an instruction that completes: retirement, the antennae, the held lanes. `s0` is the state in
which it was issued. -/
def State.complete (s0 s : State) (ex : Lanes) (o : Obs) (pc : DWord) : State :=
  ((s.setG (s.g.retire (!s0.g.mode) pc)).antennae s0.cur o ex s0.g.pc s0.g.mode false).heldCheck s0.cur

/-- The wait of an instruction: the group keeps its pc and shows the stall reason (R86). The schedule sees to its place in the
active set (R82). -/
def State.stallWith (s : State) (reason : Nat) : State := s.setG { s.g with stall := BitVec.ofNat 5 reason }

/-- Opcode, function and length of an instruction for FINFO and CAUSE; an unassigned word shows its own bits. -/
def instrHead (i : Instr) : Nat × BitVec 4 × Nat :=
  match i with
  | .unassignedOpcode w => (wordOp w, w.extractLsb' 84 4, wordLen w)
  | _ => match i.view with
    | some (op, f) => (op, f.fn, i.len)
    | none => (0, 0, 12)

/-- The lanes with exec(i) of an instruction (R55, R68). -/
def State.execOf (s : State) (i : Instr) : Lanes :=
  match i.view with
  | some (_, f) => s.g.execLanes f.guard
  | none => s.g.mask

/-- An error of a write or of a fabric command is reported once: at the wait on its path, or at the `cl.ck` of its
collective (R207, R339, R354). -/
def State.reported (s : State) (code : FCode) (faddr : DWord) (info : Info) : State :=
  match info with
  | .raw v =>
    let g := s.g
    let t := if g.lost == [] then s else s.setG { g with lost := g.lost.filter fun l =>
      !((l.reg == .path .stg || l.reg == .path .fab) && l.code == code && l.faddr == faddr && l.finfo == v) }
    { t with colls := t.colls.map fun c => if c.status == 3 && c.code == some code && c.finfo == v then { c with told := true } else c }
  | .generic _ => s

/-- The trap of an instruction of the issuing group (R66, R365). -/
def State.raise (s : State) (i : Instr) (code : FCode) (faddr : DWord) (info : Info) (lanes : Lanes) : State :=
  let h := instrHead i
  (s.reported code faddr info).takeTrap s.cur
    { code := code, faddr := faddr, finfo := info.finfo h.1 h.2.1 lanes, mask := lanes, async := false, ilen := h.2.2 == 24 }

/-- The non-idempotent instructions (R75), after which pre-emption waits for the checkpoint of the following `rgn`; `mx.st`
is one only with its barrier count and says so itself. -/
def nonIdempotent (i : Instr) : Bool :=
  match i with
  | .atom _ | .red _ | .stsig _ | .abArrive _ | .tcLd _ | .tcSt _ | .tcRingFill _ | .tcRingDrain _ | .tcStop _ | .mxMma _
  | .clGo _ | .clCk _ | .clAbort _ | .clTpl _ | .launch _ | .tcbd _ | .qpush _ | .evt _ | .cdmp _ => true
  | _ => false

/-- Does the guard of an instruction let it act (R56)? -/
def State.actsOn (s : State) (i : Instr) : Bool :=
  match i.view with
  | some (_, f) => s.g.groupExec f.guard
  | none => false

/-- The issuing group's pre-emption is deferred after a non-idempotent instruction (R75, R317). -/
def State.deferAfter (s0 s : State) (i : Instr) : State :=
  if nonIdempotent i && s0.actsOn i then s.setG { s.g with deferred := true } else s

/-- The registers that an instruction has written are no longer lost (R207). -/
def State.rewritten (s : State) (i : Instr) : State :=
  if s.g.lost == [] then s else s.setG { s.g with lost := lostAfter s.g i }

/-- How an instruction ends, from the result of its body: the outcome of `exec`. -/
def State.finish (s : State) (i : Instr) (r : Body) : Host.Outcome State Fault Refusal :=
  match r with
  | .ok (.go t o) => .next (s.complete (s.deferAfter (t.rewritten i) i) (s.execOf i) o (s.g.pc + BitVec.ofNat 64 i.len))
  | .ok (.to t pc o) => .next (s.complete (s.deferAfter (t.rewritten i) i) (s.execOf i) o pc)
  | .ok (.wait t reason) => .next (t.stallWith reason)
  | .ok (.held t) => .next (s.deferAfter t i)
  | .error (.trap code faddr info lanes) => .next (s.raise i code faddr info lanes)
  | .error (.fault f) => .fault f

/-- The wait of an access for a reason of `lanesWait`. One that meets an owned line (`owned`) is counted once, on the die of its core
(R243; the manual names no die: DESIGN CHOICE, log entry 101), and is performed against the new contents (R234). -/
def State.waitOn (s : State) (r : Nat) (owned : Bool := r == 17) : Body :=
  .ok (.wait (if owned && !s.g.ownWait then (s.bump (ctrOwned (s.g.core / 64))).setG { s.g with ownWait := true } else s) r)

end Sys2Proof.Machine
end

