-- ==== Sys2Proof/Machine/Operands.lean ====
section
/-! DEFINITION. Every operand form: sources (R59, R60, R68, R69), destinations (R58, R68), immediates (R59,
R61), offsets (R62), and the frame of a per-lane instruction (R67). -/

namespace Sys2Proof

/-- A binary32 value as the binary64 of the same value (R59); the payload of a NaN moves with it. -/
def f32ToF64 (b : BitVec 32) : BitVec 64 :=
  let sign := b.extractLsb' 31 1
  let e := (b.extractLsb' 23 8).toNat
  let frac := b.extractLsb' 0 23
  if e = 255 then sign ++ 0x7FF#11 ++ frac ++ 0#29
  else if e = 0 then
    if frac = 0 then sign ++ 0#63
    else
      let k := Nat.log2 frac.toNat      -- 0 to 22
      let m := frac.toNat * 2 ^ (52 - k) - 2 ^ 52
      sign ++ BitVec.ofNat 11 (1023 - 149 + k) ++ BitVec.ofNat 52 m
  else sign ++ BitVec.ofNat 11 (e + 896) ++ frac ++ 0#29

/-- Width in bits of a value of a type, apart from its container (R54). -/
def Ty.width : Ty → Nat
  | .i8 | .n8 | .f8e4 | .f8e5 => 8
  | .i16 | .n16 | .f16 | .bf16 => 16
  | .i64 | .n64 | .f64 => 64
  | .f4 => 4
  | _ => 32

/-- Size in memory in bytes of a value of a type (R212). -/
def Ty.size : Ty → Nat
  | .i8 | .n8 | .f8e4 | .f8e5 | .f4 => 1
  | .i16 | .n16 | .f16 | .bf16 => 2
  | .i64 | .n64 | .f64 => 8
  | _ => 4

/-- The signed integer types. -/
def Ty.signed : Ty → Bool
  | .i8 | .i16 | .i32 | .i64 => true | _ => false

/-- The integer that a container holds in an integer type (R69). -/
def Ty.toInt (t : Ty) (v : DWord) : Int :=
  match t with
  | .i8 => (v.setWidth 8).toInt | .i16 => (v.setWidth 16).toInt | .i32 => (v.setWidth 32).toInt | .i64 => v.toInt
  | .n8 => (v.setWidth 8).toNat | .n16 => (v.setWidth 16).toNat | .n64 => v.toNat
  | _ => (v.setWidth 32).toNat

/-- An integer wrapped to a type and put in its container: a narrow value is sign- or zero-extended to 32 bits,
a 32-bit one fills the low half (R69). -/
def Ty.ofInt (t : Ty) (x : Int) : DWord :=
  match t with
  | .i8 => ((BitVec.ofInt 8 x).signExtend 32).setWidth 64 | .i16 => ((BitVec.ofInt 16 x).signExtend 32).setWidth 64
  | .n8 => (BitVec.ofInt 8 x).setWidth 64 | .n16 => (BitVec.ofInt 16 x).setWidth 64
  | .i64 | .n64 => BitVec.ofInt 64 x
  | _ => (BitVec.ofInt 32 x).setWidth 64

/-- A result widened to a 64-bit scalar: sign or zero extension for integers, zeros for floats (R69). -/
def Ty.widen (t : Ty) (v : DWord) : DWord :=
  match t with
  | .i8 | .i16 | .i32 => (v.setWidth 32).signExtend 64
  | .i64 | .n64 | .f64 => v
  | _ => (v.setWidth 32).setWidth 64

/-- The immediate of kind 10 as an operand of a type (R59). DESIGN CHOICE: it is sign-extended to the container, of which an operand of 8
or 16 bits is the low bits, and which an `rns` operand is as a whole, so that a negative one is invalid (log entry 96). -/
def immValue (t : Ty) (v : BitVec 18) : DWord :=
  if t.isFlt then
    let b : BitVec 32 := v ++ 0#14
    if t == .f64 then f32ToF64 b else b.setWidth 64
  else if t.is64 then v.signExtend 64
  else (v.signExtend 32).setWidth 64

/-- The predicate that a destination names. -/
def Dst.predNum : Dst → Nat
  | .pred n => n.val | _ => 0

/-- The register of a vector destination. -/
def Dst.vecNum : Dst → Nat
  | .vec n => n.toNat | _ => 0

/-- The register of a vector source. -/
def Src.vecNum : Src → Nat
  | .vec n _ => n.toNat | _ => 0

/-- The vector operands of an instruction with one source, all of type `t`. -/
def VForm.ops1 (f : VForm) (t : Ty) : List VecOp := f.d.vecOp t.is64 ++ f.a.vecOp t.is64
/-- The vector operands of an instruction with two sources, all of type `t`. -/
def VForm.ops2 (f : VForm) (t : Ty) : List VecOp := f.ops1 t ++ f.b.vecOp t.is64
/-- The vector operands of an instruction with three sources, all of type `t`. -/
def VForm.ops3 (f : VForm) (t : Ty) : List VecOp := f.ops2 t ++ f.c.vecOp t.is64

/-- Is it a scalar destination? -/
def Dst.isScal : Dst → Bool
  | .scal _ => true | _ => false

/-- Is it a predicate destination? -/
def Dst.isPred : Dst → Bool
  | .pred _ => true | _ => false

end Sys2Proof

namespace Sys2Proof.Machine

/-- rd_src of R68 for lane i, before ABS and NEG: the container read as a type, with its tail. A 32-bit type
leaves bits [63:32] zero. -/
def State.rdSrc (s : State) (t : Ty) (x : Src) (i : Nat) : TVal :=
  match x with
  | .vec n p => match p.lane i with
    | some j => s.vval n.toNat t.is64 j
    | none => TVal.zero
  | .scal n => if t.is64 then s.g.sreg n.val else ⟨((s.g.sval n.val).setWidth 32).setWidth 64, (s.g.sreg n.val).tail⟩
  | .imm v => ⟨immValue t v, 0⟩
  | .special _ _ => TVal.zero

/-- A source moved: the value in its type, its tail kept (R69, R121). DESIGN CHOICE: an `rns` container is moved as the 32 bits that it
is, without the check of R124, of which the manual does not say whether it applies to a move (log entry 93). -/
def State.moved (s : State) (t : Ty) (x : Src) (i : Nat) : TVal :=
  let v := s.rdSrc t x i
  if t.isInt then ⟨t.ofInt (t.toInt v.val), v.tail⟩ else v

/-- wr_dst of R68 for a vector destination in every lane of a set, or for a scalar destination under the group
rule; `op` gives the value for a lane, lane 96 standing for the scalar unit. Every source is read in the old state. -/
def State.wrDst (s : State) (gd : Guard) (t : Ty) (d : Dst) (op : Nat → TVal) : State :=
  match d with
  | .vec n => s.setLanes n.toNat t.is64 ((lanesOf (s.g.execLanes gd)).map fun i => (i, op i))
  | .scal n => if s.g.groupExec gd then s.setS n.val ⟨t.widen (op 96).val, (op 96).tail⟩ else s
  | _ => s

/-- The lanes in which a per-lane instruction computes: its executing lanes, or lane 96 alone when it runs once
on the scalar unit and the group rule lets it (R33, R56). -/
def State.computeLanes (s : State) (gd : Guard) (d : Dst) : List Nat :=
  if d.isScal then (if s.g.groupExec gd then [96] else []) else lanesOf (s.g.execLanes gd)

/-- The lanes of a fault that a per-lane instruction finds in some of its lanes (R66); of one that runs once, its
executing lanes (log entry 15). -/
def State.failing (s : State) (gd : Guard) (d : Dst) (bad : Nat → Bool) : Option Lanes :=
  if d.isScal then (if s.g.groupExec gd && bad 96 then some (s.g.execLanes gd) else none)
  else
    let m := laneSet fun i => (s.g.execLanes gd).getLsbD i && bad i
    if m = 0 then none else some m

/-- A fault of the lanes, if there are any. -/
def faultIf (l : Option Lanes) (e : Lanes → Stop) : Except Stop Unit :=
  match l with
  | some m => .error (e m)
  | none => .ok ()

/-- A 40-bit displacement as a 64-bit addend (R63). -/
def dispOf (f : BForm) : DWord := f.disp.signExtend 64

/-- The offset of Format M (R62). -/
def offsetOf (f : MForm) : DWord :=
  match f.m with
  | some m => (m.ext.extractLsb' 0 32 ++ f.off).signExtend 64
  | none => f.off.signExtend 64

/-- The effective address of lane i of Format M (R62). -/
def State.ea (s : State) (f : MForm) (i : Nat) : DWord :=
  (match f.a with
   | .vec n p => match p.lane i with
     | some j => (s.vval n.toNat true j).val
     | none => 0
   | .scal n => s.g.sval n.val
   | _ => 0) + offsetOf f

/-- The lowest lane of a set, lane 0 for an empty one: the lane whose stack a scalar address reaches (log
entry 14). -/
def firstLane (m : Lanes) : Nat := (lowestLane m).getD 0

/-- An unsigned 32-bit operand, "read as n32". -/
def State.n32 (s : State) (x : Src) : Nat := ((s.rdSrc .n32 x 96).val.setWidth 32).toNat

/-- A 64-bit scalar or immediate operand. -/
def State.s64 (s : State) (x : Src) : DWord := (s.rdSrc .n64 x 96).val

end Sys2Proof.Machine
end

