-- ==== Sys2Proof/Machine/Real.lean ====
section
/-! DEFINITION. Exact numbers, the float formats, formation, rounding and settling (R68, R130 to R141). -/

namespace Sys2Proof

/-! ### Formats (R130) -/

/-- Precision in significand bits. -/
def Ty.prec : Ty → Nat
  | .f64 => 53 | .f32 => 24 | .f16 => 11 | .bf16 => 8 | .f8e4 => 4 | .f8e5 => 3 | _ => 2

/-- Minimum normal exponent. -/
def Ty.emin : Ty → Int
  | .f64 => -1022 | .f32 => -126 | .f16 => -14 | .bf16 => -126 | .f8e4 => -6 | .f8e5 => -14 | _ => 0

/-- The largest finite magnitude as an integer and a power of two. -/
def Ty.max : Ty → Nat × Int
  | .f64 => (2 ^ 53 - 1, 971) | .f32 => (2 ^ 24 - 1, 104) | .f16 => (2047, 5) | .bf16 => (255, 120)
  | .f8e4 => (14, 5) | .f8e5 => (7, 13) | _ => (3, 1)

/-- Types whose final encoding has no infinity (R138). -/
def Ty.noInf (t : Ty) : Bool := t == .f8e4 || t == .f4

end Sys2Proof

namespace Sys2Proof.Machine

/-! ### Exact numbers -/

/-- A number: sign, magnitude m·2^e, and a sticky bit for a magnitude strictly between m·2^e and (m + 1)·2^e. A
sticky number has m > 0 and e below every grid it is rounded to. -/
structure FNum where
  neg : Bool
  m   : Nat
  e   : Int
  st  : Bool := false
deriving DecidableEq, Repr

/-- A float value: NaN (signalling or not), infinity, or a number. -/
inductive FVal where
  | nan (sig : Bool)
  | inf (neg : Bool)
  | num (x : FNum)
deriving DecidableEq, Repr

/-- 2^k for a non-negative k. -/
def pow2 (k : Int) : Nat := 2 ^ k.toNat

/-- ⌊|x| / 2^g⌋ and whether anything is left over. -/
def FNum.at (x : FNum) (g : Int) : Nat × Bool :=
  if g ≤ x.e then (x.m * pow2 (x.e - g), x.st)
  else (x.m / pow2 (g - x.e), x.m % pow2 (g - x.e) != 0 || x.st)

/-- Is the number zero? -/
def FNum.isZero (x : FNum) : Bool := x.m == 0 && !x.st

/-- ⌊log2 |x|⌋ of a non-zero number. -/
def FNum.log (x : FNum) : Int := x.e + (Nat.log2 x.m : Nat)

/-- Weight of the last significand bit of a type at a number: exponent of q (R68). -/
def FNum.quantum (x : FNum) (t : Ty) : Int :=
  let e := if x.m = 0 then t.emin else max x.log t.emin
  e - t.prec + 1

/-- The same with unbounded exponent range, for tininess. -/
def FNum.freeQuantum (x : FNum) (t : Ty) : Int := (if x.m = 0 then t.emin else x.log) - t.prec + 1

/-- The magnitude rounded to a multiple of 2^g by a deterministic mode (0 RNE, 1 RTZ, 2 RUP, 3 RDN, 4 RNA). -/
def FNum.roundAt (x : FNum) (mode : Nat) (g : Int) : Nat :=
  let f := x.at g
  let h := x.at (g - 1)
  let half := h.1 % 2 == 1
  let up := match mode with
    | 0 => half && (h.2 || f.1 % 2 == 1)
    | 2 => !x.neg && f.2
    | 3 => x.neg && f.2
    | 4 => half
    | _ => false
  if up then f.1 + 1 else f.1

/-- Is m·2^e above the largest finite magnitude of a type? -/
def aboveMax (t : Ty) (m : Nat) (e : Int) : Bool :=
  let k := min e t.max.2
  t.max.1 * pow2 (t.max.2 - k) < m * pow2 (e - k)

/-- Is m·2^e below 2^emin? -/
def belowMin (t : Ty) (m : Nat) (e : Int) : Bool :=
  let k := min e t.emin
  m * pow2 (e - k) < pow2 (t.emin - k)

/-- Comparison of magnitudes: a < b, equal, or a > b; a sticky bit lies above. -/
def cmpMag (a b : FNum) : Ordering :=
  let k := min a.e b.e
  let x := a.m * pow2 (a.e - k)
  let y := b.m * pow2 (b.e - k)
  if x < y then .lt else if y < x then .gt
  else if a.st == b.st then .eq else if b.st then .lt else .gt

/-- Comparison of two numbers by value; zeros are equal. -/
def cmpNum (a b : FNum) : Ordering :=
  if a.isZero && b.isZero then .eq
  else if a.isZero then (if b.neg then .gt else .lt)
  else if b.isZero then (if a.neg then .lt else .gt)
  else match a.neg, b.neg with
    | false, true => .gt
    | true, false => .lt
    | false, false => cmpMag a b
    | true, true => cmpMag b a

/-- Comparison of two values that are not NaN. -/
def cmpVal (a b : FVal) : Ordering :=
  match a, b with
  | .inf na, .inf nb => if na == nb then .eq else if na then .lt else .gt
  | .inf na, _ => if na then .lt else .gt
  | _, .inf nb => if nb then .gt else .lt
  | .num x, .num y => cmpNum x y
  | _, _ => .eq

/-- The sign of a value. -/
def FVal.neg : FVal → Bool
  | .nan _ => false | .inf n => n | .num x => x.neg

/-- The value with another sign. -/
def FVal.withSign (v : FVal) (n : Bool) : FVal :=
  match v with | .nan b => .nan b | .inf _ => .inf n | .num x => .num { x with neg := n }

/-- Is it a NaN? -/
def FVal.isNan : FVal → Bool
  | .nan _ => true | _ => false

/-- Is it a signalling NaN? -/
def FVal.isSig : FVal → Bool
  | .nan b => b | _ => false

/-- Is it a zero? -/
def FVal.isZero : FVal → Bool
  | .num x => x.isZero | _ => false

/-- Is it infinite? -/
def FVal.isInf : FVal → Bool
  | .inf _ => true | _ => false

/-- Multiplied by 2^k. -/
def FVal.scale (v : FVal) (k : Int) : FVal :=
  match v with | .num x => .num { x with e := x.e + k } | v => v

/-! ### Bit patterns -/

/-- A pattern with `ew` exponent bits and `fw` fraction bits read as IEEE 754 encodes it (R130). -/
def ieeeDecode (ew fw : Nat) (v : Nat) : FVal :=
  let neg := v / 2 ^ (ew + fw) % 2 == 1
  let ex := v / 2 ^ fw % 2 ^ ew
  let fr := v % 2 ^ fw
  let bias : Int := (2 ^ (ew - 1) - 1 : Nat)
  if ex = 2 ^ ew - 1 then (if fr = 0 then .inf neg else .nan (fr < 2 ^ (fw - 1)))
  else if ex = 0 then .num ⟨neg, fr, 1 - bias - (fw : Nat), false⟩
  else .num ⟨neg, 2 ^ fw + fr, (ex : Int) - bias - (fw : Nat), false⟩

/-- The pattern of a representable number m·2^e. -/
def ieeeEncode (ew fw : Nat) (neg : Bool) (m : Nat) (e : Int) : Nat :=
  let sign := if neg then 2 ^ (ew + fw) else 0
  let bias : Int := (2 ^ (ew - 1) - 1 : Nat)
  if m = 0 then sign
  else
    let k : Int := e + (Nat.log2 m : Nat)
    if k < 1 - bias then sign + m * pow2 (e - (1 - bias - (fw : Nat))) / pow2 ((1 - bias - (fw : Nat)) - e)
    else
      let fr := if Nat.log2 m ≤ fw then m * 2 ^ (fw - Nat.log2 m) else m / 2 ^ (Nat.log2 m - fw)
      sign + (k + bias).toNat * 2 ^ fw + (fr - 2 ^ fw)

/-- A register value of a float type: binary64 for f64, else the binary32 carrier (R133). A NaN carrier word signals as
its word does, whatever the type: R131 calls the NaNs of f8e4 and f8e5 quiet as encodings, and R138 lists a signalling
operand for f8e4. DEDUCED; unsafe (log entry 31). -/
def readFloat (t : Ty) (v : DWord) : FVal :=
  if t == .f64 then ieeeDecode 11 52 v.toNat
  else ieeeDecode 8 23 (v.toNat % 2 ^ 32)

/-- The canonical NaN in a register (R131). -/
def nanBits (t : Ty) : DWord := if t == .f64 then 0x7FF8000000000000 else 0x7FC00000

/-- An infinity in a register. -/
def infBits (t : Ty) (neg : Bool) : DWord :=
  BitVec.ofNat 64 (if t == .f64 then (if neg then 0xFFF else 0x7FF) * 2 ^ 52 else (if neg then 0x1FF else 0xFF) * 2 ^ 23)

/-- A representable finite number in a register. -/
def numBits (t : Ty) (neg : Bool) (m : Nat) (e : Int) : DWord :=
  BitVec.ofNat 64 (if t == .f64 then ieeeEncode 11 52 neg m e else ieeeEncode 8 23 neg m e)

/-- A representable value in a register. -/
def valBits (t : Ty) (v : FVal) : DWord :=
  match v with | .nan _ => nanBits t | .inf n => infBits t n | .num x => numBits t x.neg x.m x.e

/-- The largest finite magnitude in a register, with a sign. -/
def maxBits (t : Ty) (neg : Bool) : DWord := numBits t neg t.max.1 t.max.2

/-! ### Memory encodings of the narrow types (R130, R131) -/

/-- The value that a memory encoding holds; a NaN code is the canonical NaN. -/
def decodeMem (t : Ty) (v : Nat) : FVal :=
  match t with
  | .f64 => ieeeDecode 11 52 v
  | .f32 => ieeeDecode 8 23 v
  | .f16 => ieeeDecode 5 10 v
  | .bf16 => ieeeDecode 8 7 v
  | .f8e5 => match ieeeDecode 5 2 v with | .nan _ => .nan false | x => x
  | .f8e4 =>
    let neg := v / 128 % 2 == 1
    let ex := v / 8 % 16
    let fr := v % 8
    if ex = 15 ∧ fr = 7 then .nan false
    else if ex = 0 then .num ⟨neg, fr, -9, false⟩ else .num ⟨neg, 8 + fr, (ex : Int) - 10, false⟩
  | _ =>
    let neg := v / 8 % 2 == 1
    let ex := v / 2 % 4
    let fr := v % 2
    if ex = 0 then .num ⟨neg, fr, -1, false⟩ else .num ⟨neg, 2 + fr, (ex : Int) - 2, false⟩

/-- The encoding of a value that is final in its type (R130, R131): the replacements of R138 have been made, so f8e4
and f4 hold no infinity and f4 no NaN. -/
def encodeMem (t : Ty) (v : FVal) : Nat :=
  match t, v with
  | .f64, v => (valBits .f64 v).toNat
  | .f32, v => (valBits .f32 v).toNat
  | .f16, .nan _ => 0x7E00
  | .f16, .inf n => if n then 0xFC00 else 0x7C00
  | .f16, .num x => ieeeEncode 5 10 x.neg x.m x.e
  | .bf16, .nan _ => 0x7FC0
  | .bf16, .inf n => if n then 0xFF80 else 0x7F80
  | .bf16, .num x => ieeeEncode 8 7 x.neg x.m x.e
  | .f8e5, .nan _ => 0x7E
  | .f8e5, .inf n => if n then 0xFC else 0x7C
  | .f8e5, .num x => ieeeEncode 5 2 x.neg x.m x.e
  | .f8e4, .num x => ieeeEncode 4 3 x.neg x.m x.e
  | .f8e4, _ => 0x7F
  | _, .num x => ieeeEncode 2 1 x.neg x.m x.e
  | _, _ => 0

/-! ### Flags -/

/-- A set of flags: NV [4], DZ [3], OF [2], UF [1], NX [0] (R38, R142). -/
abbrev Flags := BitVec 5

/-- Invalid. -/
def fNV : Flags := 0b10000
/-- Division by zero. -/
def fDZ : Flags := 0b01000
/-- Overflow. -/
def fOF : Flags := 0b00100
/-- Underflow. -/
def fUF : Flags := 0b00010
/-- Inexact. -/
def fNX : Flags := 0b00001

/-- The flag when the condition holds. -/
def flagIf (b : Bool) (f : Flags) : Flags := if b then f else 0

/-- NV for a signalling NaN. -/
def sigFlag (v : FVal) : Flags := flagIf v.isSig fNV

/-! ### Rounding to a type (R138) -/

/-- A result in a type with the flags of its rounding. -/
structure Rounded where
  v : FVal
  f : Flags
deriving DecidableEq, Repr

/-- Does a deterministic mode deliver an infinity for an overflow of this sign? -/
def overflowsToInf (mode : Nat) (neg : Bool) : Bool :=
  match mode with | 0 => true | 4 => true | 2 => !neg | 3 => neg | _ => false

/-- Is the number tiny after rounding by the mode with unbounded exponent (R140)? STO counts as toward zero. -/
def FNum.tiny (x : FNum) (t : Ty) (mode : Nat) : Bool :=
  x.m != 0 && belowMin t (x.roundAt (if mode = 5 then 1 else mode) (x.freeQuantum t)) (x.freeQuantum t)

/-- Is the number off the type's grid? -/
def FNum.inexact (x : FNum) (t : Ty) : Bool := (x.at (x.quantum t)).2

/-- A number rounded in a type by a deterministic mode with the flags of IEEE 754-2019, tininess after rounding. -/
def roundTo (t : Ty) (mode : Nat) (x : FNum) : Rounded :=
  let q := x.quantum t
  let r := x.roundAt mode q
  let nx := x.inexact t
  if aboveMax t r q then
    if overflowsToInf mode x.neg then ⟨.inf x.neg, fOF ||| fNX⟩
    else ⟨.num ⟨x.neg, t.max.1, t.max.2, false⟩, fOF ||| fNX⟩
  else ⟨.num ⟨x.neg, r, q, false⟩, flagIf nx fNX ||| flagIf (nx && x.tiny t mode) fUF⟩

/-- A number drawn in a type under STO: the magnitude plus ρ·2^-32 of an ulp, rounded toward zero (R68, R139). DESIGN CHOICE: the drawn
result itself, below 2^emin, is what makes the value tiny for UF (log entry 97). -/
def drawTo (t : Ty) (rho : Nat) (x : FNum) : Rounded :=
  let q := x.quantum t
  let k := min x.e (q - 32)
  let y : FNum := ⟨x.neg, x.m * pow2 (x.e - k) + rho * pow2 (q - 32 - k), k, x.st⟩
  let r := (y.at (y.quantum t)).1
  let nx := x.inexact t
  if aboveMax t r (y.quantum t) then ⟨.inf x.neg, fOF ||| fNX⟩
  else ⟨.num ⟨x.neg, r, y.quantum t, false⟩, flagIf nx fNX ||| flagIf (nx && belowMin t r (y.quantum t)) fUF⟩

/-! ### Tails (R134 to R136) -/

/-- The exact value of a finite word with its tail's g and r: v + sign(v)·(2g + r)·q/4 (R68). -/
def withTail (t : Ty) (x : FNum) (tail : Tail) : FNum :=
  let q := x.quantum t
  let k := min x.e (q - 2)
  { x with m := x.m * pow2 (x.e - k) + (tail.toNat / 2) * pow2 (q - 2 - k), e := k }

/-- The exact value that a word and its tail hold. -/
def tailedVal (t : Ty) (v : FVal) (tail : Tail) : FVal :=
  match v with | .num x => .num (withTail t x tail) | v => v

/-- settle of R68 on a register value with its tail: by mode, with the draw ρ for STO. -/
def settleVal (t : Ty) (v : FVal) (tail : Tail) (mode rho : Nat) : Rounded :=
  match v with
  | .num x =>
    let y := withTail t x tail
    let r := if mode = 5 then drawTo t rho y else roundTo t mode y
    { r with f := r.f ||| flagIf (tail.getLsbD 0) fNX }
  | v => ⟨v, 0⟩

/-- A formed result: register bits, tail and flags. -/
structure FOut where
  v    : DWord
  tail : Tail
  f    : Flags
deriving DecidableEq, Repr

/-- form of R68 on a number: the register bits, the tail, and whether the overflow pattern was written for
|y| ≥ Max + q. -/
def formNum (t : Ty) (x : FNum) : DWord × Tail × Bool :=
  if x.isZero then (numBits t x.neg 0 0, 0, false)
  else
    let q := x.quantum t
    let f := x.at (q - 2)
    let y := if f.2 && f.1 % 2 == 0 then f.1 + 1 else f.1
    let v := y / 4
    if aboveMax t v q then (maxBits t x.neg, 7, true)
    else (numBits t x.neg v q, BitVec.ofNat 3 (2 * (y % 4) + (if f.2 then 1 else 0)), false)

/-- The flags of forming a number (R140): those of rounding it by the effective mode; STO draws nothing. -/
def formFlags (t : Ty) (mode : Nat) (x : FNum) : Flags :=
  if x.isZero then 0
  else if mode = 5 then
    let nx := x.inexact t
    let ov := (formNum t x).2.2
    flagIf (nx || ov) fNX ||| flagIf ov fOF ||| flagIf (nx && x.tiny t 5) fUF
  else (roundTo t mode x).f

/-- The largest finite magnitude replaces an infinity or the overflow pattern under SAT (R64). -/
def satForm (t : Ty) (neg : Bool) : FOut := ⟨maxBits t neg, 0, 0⟩

/-- The formation of an exact result (R64, R141, R159): FTZ, form, SAT, and the flags. -/
def formOut (t : Ty) (mode : Nat) (ftz sat : Bool) (v : FVal) : FOut :=
  match v with
  | .nan _ => ⟨nanBits t, 0, 0⟩
  | .inf n => if sat then satForm t n else ⟨infBits t n, 0, 0⟩
  | .num x =>
    if ftz && x.tiny t mode then ⟨numBits t x.neg 0 0, 0, fUF ||| fNX⟩
    else
      let r := formNum t x
      let fl := formFlags t mode x
      if sat && r.2.1 == 7 && r.1 == maxBits t x.neg then ⟨maxBits t x.neg, 0, fl⟩ else ⟨r.1, r.2.1, fl⟩

/-- CLP on a float value: min(max(x, lo), hi); a NaN bound is ignored and a NaN passes (R64). DESIGN CHOICE: zeros of both signs are
equal, and x is kept where it equals a bound (log entry 98). -/
def clampVal (x lo hi : FVal) : FVal :=
  if x.isNan then x
  else
    let y := if lo.isNan then x else if cmpVal x lo == .lt then lo else x
    if hi.isNan then y else if cmpVal hi y == .lt then hi else y

/-! ### Arithmetic on numbers -/

/-- The exact sum; `zneg` is the sign of a zero that operands of opposite signs leave (R159). -/
def addNum (a b : FNum) (zneg : Bool) : FNum :=
  let k := min a.e b.e
  let x : Int := (a.m * pow2 (a.e - k) : Nat)
  let y : Int := (b.m * pow2 (b.e - k) : Nat)
  let z := (if a.neg then -x else x) + (if b.neg then -y else y)
  if z = 0 then
    ⟨if a.isZero && b.isZero && a.neg == b.neg then a.neg else zneg, 0, 0, false⟩
  else ⟨z < 0, z.natAbs, k, false⟩

/-- The exact product. -/
def mulNum (a b : FNum) : FNum := ⟨a.neg != b.neg, a.m * b.m, a.e + b.e, false⟩

/-- Resolution of quotients: far below every grid of R130. -/
def divRes : Int := -2200

/-- The quotient at the resolution, with its sticky bit; the divisor is not zero. -/
def divNum (a b : FNum) : FNum :=
  let n := a.m * pow2 (a.e - b.e - divRes)
  let q := n / b.m
  if a.m = 0 then ⟨a.neg != b.neg, 0, 0, false⟩ else ⟨a.neg != b.neg, q, divRes, n % b.m != 0⟩

/-- ⌊√n⌋ bit by bit, from bit k down. -/
def isqrtFrom (n : Nat) : Nat → Nat → Nat
  | 0, r => if (r + 1) * (r + 1) ≤ n then r + 1 else r
  | k + 1, r => isqrtFrom n k (if (r + 2 ^ (k + 1)) * (r + 2 ^ (k + 1)) ≤ n then r + 2 ^ (k + 1) else r)

/-- ⌊√n⌋. -/
def isqrt (n : Nat) : Nat := isqrtFrom n (Nat.log2 n / 2 + 1) 0

/-- The square root of a positive number at the resolution 2^-1100. -/
def sqrtNum (a : FNum) : FNum :=
  let n := a.m * pow2 (a.e - divRes)
  let r := isqrt n
  ⟨false, r, -1100, r * r != n⟩

end Sys2Proof.Machine
end

