-- ==== Sys2Proof/Machine/Flags.lean ====
section
/-! DEFINITION. Every flag computation: the frame of a float instruction (R64, R140 to R142, R158, R159, R433),
the stochastic draws (R72, R139), the flags that reach FPC (R154) and the trap of an enabled one (R142). -/

namespace Sys2Proof

/-- The modifier word that asks for nothing. -/
def Mods.none : Mods :=
  { negA := false, absA := false, negB := false, absB := false, negC := false, absC := false, sat := false
    clp := false, clo := 0, chi := 0, scl := 0, rmo := 0, ext := 0 }

/-- The modifiers of an instruction. -/
def VForm.mods (f : VForm) : Mods := f.m.getD Mods.none

end Sys2Proof

namespace Sys2Proof.Machine

/-! ### Draws (R72, R139) -/

/-- One round of `mix`. -/
def mixRound (x c : DWord) : DWord := (x ^^^ (x >>> 32)) * c

/-- mix of R72. -/
def mix (seed dix lane : DWord) : DWord :=
  let x := seed + dix * 0x9E3779B97F4A7C15 + lane * 0xC2B2AE3D27D4EB4F
  let y := mixRound (mixRound (mixRound (mixRound x 0xBF58476D1CE4E5B9) 0x94D049BB133111EB) 0xD6E8FEB86659FD93)
    0xFF51AFD7ED558CCD
  y ^^^ (y >>> 29)

/-- The seed of the issuing group's task. -/
def State.seed (s : State) : DWord := (s.taskOf s.t).seed

/-- The mix value of draw k with lane argument i, 96 for the scalar unit. -/
def State.draw (s : State) (i k : Nat) : DWord := mix (s.seed + BitVec.ofNat 64 k) s.g.dix (BitVec.ofNat 64 i)

/-- ρ of draw k: bits [63:32] of the mix value. -/
def State.rho (s : State) (i k : Nat) : Nat := ((s.draw i k).extractLsb' 32 32).toNat

/-! ### The lane's floating-point control (R38, R64, R433) -/

/-- The lane whose FPC an instruction uses in lane i; lane 96, the scalar unit, has the FPC lane of R433. -/
def State.fpLane (s : State) (gd : Guard) (i : Nat) : Nat := if i = 96 then firstLane (s.g.execLanes gd) else i

/-- FPC for lane i. -/
def State.fpcAt (s : State) (gd : Guard) (i : Nat) : Word := s.g.fpcOf (s.fpLane gd i)

/-- FPC.DAZ. -/
def fpcDaz (w : Word) : Bool := w.getLsbD 3
/-- FPC.FTZ. -/
def fpcFtz (w : Word) : Bool := w.getLsbD 4
/-- FPC.RM. -/
def fpcRm (w : Word) : Nat := (w.extractLsb' 0 3).toNat
/-- FPC.TRAPEN. -/
def fpcTrapen (w : Word) : Flags := w.extractLsb' 10 5

/-- The effective mode of R64 for a rounding field and an FPC word. -/
def effModeOf (rmo : Nat) (w : Word) : Nat := if rmo = 0 then fpcRm w else rmo - 1

/-- The effective mode of an instruction in lane i. -/
def State.effMode (s : State) (f : VForm) (i : Nat) : Nat := effModeOf f.mods.rmo.val (s.fpcAt f.g i)

/-! ### Reading operands (R135, R158) -/

/-- An integer as a float value. -/
def intVal (x : Int) : FVal := .num ⟨x < 0, x.natAbs, 0, false⟩

/-- DAZ: a non-zero magnitude below 2^emin becomes zero of its sign (R141). -/
def dazVal (daz : Bool) (t : Ty) (v : FVal) : FVal :=
  match v with
  | .num x => if daz && !x.isZero && belowMin t x.m x.e then .num ⟨x.neg, 0, 0, false⟩ else v
  | v => v

/-- ABS, then NEG (R64). -/
def signMods (abs neg : Bool) (v : FVal) : FVal :=
  let a := if abs then v.withSign false else v
  if neg then a.withSign (!a.neg) else a

/-- A settled operand with NV for a signalling NaN (R158): the value and tail settled by the effective mode with
draw k, then DAZ. Of the flags that settling raises by itself (R68, R140) only NV is raised, also by `fscale` and `frnd`, of which R158 does
not speak (log entry 105). -/
def State.settledOf (s : State) (f : VForm) (t : Ty) (w : TVal) (i k : Nat) : FVal × Flags :=
  let v := readFloat t w.val
  let m := s.effMode f i
  (dazVal (fpcDaz (s.fpcAt f.g i)) t (settleVal t v w.tail m (if m = 5 then s.rho i k else 0)).v, sigFlag v)

/-- Operand A settled. -/
def State.fpA (s : State) (f : VForm) (t : Ty) (i : Nat) : FVal × Flags :=
  let r := s.settledOf f t (s.rdSrc t f.a i) i 0
  (signMods f.mods.absA f.mods.negA r.1, r.2)
/-- Operand B settled. -/
def State.fpB (s : State) (f : VForm) (t : Ty) (i : Nat) : FVal × Flags :=
  let r := s.settledOf f t (s.rdSrc t f.b i) i 1
  (signMods f.mods.absB f.mods.negB r.1, r.2)
/-- Operand C settled. -/
def State.fpC (s : State) (f : VForm) (t : Ty) (i : Nat) : FVal × Flags :=
  let r := s.settledOf f t (s.rdSrc t f.c i) i 2
  (signMods f.mods.absC f.mods.negC r.1, r.2)

/-! ### Forming results (R64, R134, R159) -/

/-- A CLP bound: a scalar read as the type and settled with draw k (R64). DESIGN CHOICE: DAZ is not applied to it, and it raises no
flag (log entry 98). -/
def State.fpBound (s : State) (f : VForm) (t : Ty) (n i k : Nat) : FVal :=
  let w := s.rdSrc t (.scal (Fin.ofNat 64 n)) i
  let m := s.effMode f i
  (settleVal t (readFloat t w.val) w.tail m (if m = 5 then s.rho i k else 0)).v

/-- CLP on an exact float result. -/
def State.fpClamp (s : State) (f : VForm) (t : Ty) (i : Nat) (x : FVal) : FVal :=
  if f.mods.clp then clampVal x (s.fpBound f t f.mods.clo.val i 5) (s.fpBound f t f.mods.chi.val i 6) else x

/-- The formed result of an exact value: SCL, CLP, FTZ, formation, SAT (R64, R159); `fl` are the flags that the
operation itself raises. -/
def State.formed (s : State) (f : VForm) (t : Ty) (i : Nat) (x : FVal) (fl : Flags) : FOut :=
  let y := s.fpClamp f t i (x.scale f.mods.scl.toInt)
  let r := formOut t (s.effMode f i) (fpcFtz (s.fpcAt f.g i)) f.mods.sat y
  { r with f := r.f ||| fl }

/-- A final value in a type with no infinity (R138): what replaces it, with the flags of the replacement; `ov` says
that the infinity is an overflow of a finite value. -/
def finalVal (t : Ty) (sat ov : Bool) (v : FVal) : FVal × Flags :=
  let mx (n : Bool) : FVal := .num ⟨n, t.max.1, t.max.2, false⟩
  match t, v with
  | .f4, .nan _ => (.num ⟨false, 0, 0, false⟩, fNV)
  | .f4, .inf n => (mx n, if ov || sat then 0 else fNV)
  | .f8e4, .inf n => if sat then (mx n, 0) else (.nan false, if ov then 0 else fNV)
  | _, .inf n => if sat then (mx n, 0) else (.inf n, 0)
  | _, v => (v, 0)

/-- The final rounding of an exact value in a type (R138, R141, R145, R155): FTZ, the rounding or draw, SAT and the
replacements. `stk` is the source's sticky bit. -/
def finalRound (t : Ty) (mode rho : Nat) (ftz sat stk : Bool) (v : FVal) : FVal × Flags :=
  match v with
  | .num x =>
    if ftz && x.tiny t mode then (.num ⟨x.neg, 0, 0, false⟩, fUF ||| fNX)
    else
      let r := if mode = 5 then drawTo t rho x else roundTo t mode x
      let z := finalVal t sat true r.v
      (z.1, r.f ||| flagIf stk fNX ||| z.2)
  | v =>
    let z := finalVal t sat false v
    (z.1, z.2 ||| sigFlag v)

/-! ### The frame (R67, R140, R142) -/

/-- FINFO of an FP fault (R142). -/
def fpFinfo (trapped raised : Flags) (rmo : Nat) : DWord := (BitVec.ofNat 3 rmo ++ raised ++ trapped).setWidth 64

/-- The results whose flags are enabled as traps. -/
def State.fpTrapping (s : State) (gd : Guard) (l : List (Nat × FOut)) : List (Nat × FOut) :=
  l.filter fun p => p.2.f &&& fpcTrapen (s.fpcAt gd p.1) != 0

/-- The check of R142. -/
def State.fpCheck (s : State) (gd : Guard) (rmo : Nat) (l : List (Nat × FOut)) : Except Stop Unit :=
  let bad := s.fpTrapping gd l
  if bad == [] then .ok ()
  else .error (.trap .fp 0
    (.raw (fpFinfo (bad.foldl (fun a p => a ||| (p.2.f &&& fpcTrapen (s.fpcAt gd p.1))) 0)
      (bad.foldl (fun a p => a ||| p.2.f) 0) rmo))
    (bad.foldl (fun m p => m ||| ((1 : Lanes) <<< s.fpLane gd p.1)) 0))

/-- Flags ORed into a lane's FPC.FLAGS. -/
def Group.orFlags (g : Group) (lane : Nat) (fl : Flags) : Group :=
  if fl = 0 then g else g.setFpc lane (g.fpcOf lane ||| (fl.setWidth 32 <<< 5))

/-- The flags of every lane ORed into FPC (R140). -/
def State.fpOr (s0 s : State) (gd : Guard) (l : List (Nat × FOut)) : State :=
  s.setG (l.foldl (fun g p => g.orFlags (s0.fpLane gd p.1) p.2.f) s.g)

/-- Does an instruction that settles draw in an active lane (R44)? `once` says that it runs once. -/
def State.draws (s : State) (f : VForm) (once : Bool) : Bool :=
  if once then s.g.execLanes f.g != 0 && s.effMode f 96 == 5
  else (lanesOf (s.g.execLanes f.g)).any fun i => s.effMode f i == 5

/-- What the antennae see of the flags (R376). -/
def State.flagObs (s : State) (gd : Guard) (l : List (Nat × FOut)) : Obs :=
  { flags := l.filterMap fun p => if p.2.f = 0 then none else some (some (s.fpLane gd p.1), p.2.f.toNat) }

/-- The results of a per-lane instruction: every executing lane, or the scalar unit as lane 96. -/
def State.fpOuts (s : State) (f : VForm) (op : Nat → FOut) : List (Nat × FOut) :=
  (s.computeLanes f.g f.d).map fun i => (i, op i)

/-- The results written (wr_dst of R68). -/
def State.wrOuts (s : State) (t : Ty) (d : Dst) (l : List (Nat × FOut)) : State :=
  match d with
  | .vec n => s.setLanes n.toNat t.is64 (l.map fun p => (p.1, ⟨p.2.v, p.2.tail⟩))
  | .scal n => l.foldl (fun st p => st.setS n.val ⟨t.widen p.2.v, p.2.tail⟩) s
  | _ => s

/-- DIX advances when the instruction settled under STO (R44). -/
def State.dixIf (s : State) (b : Bool) : State := if b then s.setG s.g.advDix else s

/-- The body of a float instruction with results of type `t`: all lanes are computed, then an enabled flag traps, or
every lane is written and its flags are raised. `settles` says that the instruction settles. -/
def State.fpBody (s : State) (f : VForm) (t : Ty) (ops : List VecOp) (settles : Bool) (op : Nat → FOut) : Body := do
  s.checkVecs (s.g.execLanes f.g) ops
  let l := s.fpOuts f op
  s.fpCheck f.g f.mods.rmo.val l
  .ok (.go ((s.fpOr (s.wrOuts t f.d l) f.g l).dixIf (settles && s.draws f f.d.isScal)) (s.flagObs f.g l))

end Sys2Proof.Machine
end

