-- ==== Sys2Proof/Machine/Integer.lean ====
section
/-! DEFINITION. Integer, address and residue instructions (chapter 05, R110 to R129). -/

namespace Sys2Proof

/-- Width of an integer type (R110). -/
def Ty.intWidth (t : Ty) : Nat := t.width

/-- Least value of an integer type. -/
def Ty.intMin (t : Ty) : Int := if t.signed then -(2 ^ (t.width - 1) : Nat) else 0
/-- Greatest value of an integer type. -/
def Ty.intMax (t : Ty) : Int := if t.signed then (2 ^ (t.width - 1) : Nat) - 1 else (2 ^ t.width : Nat) - 1

/-- A value replaced by the nearest one of the type's range (R110). -/
def Ty.clamp (t : Ty) (x : Int) : Int := if x < t.intMin then t.intMin else if t.intMax < x then t.intMax else x

/-- The w-bit pattern of a container (R117). -/
def Ty.pattern (t : Ty) (v : DWord) : Nat := v.toNat % 2 ^ t.width

end Sys2Proof

namespace Sys2Proof.Machine

/-! ### Formation of an integer result -/

/-- CLP of R64 on an integer: min(max(x, lo), hi) with the bounds read from CLO and CHI as the type. -/
def State.intClamp (s : State) (t : Ty) (m : Option Mods) (x : Int) : Int :=
  match m with
  | some m => if m.clp then min (max x (t.toInt (s.g.sval m.clo.val))) (t.toInt (s.g.sval m.chi.val)) else x
  | none => x

/-- SAT of a modifier word. -/
def satOf (m : Option Mods) : Bool := match m with | some m => m.sat | none => false

/-- The container of an exact integer result (R64, R110): clamped, saturated, else wrapped. -/
def State.intForm (s : State) (t : Ty) (m : Option Mods) (x : Int) : DWord :=
  let y := s.intClamp t m x
  t.ofInt (if satOf m then t.clamp y else y)

/-- A source operand as an integer of a type. -/
def State.intSrc (s : State) (t : Ty) (x : Src) (i : Nat) : Int := t.toInt (s.rdSrc t x i).val

/-- An integer instruction of two sources: exact result, then R110; tail zero. -/
def State.int2 (s : State) (f : VForm) (op : Int → Int → Int) : Body := do
  s.checkVecs (s.g.execLanes f.g) (f.ops2 f.ty)
  .ok (.go (s.wrDst f.g f.ty f.d fun i => ⟨s.intForm f.ty f.m (op (s.intSrc f.ty f.a i) (s.intSrc f.ty f.b i)), 0⟩))

/-- A bit-pattern instruction of two sources (R117): the result is the pattern's value in the type. -/
def State.bits2 (s : State) (f : VForm) (op : Nat → Nat → Nat) : Body := do
  s.checkVecs (s.g.execLanes f.g) (f.ops2 f.ty)
  .ok (.go (s.wrDst f.g f.ty f.d fun i =>
    ⟨f.ty.ofInt (op (f.ty.pattern (s.rdSrc f.ty f.a i).val) (f.ty.pattern (s.rdSrc f.ty f.b i).val) : Nat), 0⟩))

/-- A bit-pattern instruction of one source (R117, R118). -/
def State.bits1 (s : State) (f : VForm) (op : Nat → Nat) : Body := do
  s.checkVecs (s.g.execLanes f.g) (f.ops1 f.ty)
  .ok (.go (s.wrDst f.g f.ty f.d fun i => ⟨f.ty.ofInt (op (f.ty.pattern (s.rdSrc f.ty f.a i).val) : Nat), 0⟩))

/-! ### Arithmetic (R113, R114) -/

/-- IADD (R113). -/
def execIadd (f : VForm) (s : State) : Host.Outcome State Fault Refusal :=
  s.finish (.iadd f) (s.int2 f fun a b => a + b)

/-- ISUB (R113). -/
def execIsub (f : VForm) (s : State) : Host.Outcome State Fault Refusal :=
  s.finish (.isub f) (s.int2 f fun a b => a - b)

/-- IMUL (R113). -/
def execImul (f : VForm) (s : State) : Host.Outcome State Fault Refusal :=
  s.finish (.imul f) (s.int2 f fun a b => a * b)

/-- IMULH (R113): the floor of the exact product over 2^w. -/
def execImulh (f : VForm) (s : State) : Host.Outcome State Fault Refusal :=
  s.finish (.imulh f) (s.int2 f fun a b => (a * b) / (2 ^ f.ty.width : Nat))

/-- IMAD (R113). -/
def execImad (f : VForm) (s : State) : Host.Outcome State Fault Refusal :=
  s.finish (.imad f) do
    s.checkVecs (s.g.execLanes f.g) (f.ops3 f.ty)
    .ok (.go (s.wrDst f.g f.ty f.d fun i =>
      ⟨s.intForm f.ty f.m (s.intSrc f.ty f.a i * s.intSrc f.ty f.b i + s.intSrc f.ty f.c i), 0⟩))

/-- The quotient of R114: all ones for b = 0, else truncated toward zero. -/
def intQuot (a b : Int) : Int := if b = 0 then -1 else a.tdiv b
/-- The remainder of R114. -/
def intRem (a b : Int) : Int := if b = 0 then a else a.tmod b

/-- IDIV (R114); the most negative value over -1 wraps to itself. -/
def execIdiv (f : VForm) (s : State) : Host.Outcome State Fault Refusal :=
  s.finish (.idiv f) (s.int2 f intQuot)

/-- IREM (R114). -/
def execIrem (f : VForm) (s : State) : Host.Outcome State Fault Refusal :=
  s.finish (.irem f) (s.int2 f intRem)

/-- IMIN (R113). -/
def execImin (f : VForm) (s : State) : Host.Outcome State Fault Refusal :=
  s.finish (.imin f) (s.int2 f fun a b => min a b)

/-- IMAX (R113). -/
def execImax (f : VForm) (s : State) : Host.Outcome State Fault Refusal :=
  s.finish (.imax f) (s.int2 f fun a b => max a b)

/-! ### Compare and select (R115, R116) -/

/-- The condition of `icmp`. -/
def intCond (fn : BitVec 4) (a b : Int) : Bool :=
  if fn = 0 then a == b else if fn = 1 then a != b else if fn = 2 then a < b
  else if fn = 3 then a ≤ b else if fn = 4 then b < a else b ≤ a

/-- CT of a compare: how the condition meets the destination predicate (R57, R115). -/
def combine (ct : Combine) (old k : Lanes) : Lanes :=
  match ct with | .set => k | .and => old &&& k | .or => old ||| k

/-- A compare: the condition of each executing lane enters the destination predicate. -/
def State.wrCompare (s : State) (f : VForm) (k : Nat → Bool) : State :=
  let n := f.d.predNum
  s.setG (s.g.setPred n (s.g.execLanes f.g) (combine f.ct (s.g.pred n) (laneSet k)))

/-- ICMP (R115). -/
def execIcmp (f : VForm) (s : State) : Host.Outcome State Fault Refusal :=
  s.finish (.icmp f) do
    s.checkVecs (s.g.execLanes f.g) (f.a.vecOp f.ty.is64 ++ f.b.vecOp f.ty.is64)
    .ok (.go (s.wrCompare f fun i => intCond f.fn (s.intSrc f.ty f.a i) (s.intSrc f.ty f.b i)))

/-- ISEL (R116): on the scalar unit the lowest executing lane's predicate selects, lane 0's when there is none. -/
def execIsel (f : VForm) (s : State) : Host.Outcome State Fault Refusal :=
  s.finish (.isel f) do
    s.checkVecs (s.g.execLanes f.g) (f.ops2 f.ty)
    let p := s.g.pred f.c.specialNum
    let sel (i : Nat) : Bool := p.getLsbD (if i = 96 then firstLane (s.g.execLanes f.g) else i)
    .ok (.go (s.wrDst f.g f.ty f.d fun i => s.moved f.ty (if sel i then f.a else f.b) i))

/-! ### Logic, shifts and bit fields (R117, R118) -/

/-- AND (R117). -/
def execAnd (f : VForm) (s : State) : Host.Outcome State Fault Refusal :=
  s.finish (.and f) (s.bits2 f fun a b => a &&& b)

/-- OR (R117). -/
def execOr (f : VForm) (s : State) : Host.Outcome State Fault Refusal :=
  s.finish (.or f) (s.bits2 f fun a b => a ||| b)

/-- XOR (R117). -/
def execXor (f : VForm) (s : State) : Host.Outcome State Fault Refusal :=
  s.finish (.xor f) (s.bits2 f fun a b => a ^^^ b)

/-- NOT (R117). -/
def execNot (f : VForm) (s : State) : Host.Outcome State Fault Refusal :=
  s.finish (.not f) (s.bits1 f fun a => 2 ^ f.ty.width - 1 - a)

/-- An arithmetic right shift of a w-bit pattern: filled with copies of bit w - 1. -/
def sarBits (w a n : Nat) : Nat := if a < 2 ^ (w - 1) then a / 2 ^ n else a / 2 ^ n + (2 ^ w - 2 ^ (w - n))
/-- A left rotation within w bits. -/
def rotBits (w a n : Nat) : Nat := (a * 2 ^ n) % 2 ^ w + a / 2 ^ (w - n)

/-- SHL (R117): the count is b mod w. -/
def execShl (f : VForm) (s : State) : Host.Outcome State Fault Refusal :=
  s.finish (.shl f) (s.bits2 f fun a b => (a * 2 ^ (b % f.ty.width)) % 2 ^ f.ty.width)

/-- SHR (R117). -/
def execShr (f : VForm) (s : State) : Host.Outcome State Fault Refusal :=
  s.finish (.shr f) (s.bits2 f fun a b => a / 2 ^ (b % f.ty.width))

/-- SAR (R117). -/
def execSar (f : VForm) (s : State) : Host.Outcome State Fault Refusal :=
  s.finish (.sar f) (s.bits2 f fun a b => sarBits f.ty.width a (b % f.ty.width))

/-- ROT (R117). -/
def execRot (f : VForm) (s : State) : Host.Outcome State Fault Refusal :=
  s.finish (.rot f) (s.bits2 f fun a b => rotBits f.ty.width a (b % f.ty.width))

/-- Leading zero bits of a w-bit pattern (R118). -/
def clzBits (w a : Nat) : Nat := if a = 0 then w else w - 1 - Nat.log2 a
/-- One bits of a w-bit pattern. -/
def popBits (w a : Nat) : Nat := ((List.range w).filter fun i => a.testBit i).length
/-- A w-bit pattern with its bits in reverse order. -/
def revBits (w a : Nat) : Nat := (List.range w).foldl (fun acc i => if a.testBit i then acc + 2 ^ (w - 1 - i) else acc) 0

/-- CLZ (R118). -/
def execClz (f : VForm) (s : State) : Host.Outcome State Fault Refusal :=
  s.finish (.clz f) (s.bits1 f (clzBits f.ty.width))

/-- POPC (R118). -/
def execPopc (f : VForm) (s : State) : Host.Outcome State Fault Refusal :=
  s.finish (.popc f) (s.bits1 f (popBits f.ty.width))

/-- BREV (R118). -/
def execBrev (f : VForm) (s : State) : Host.Outcome State Fault Refusal :=
  s.finish (.brev f) (s.bits1 f (revBits f.ty.width))

/-- The field that `bfx` extracts, as an exact value (R118). -/
def bfxValue (t : Ty) (a b c : Nat) : Int :=
  let w := t.width
  let p := b % 256
  let n := c % 256
  if w ≤ p ∨ n = 0 then 0
  else
    let k := min n (w - p)
    let x := (a / 2 ^ p) % 2 ^ k
    if t.signed && 2 ^ (k - 1) ≤ x then (x : Int) - (2 ^ k : Nat) else x

/-- The pattern that `bfi` forms (R118). -/
def bfiValue (w a b c : Nat) : Nat :=
  let p := c % 256
  let n := c / 256 % 256
  if w ≤ p ∨ n = 0 then a
  else
    let k := min n (w - p)
    a - ((a / 2 ^ p) % 2 ^ k) * 2 ^ p + (b % 2 ^ k) * 2 ^ p

/-- BFX (R118). -/
def execBfx (f : VForm) (s : State) : Host.Outcome State Fault Refusal :=
  s.finish (.bfx f) do
    s.checkVecs (s.g.execLanes f.g) (f.ops3 f.ty)
    let p (x : Src) (i : Nat) := f.ty.pattern (s.rdSrc f.ty x i).val
    .ok (.go (s.wrDst f.g f.ty f.d fun i => ⟨f.ty.ofInt (bfxValue f.ty (p f.a i) (p f.b i) (p f.c i)), 0⟩))

/-- BFI (R118). -/
def execBfi (f : VForm) (s : State) : Host.Outcome State Fault Refusal :=
  s.finish (.bfi f) do
    s.checkVecs (s.g.execLanes f.g) (f.ops3 f.ty)
    let p (x : Src) (i : Nat) := f.ty.pattern (s.rdSrc f.ty x i).val
    .ok (.go (s.wrDst f.g f.ty f.d fun i => ⟨f.ty.ofInt (bfiValue f.ty.width (p f.a i) (p f.b i) (p f.c i) : Nat), 0⟩))

/-! ### Addresses, conversion and moves (R119 to R122) -/

/-- The unsigned value of an immediate source. -/
def immNat (x : Src) : Nat := match x with | .imm v => v.toNat | _ => 0

/-- LEA (R119): the index is an i32 under i64 and an n32 under n64. -/
def execLea (f : VForm) (s : State) : Host.Outcome State Fault Refusal :=
  s.finish (.lea f) do
    s.checkVecs (s.g.execLanes f.g) (f.d.vecOp true ++ f.a.vecOp true ++ f.b.vecOp false)
    let tb : Ty := if f.ty == .i64 then .i32 else .n32
    .ok (.go (s.wrDst f.g f.ty f.d fun i =>
      ⟨f.ty.ofInt (s.intSrc f.ty f.a i + s.intSrc tb f.b i * (2 ^ immNat f.c : Nat)), 0⟩))

/-- ICVT (R120): FN is the source type. -/
def execIcvt (f : VForm) (s : State) : Host.Outcome State Fault Refusal :=
  let ts := Ty.ofCode f.fn
  s.finish (.icvt f) do
    s.checkVecs (s.g.execLanes f.g) (f.d.vecOp f.ty.is64 ++ f.a.vecOp ts.is64)
    .ok (.go (s.wrDst f.g f.ty f.d fun i => ⟨s.intForm f.ty f.m (s.intSrc ts f.a i), 0⟩))

/-- MOV (R121). -/
def execMov (f : VForm) (s : State) : Host.Outcome State Fault Refusal :=
  s.finish (.mov f) do
    s.checkVecs (s.g.execLanes f.g) (f.ops1 f.ty)
    .ok (.go (s.wrDst f.g f.ty f.d fun i => s.moved f.ty f.a i))

/-- The value that `movi` writes (R61, R122). -/
def moviValue (f : IForm) : DWord :=
  if f.ty.is64 then
    match f.m with
    | some m => m.ext.extractLsb' 0 24 ++ f.imm
    | none => f.imm.signExtend 64
  else (f.imm.setWidth 32).setWidth 64

/-- MOVI (R122). -/
def execMovi (f : IForm) (s : State) : Host.Outcome State Fault Refusal :=
  s.finish (.movi f) do
    s.checkVecs (s.g.execLanes f.g) (f.d.vecOp f.ty.is64)
    .ok (.go (s.wrDst f.g f.ty f.d fun _ => ⟨moviValue f, 0⟩))

/-! ### The packed dot product (R123) -/

/-- Element k of a packed operand, signed or not. -/
def dpElt (v : DWord) (k : Nat) (signed : Bool) : Int :=
  let b := v.extractLsb' (8 * k) 8
  if signed then b.toInt else b.toNat

/-- The exact sum of `dp4`. -/
def dpSum (fn : BitVec 4) (a b : DWord) (c : Int) : Int :=
  (List.range 4).foldl (fun x k => x + dpElt a k (fn.getLsbD 0) * dpElt b k (fn.getLsbD 1)) c

/-- DP4 (R123). -/
def execDp4 (f : VForm) (s : State) : Host.Outcome State Fault Refusal :=
  s.finish (.dp4 f) do
    s.checkVecs (s.g.execLanes f.g) (f.ops3 .i32)
    .ok (.go (s.wrDst f.g .i32 f.d fun i =>
      ⟨s.intForm .i32 f.m (dpSum f.fn (s.rdSrc .i32 f.a i).val (s.rdSrc .i32 f.b i).val (s.intSrc .i32 f.c i)), 0⟩))

/-! ### Residue numbers (R124 to R127) -/

/-- The residues of a container: modulo 255, 256 and 257. -/
def rnsParts (v : DWord) : Nat × Nat × Nat := (v.toNat % 256, v.toNat / 256 % 256, v.toNat / 65536 % 512)

/-- A valid container (R124). -/
def rnsValid (v : DWord) : Bool :=
  (rnsParts v).1 ≤ 254 && (rnsParts v).2.2 ≤ 256 && v.toNat % 2 ^ 32 / 2 ^ 25 == 0

/-- The container of three residues. -/
def rnsPack (a b c : Nat) : DWord := BitVec.ofNat 64 (a + 256 * b + 65536 * c)

/-- The element of an integer (R125). -/
def rnsEncode (x : Int) : DWord := rnsPack (x % 255).toNat (x % 256).toNat (x % 257).toNat

/-- M of R124. -/
def rnsM : Int := 16776960

/-- The integer that an element denotes (R127). -/
def rnsDecode (v : DWord) : Int :=
  let p := rnsParts v
  let y : Int := ((p.1 * 8421376 + p.2.1 * 16711425 + p.2.2 * 8421120 : Nat) : Int) % rnsM
  if 8388480 ≤ y then y - rnsM else y

/-- RESERVED with detail 0x52 in the lanes whose rns source is invalid (R124). -/
def State.rnsCheck (s : State) (f : VForm) (xs : List Src) : Except Stop Unit :=
  faultIf (s.failing f.g f.d fun i => xs.any fun x => !rnsValid (s.rdSrc .rns x i).val) (trapGen .reserved 0x52)

/-- RNS_ENC (R125): FN 0 reads an i32, FN 2 an i64. -/
def execRnsEnc (f : VForm) (s : State) : Host.Outcome State Fault Refusal :=
  let ts : Ty := if f.fn = 0 then .i32 else .i64
  s.finish (.rnsEnc f) do
    s.checkVecs (s.g.execLanes f.g) (f.d.vecOp false ++ f.a.vecOp ts.is64)
    .ok (.go (s.wrDst f.g .rns f.d fun i => ⟨rnsEncode (s.intSrc ts f.a i), 0⟩))

/-- A channel of R126. -/
def rnsChannel (fn : BitVec 4) (m a b c : Nat) : Nat :=
  if fn = 0 then (a + b) % m else if fn = 1 then (a + m - b) % m else if fn = 2 then (a * b) % m else (a * b + c) % m

/-- An operation on elements, channel by channel (R126). -/
def rnsOp (fn : BitVec 4) (a b c : DWord) : DWord :=
  let x := rnsParts a
  let y := rnsParts b
  let z := rnsParts c
  rnsPack (rnsChannel fn 255 x.1 y.1 z.1) (rnsChannel fn 256 x.2.1 y.2.1 z.2.1) (rnsChannel fn 257 x.2.2 y.2.2 z.2.2)

/-- RNS (R126): FN 3 also takes C. -/
def execRns (f : VForm) (s : State) : Host.Outcome State Fault Refusal :=
  s.finish (.rns f) do
    s.checkVecs (s.g.execLanes f.g) (if f.fn = 3 then f.ops3 .rns else f.ops2 .rns)
    s.rnsCheck f (if f.fn = 3 then [f.a, f.b, f.c] else [f.a, f.b])
    .ok (.go (s.wrDst f.g .rns f.d fun i =>
      ⟨rnsOp f.fn (s.rdSrc .rns f.a i).val (s.rdSrc .rns f.b i).val (if f.fn = 3 then (s.rdSrc .rns f.c i).val else 0), 0⟩))

/-- RNS_DEC (R127). -/
def execRnsDec (f : VForm) (s : State) : Host.Outcome State Fault Refusal :=
  s.finish (.rnsDec f) do
    s.checkVecs (s.g.execLanes f.g) (f.d.vecOp f.ty.is64 ++ f.a.vecOp false)
    s.rnsCheck f [f.a]
    .ok (.go (s.wrDst f.g f.ty f.d fun i => ⟨f.ty.ofInt (rnsDecode (s.rdSrc .rns f.a i).val), 0⟩))

end Sys2Proof.Machine
end

