-- ==== Sys2Proof/Machine/Convert.lean ====
section
/-! DEFINITION. Conversions and tails (chapter 06, R143 to R157). -/

namespace Sys2Proof.Machine

/-- Is a conversion between float types widening (R144)? -/
def widening (src dst : Ty) : Bool :=
  match dst with
  | .f64 => src != .f64
  | .f32 => src != .f64 && src != .f32
  | .f16 | .bf16 => src == .f8e4 || src == .f8e5 || src == .f4
  | .f8e4 | .f8e5 => src == .f4
  | _ => false

/-- The result of a narrowing `fcvt` in lane i (R144): the exact tailed value is formed in the destination type, and
the source's sticky bit survives unless FTZ flushes. -/
def State.narrowOut (s : State) (f : VForm) (src : Ty) (v : FVal) (tail : Tail) (i : Nat) : FOut :=
  let w := s.fpcAt f.g i
  let x := dazVal (fpcDaz w) src (tailedVal src v tail)
  let r := s.formed f f.ty i x 0
  let flushed := match x.scale f.mods.scl.toInt with
    | .num y => fpcFtz w && y.tiny f.ty (s.effMode f i)
    | _ => false
  { r with tail := if flushed then r.tail else r.tail ||| (tail &&& 1) }

/-- The result of `fcvt` in lane i (R144). -/
def State.fcvtOut (s : State) (f : VForm) (src : Ty) (i : Nat) : FOut :=
  let a := s.rdSrc src f.a i
  let v := signMods f.mods.absA f.mods.negA (readFloat src a.val)
  if v.isNan then ⟨nanBits f.ty, 0, sigFlag v⟩
  else if widening src f.ty then
    let m := s.effMode f i
    let z := settleVal src v a.tail m (if m = 5 then s.rho i 0 else 0)
    s.formed f f.ty i (dazVal (fpcDaz (s.fpcAt f.g i)) src z.v) z.f
  else s.narrowOut f src v a.tail i

/-- FCVT (R144): TY is the destination, FN the source; only the widening form settles. -/
def execFcvt (f : VForm) (s : State) : Host.Outcome State Fault Refusal :=
  let src := Ty.ofCode f.fn
  s.finish (.fcvt f) (s.fpBody f f.ty (f.d.vecOp f.ty.is64 ++ f.a.vecOp src.is64) (widening src f.ty) (s.fcvtOut f src))

/-- The register bits of a final value with tail 0. -/
def finalOut (t : Ty) (r : FVal × Flags) : FOut := ⟨valBits t r.1, 0, r.2⟩

/-- The final rounding of a carrier in lane i with the modifiers of an instruction: `settle` and `fpack`. -/
def State.settleRound (s : State) (f : VForm) (i : Nat) : FVal × Flags :=
  let a := s.rdSrc f.ty f.a i
  let v := readFloat f.ty a.val
  let m := s.effMode f i
  let x := (signMods f.mods.absA f.mods.negA (tailedVal f.ty v a.tail)).scale f.mods.scl.toInt
  finalRound f.ty m (if m = 5 then s.rho i 0 else 0) (fpcFtz (s.fpcAt f.g i)) f.mods.sat (a.tail.getLsbD 0)
    (s.fpClamp f f.ty i x)

/-- SETTLE (R145). -/
def execSettle (f : VForm) (s : State) : Host.Outcome State Fault Refusal :=
  s.finish (.settle f) (s.fpBody f f.ty (f.ops1 f.ty) true fun i => finalOut f.ty (s.settleRound f i))

/-- A number rounded to an integer by a mode; under STO `frac` is added in units of 2^-32 and the sum truncated
(R146, R148). -/
def FNum.toIntegral (x : FNum) (mode frac : Nat) : Nat :=
  if mode = 5 then
    let k := min x.e (-32)
    (x.m * pow2 (x.e - k) + frac * pow2 (-32 - k)) / pow2 (-k)
  else x.roundAt mode 0

/-- Is the number off the integers? -/
def FNum.fractional (x : FNum) : Bool := (x.at 0).2

/-- The result of `f2i` in lane i (R146): NX of the settle step stays when that step has rounded to infinity. DESIGN CHOICE: it also
stays when DAZ then makes the settled value zero, of which the manual says nothing (log entry 91). -/
def State.f2iOut (s : State) (f : VForm) (src : Ty) (i : Nat) : FOut :=
  let a := s.rdSrc src f.a i
  let m := s.effMode f i
  let d := s.draw i 0
  let z := settleVal src (readFloat src a.val) a.tail m (if m = 5 then (d.extractLsb' 32 32).toNat else 0)
  let out (n : Int) (nx : Bool) : FOut :=
    let k := s.intClamp f.ty f.m n
    let inRange := f.ty.intMin ≤ k && k ≤ f.ty.intMax
    ⟨f.ty.ofInt (f.ty.clamp k), 0, if inRange || f.mods.sat then flagIf nx fNX else fNV⟩
  match dazVal (fpcDaz (s.fpcAt f.g i)) src z.v with
  | .nan _ => ⟨0, 0, fNV⟩
  | .inf n => out (if n then -(2 ^ 70 : Nat) else (2 ^ 70 : Nat)) (z.f.getLsbD 0)
  | .num x =>
    let k := x.toIntegral m (d.extractLsb' 0 32).toNat
    out (if x.neg then -(k : Int) else k) (z.f.getLsbD 0 || x.fractional)

/-- F2I (R146). -/
def execF2i (f : VForm) (s : State) : Host.Outcome State Fault Refusal :=
  let src := Ty.ofCode f.fn
  s.finish (.f2i f) (s.fpBody f f.ty (f.d.vecOp f.ty.is64 ++ f.a.vecOp src.is64) true (s.f2iOut f src))

/-- I2F (R147). -/
def execI2f (f : VForm) (s : State) : Host.Outcome State Fault Refusal :=
  let src := Ty.ofCode f.fn
  s.finish (.i2f f) (s.fpBody f f.ty (f.d.vecOp f.ty.is64 ++ f.a.vecOp src.is64) false
    fun i => s.formed f f.ty i (intVal (s.intSrc src f.a i)) 0)

/-- The result of `frnd` in lane i (R148): one mix value settles the operand and rounds its fraction. -/
def State.frndOut (s : State) (f : VForm) (i : Nat) : FOut :=
  match s.fpA f f.ty i with
  | (.num x, fl) =>
    if x.fractional then
      let k := x.toIntegral (s.effMode f i) ((s.draw i 0).extractLsb' 0 32).toNat
      ⟨numBits f.ty x.neg k 0, 0, fl ||| flagIf (f.fn == 1) fNX⟩
    else ⟨numBits f.ty x.neg x.m x.e, 0, fl⟩
  | (v, fl) => ⟨valBits f.ty v, 0, fl⟩

/-- FRND (R148). -/
def execFrnd (f : VForm) (s : State) : Host.Outcome State Fault Refusal :=
  s.finish (.frnd f) (s.fpBody f f.ty (f.ops1 f.ty) true (s.frndOut f))

/-- The class mask of a register value and tail (R149). -/
def classMask (t : Ty) (v : FVal) (tail : Tail) : Nat :=
  let c := match v with
    | .nan sig => if sig then 1 else 2
    | .inf n => if n then 4 else 512
    | .num x =>
      if x.isZero then (if x.neg then 32 else 64)
      else if belowMin t x.m x.e then (if x.neg then 16 else 128)
      else if x.neg then 8 else 256
  let ovf : Bool := match v with
    | .num x => tail == 7 && cmpMag x ⟨false, t.max.1, t.max.2, false⟩ == .eq
    | _ => false
  c + (if ovf then 1024 else 0) + (if tail = 0 then 0 else 2048)

/-- FCLASS (R149): the mask is an n32. -/
def execFclass (f : VForm) (s : State) : Host.Outcome State Fault Refusal :=
  s.finish (.fclass f) do
    s.checkVecs (s.g.execLanes f.g) (f.d.vecOp false ++ f.a.vecOp f.ty.is64)
    .ok (.go (s.wrDst f.g .n32 f.d fun i =>
      let a := s.rdSrc f.ty f.a i
      ⟨BitVec.ofNat 64 (classMask f.ty (readFloat f.ty a.val) a.tail), 0⟩))

/-- An exponent kept where the formed result no longer changes: beyond ±5000 every format of R130 under every SCL
overflows or underflows alike. -/
def capExp (b : Int) : Int := max (-5000) (min b 5000)

/-- FSCALE (R150): B is an i32, its tail ignored. -/
def execFscale (f : VForm) (s : State) : Host.Outcome State Fault Refusal :=
  s.finish (.fscale f) (s.fpBody f f.ty (f.d.vecOp f.ty.is64 ++ f.a.vecOp f.ty.is64 ++ f.b.vecOp false) true fun i =>
    let a := s.fpA f f.ty i
    s.formed f f.ty i (a.1.scale (capExp (s.intSrc .i32 f.b i))) a.2)

/-- The exponent that `fxtr.exp` writes (R151). -/
def expOf (v : FVal) : Int :=
  match v with
  | .num x => if x.isZero then -(2 ^ 31 : Nat) else x.log
  | _ => 0x7FFFFFFF

/-- FXTR.exp (R151): an i32 in one register. -/
def execFxtrExp (f : VForm) (s : State) : Host.Outcome State Fault Refusal :=
  s.finish (.fxtrExp f) (s.fpBody f .i32 (f.d.vecOp false ++ f.a.vecOp f.ty.is64) true fun i =>
    let a := s.fpA f f.ty i
    ⟨Ty.ofInt .i32 (expOf a.1), 0, a.2⟩)

/-- The significand that `fxtr.sig` writes (R151). -/
def sigOf (v : FVal) : FVal :=
  match v with
  | .num x => if x.isZero then v else v.scale (-x.log)
  | v => v

/-- FXTR.sig (R151). -/
def execFxtrSig (f : VForm) (s : State) : Host.Outcome State Fault Refusal :=
  s.finish (.fxtrSig f) (s.fpBody f f.ty (f.ops1 f.ty) true fun i =>
    let a := s.fpA f f.ty i
    ⟨valBits f.ty (sigOf a.1), 0, a.2⟩)

/-! ### Tails and FPC (R152 to R154) -/

/-- TGET (R152). -/
def execTget (f : VForm) (s : State) : Host.Outcome State Fault Refusal :=
  s.finish (.tget f) do
    s.checkVecs (s.g.execLanes f.g) (f.ops1 .n32)
    .ok (.go (s.wrDst f.g .n32 f.d fun i => ⟨(s.rdSrc .n32 f.a i).tail.setWidth 64, 0⟩))

/-- TSET (R152). -/
def execTset (f : VForm) (s : State) : Host.Outcome State Fault Refusal :=
  s.finish (.tset f) do
    s.checkVecs (s.g.execLanes f.g) (f.ops2 .n32)
    .ok (.go (s.wrDst f.g .n32 f.d fun i => ⟨(s.rdSrc .n32 f.a i).val, (s.rdSrc .n32 f.b i).val.setWidth 3⟩))

/-- FPCR (R153). -/
def execFpcr (f : VForm) (s : State) : Host.Outcome State Fault Refusal :=
  s.finish (.fpcr f) do
    s.checkVecs (s.g.execLanes f.g) (f.d.vecOp false)
    .ok (.go (s.wrDst f.g .n32 f.d fun i => ⟨(s.g.fpcOf i).setWidth 64, 0⟩))

/-- The FPC that `fpcw` would write (R153). -/
def fpcNew (fn : BitVec 4) (old a : Word) : Word := if fn = 0 then a else if fn = 1 then old ||| a else old &&& ~~~a

/-- A value that FPC does not take (R38, R153). -/
def fpcReserved (w : Word) : Bool := w.extractLsb' 15 17 != 0 || 6 ≤ fpcRm w

/-- FPCW (R153). -/
def execFpcw (f : VForm) (s : State) : Host.Outcome State Fault Refusal :=
  s.finish (.fpcw f) do
    s.checkVecs (s.g.execLanes f.g) (f.a.vecOp false)
    let new (i : Nat) : Word := fpcNew f.fn (s.g.fpcOf i) ((s.rdSrc .n32 f.a i).val.setWidth 32)
    let l := lanesOf (s.g.execLanes f.g)
    let bad := laneSet fun i => (s.g.execLanes f.g).getLsbD i && fpcReserved (new i)
    require (bad == 0) (trapGen .reserved 0x46 bad)
    .ok (.go (s.setG (l.foldl (fun g i => g.setFpc i (new i)) s.g)))

/-! ### Packed containers (R155, R156) -/

/-- A container with slot c of width w replaced. -/
def packSlot (w c b x : Nat) : Nat := b - (b / 2 ^ (w * c) % 2 ^ w) * 2 ^ (w * c) + (x % 2 ^ w) * 2 ^ (w * c)

/-- FPACK (R155). -/
def execFpack (f : VForm) (s : State) : Host.Outcome State Fault Refusal :=
  s.finish (.fpack f) (s.fpBody f .n32 (f.d.vecOp false ++ f.a.vecOp false ++ f.b.vecOp false) true fun i =>
    let r := s.settleRound f i
    ⟨BitVec.ofNat 64 (packSlot f.ty.packWidth (immNat f.c) (s.rdSrc .n32 f.b i).val.toNat (encodeMem f.ty r.1)), 0, r.2⟩)

/-- FUNPK (R156). -/
def execFunpk (f : VForm) (s : State) : Host.Outcome State Fault Refusal :=
  s.finish (.funpk f) do
    s.checkVecs (s.g.execLanes f.g) (f.d.vecOp false ++ f.a.vecOp false)
    .ok (.go (s.wrDst f.g .f32 f.d fun i =>
      let x := (s.rdSrc .n32 f.a i).val.toNat / 2 ^ (f.ty.packWidth * immNat f.b) % 2 ^ f.ty.packWidth
      ⟨valBits .f32 (decodeMem f.ty x), 0⟩))

end Sys2Proof.Machine
end

