-- ==== Sys2Proof/Machine/Fetch.lean ====
section
/-! DEFINITION. Fetching an instruction (R65 order 1, R84), and what an instruction waits for before it is tried:
the scoreboard (R85) and lost registers (R207). -/

namespace Sys2Proof.Machine

/-! ### Fetch -/

/-- What a fetch answers: the words, a line that the instruction cache lacks, a page that the TLBs lack, a fault, with the word's MW
where the word itself could be read. -/
inductive Fetched where
  | words (w m : BitVec 96)
  | miss (line : Nat)
  | walk (va : DWord)
  | bad (e : AccErr) (mw : Bool)
  | model (f : Fault)
deriving DecidableEq, Repr

/-- A fetch of 4 bytes of code: ACC 3. -/
def fetchAccess (user : Bool) : Access := { acc := 3, size := 4, user := user }

/-- The location of 4 bytes of code. Code in a window has no execute permission (R220), and a code address is
checked like any other, its alignment among the checks (R52, R190, log entry 13). -/
def State.codeLoc (s : State) (g : Group) (ea : DWord) : Except AccStop Loc :=
  let a := fetchAccess (!g.mode)
  let w := (steer (s.ctxCore g.core g.asid) ea).1
  if !canonical ea then .error (a.err .aperture 7 0 0xE ea)
  else if ea.toNat % 4 != 0 then .error (a.err .align 7 w.num 0xD ea)
  else if w == .global then s.resolveGlobal g.core g.asid a ea
  else .error (a.err .protect 7 w.num 0x3 ea)

/-- Tag of the instruction-cache line of an address. -/
def codeLine (asid : BitVec 16) (ea : DWord) : Nat := asid.toNat * 2 ^ 64 + ea.toNat / 128

/-- Does the core's instruction cache hold the line? -/
def State.icHit (s : State) (core line : Nat) : Bool := s.icache.contains (core, line)

/-- Lines an instruction cache of 64 KiB holds (R13). -/
def icLines : Nat := 512

/-- The line enters a core's instruction cache; the oldest gives way (log entry 9). -/
def State.icFill (s : State) (core line : Nat) : State :=
  let mine := (s.icache.filter fun p => p.1 == core && p.2 != line).take (icLines - 1)
  { s with icache := (core, line) :: (mine ++ s.icache.filter fun p => p.1 != core) }

/-- The 4 bytes of code at an address, whatever the caches hold: none where they cannot be read. -/
def State.codeValue (s : State) (g : Group) (ea : DWord) : Except Fetched Nat :=
  match s.codeLoc g ea with
  | .error (.err e) => .error (.bad e false)
  | .error (.model f) => .error (.model f)
  | .ok l => match s.badByte 4 [⟨96, ea, l⟩] with
    | some b => .error (.bad { s.lossErr g.core g.asid 3 4 ea with faddr := b.2 } false)
    | none => .ok (leValue ((List.range 4).map (s.homeByte l)))

/-- The 4 bytes of code at an address: an instruction waits for its translation (stall reason 30) and for its line of the
instruction cache (R84, R86, R224). -/
def State.codeWord (s : State) (g : Group) (ea : DWord) : Except Fetched Nat :=
  match s.codeValue g ea with
  | .error e => .error e
  | .ok v =>
    if !s.icHit g.core (codeLine g.asid ea) then .error (.miss (codeLine g.asid ea))
    else if (s.tlbFind g.core g.asid ea).isNone then .error (.walk ea)
    else .ok v

/-- Twelve bytes of code from three words, lowest first (R2, R52). -/
def code96 (word : DWord → Except Fetched Nat) (ea : DWord) : Except Fetched (BitVec 96) :=
  match word ea, word (ea + 4), word (ea + 8) with
  | .error e, _, _ => .error e
  | _, .error e, _ => .error e
  | _, _, .error e => .error e
  | .ok a, .ok b, .ok c => .ok (BitVec.ofNat 96 (a + 2 ^ 32 * b + 2 ^ 64 * c))

/-- A fetch that has read a word with MW = 1 and goes on to its modifier word. -/
def Fetched.afterWord : Fetched → Fetched
  | .bad e _ => .bad e true
  | f => f

/-- The instruction word at the group's pc with its modifier word, when MW is set (R52, R65). -/
def State.fetch (s : State) (g : Group) : Fetched :=
  match code96 (s.codeWord g) g.pc with
  | .error e => e
  | .ok w => if wordMw w then
      match code96 (s.codeWord g) (g.pc + 12) with
      | .error e => e.afterWord
      | .ok m => .words w m
    else .words w 0

/-- MW of the instruction at a group's pc, where it can be read (R365); it is 0 for one that cannot (log entry 13). -/
def State.mwAt (s : State) (g : Group) : Bool :=
  match code96 (s.codeValue g) g.pc with
  | .ok w => wordMw w
  | .error _ => false

/-! ### The scoreboard -/

/-- Opcodes that read or write register space, or the whole group's state, beyond the fields they name: the matrix
instructions with tiles, `rgn`, `tbar`, `cdmp`. -/
def wholeState (op : Nat) : Bool := [0xC2, 0xC3, 0xC4, 0xC5, 0xD0, 0x10, 0xF2].contains op

/-- Scalar registers that a pending load will write. -/
def LoadDst.scals (d : LoadDst) : List Nat := match d with | .scal n _ => [n] | _ => []
/-- Places of register space that a pending load will write. -/
def LoadDst.places (d : LoadDst) : List RsPlace := match d with | .words l => l.map fun p => p.1 | _ => []

/-- The stall reason of the scoreboard for some pending loads (R26, R85, R86): an earlier load has a pending write to a granule or a
tile that the instruction reads or writes (3, 6), to a scalar that it reads or writes, or to the mask (4). -/
def Group.waitsOn (g : Group) (i : Instr) (loads : List PendingLoad) : Option Nat :=
  if loads == [] then none
  else match i.view with
    | none => none
    | some (op, f) =>
      let ops := readVecs op f ++ writeVecs op f
      let ps := loads.flatMap fun l => l.dst.scals
      let pv := loads.flatMap fun l => l.dst.places
      let tiles := pv.filterMap fun p => p.acc.map accPlace
      let named := if tiles == [] then [] else (g.opBytes ops).filterMap fun b => (g.place b).acc.map accPlace
      if shares (pv.map fun p => granule p.byte) (g.granules ops) || (wholeState op && pv != []) then some 3
      else if shares ps (readScals op f ++ writeScals op f ++ [61, 62, 63]) || (wholeState op && ps != []) then some 4
      else if shares tiles named then some 6
      else none

/-- The stall reason of the scoreboard for the group's next instruction. -/
def scoreboard (g : Group) (i : Instr) : Option Nat := g.waitsOn i g.loads

/-- The stall reason of the hazards that the issuing group's instruction meets: its own earlier loads (R85), matrix operations on a tile
that it reads or writes through a window (R31, R51). -/
def State.hazard (s : State) (i : Instr) : Option Nat :=
  match scoreboard s.g i with
  | some r => some r
  | none => match i.view with
    | some (op, f) => if s.mxStall (readVecs op f) (writeVecs op f) then some 6 else none
    | none => none

/-! ### Registers that are lost -/

/-- Opcodes in which a lane depends on the registers of other lanes (chapter 08). -/
def crossLane (op : Nat) : Bool := 0x70 ≤ op && op < 0x80

/-- Lanes of the operand's register that an executing lane reads: its own through the pattern, or, in a cross-lane instruction, any
(log entry 80). -/
def lanesRead (op : Nat) (e : Lanes) (p : Pattern) (i : Nat) : List Nat :=
  if !crossLane op then (p.lane i).toList
  else if [0x70, 0x75, 0x77].contains op then List.range 96
  else (lanesOf e).filterMap p.lane

/-- The places that an executing lane of an instruction reads. -/
def Group.readPlaces (g : Group) (op : Nat) (f : Form) (i : Nat) : List RsPlace :=
  ((readVecs op f).flatMap fun o => (lanesRead op (g.execLanes f.guard) o.pat i).flatMap (g.laneBytes o)).map g.place

/-- The predicates that an instruction names as sources (R37, R104 to R106, R116, R181). -/
def readPreds (op : Nat) (f : Form) : List Nat :=
  let sp (x : Src) : List Nat := match x with | .special n _ => [n.toNat] | _ => []
  match f with
    | .v x => if [0x0C, 0x0E, 0x0F, 0x73].contains op then sp x.a ++ sp x.b else if op == 0x2A then sp x.c else []
    | _ => []

/-- Does an instruction act once for the group, so that it acts without an executing lane (R56)? -/
def actsOnce (op : Nat) (f : Form) : Bool := (readVecs op f ++ writeVecs op f) == [] || 0x80 ≤ op

/-- Does the instruction save the whole group: `rgn` and `tbar` outside a handler, `cdmp`? It then reads all of the group's scalars
and predicates, the held join stack, and the vector registers of the checkpoint. -/
def Group.savesAll (g : Group) (op : Nat) : Bool := op == 0xF2 || !g.inHandler && (op == 0xD0 || op == 0x10)

/-- Places of the vector registers that the checkpoint of `rgn` or `tbar` saves. -/
def Group.savedPlaces (g : Group) (op : Nat) (f : Form) : List RsPlace :=
  let ranges := match op, f with
    | 0xD0, .v x => rgnRanges x
    | 0x10, _ => g.ranges
    | _, _ => []
  ((rangeRegs ranges).flatMap fun n => (List.range 96).map (g.vByte n)).map g.place

/-- The executing lanes in which an instruction reads something that is lost; none when it reads nothing of it (R207). A guard is read
whether it lets a lane execute or not (R55). DESIGN CHOICE: of a lost predicate, the guard's too, the lanes are the executing ones by
the value that it has kept (log entry 99). -/
def Group.lossLanes (g : Group) (op : Nat) (f : Form) (r : RegName) : Option Lanes :=
  let e := g.execLanes f.guard
  let acts : Bool := if actsOnce op f then g.groupExec f.guard else e != 0
  let whole (b : Bool) : Option Lanes := if b && acts then some e else none
  match r with
  | .scal n => whole ((readScals op f).contains n || g.savesAll op)
  | .pred n =>
    if n = 0 then none
    else if f.guard.pred.val = n then some e
    else whole ((readPreds op f).contains n || g.savesAll op)
  | .join => whole (op == 0x08 || g.savesAll op)
  | .path _ => none
  | .word p =>
    let m := laneSet fun i => e.getLsbD i && (g.readPlaces op f i).any p.same
    if m ≠ 0 then some m else whole ((g.savedPlaces op f).any p.same)

/-- The losses that an instruction of the group meets, each with the lanes that read it. -/
def Group.lossesMet (g : Group) (i : Instr) (l : List Loss) : List (Loss × Lanes) :=
  if l == [] then []
  else match i.view with
    | none => []
    | some (op, f) => l.filterMap fun x => (g.lossLanes op f x.reg).map fun m => (x, m)

/-- Of the losses met, the one that the lowest lane reads, the earliest of several, and every lane that reads one with its code (R66,
R205). -/
def pickLoss (l : List (Loss × Lanes)) : Option (Loss × Lanes) :=
  let low (p : Loss × Lanes) : Nat := (lowestLane p.2).getD 96
  (l.foldl (fun b p => match b with
    | none => some p
    | some q => if low p < low q then some p else some q) none).map fun q =>
      (q.1, l.foldl (fun m p => if p.1.code == q.1.code then m ||| p.2 else m) 0)

/-- The losses of accumulator words with uncorrectable data, which the window of a group reads (R426): FADDR is not stated for a
register; it is 0 here (log entry 80). -/
def State.accLosses (s : State) : List Loss :=
  s.poison.filterMap fun c => match c with
    | .accum k => some ⟨.word ⟨0, some k⟩, .dataLost, 0, (⟨.dataLost, 7, 0, 0xC, 0, 0, 2⟩ : AccErr).finfo s.g.asid⟩
    | _ => none

/-- May the group issue the instruction in its mode and with its debug privilege (R41, R65 order 5, R221, R222, R364)? -/
def Group.mayIssue (g : Group) (op : Nat) (f : Form) : Bool :=
  match op, f with
  | 0x89, _ | 0x8A, _ | 0xE9, _ => g.mode
  | 0xEA, .v x => g.mode || !trapReg x.a.specialNum
  | 0xEB, .v x => g.mode || !trapReg x.d.specialNum
  | 0xEC, .v x => g.dbg || (readScals op (.v x)).all (· == 0)
  | 0xED, _ | 0xF2, _ => g.mode || g.dbg
  | 0xEE, _ | 0xEF, _ | 0xF0, _ => g.dbg
  | _, _ => true

/-- Does the instruction pass the checks of R65 that need the group's views and mode, before it reads a register (orders 4 and 5)? -/
def Group.passes (g : Group) (i : Instr) : Bool :=
  match i.view with
  | none => true
  | some (op, f) => (readVecs op f ++ writeVecs op f).all g.vecOk && g.mayIssue op f
      && (match op, f with | 0xD0, .v x => g.rangesOk x | _, _ => true)

/-- The fault of a loss at its consumer (R207, R339): it is the instruction's own (R66). -/
def lostTrap (i : Instr) (l : Loss) (lanes : Lanes) : TrapInfo :=
  { code := l.code, faddr := l.faddr, finfo := l.finfo, mask := lanes, async := false, ilen := (instrHead i).2.2 == 24 }

end Sys2Proof.Machine
end

