-- ==== Sys2Proof/Machine/Special.lean ====
section
/-! DEFINITION. The special functions (R169, R170): the exact function to far more bits than any format holds,
and the device's own approximation as a free value inside the bound. -/

namespace Sys2Proof.Machine

/-! ### Fixed-point evaluation, 1400 bits after the point -/

/-- Fraction bits. -/
def fxW : Nat := 1400
/-- The number 1. -/
def fxOne : Int := (2 ^ fxW : Nat)
/-- The product, rounded down. -/
def fxMul (a b : Int) : Int := a * b / fxOne

/-- 1 + x/k·(1 + x/(k+1)·(…)), the exponential series from term k, with `n` terms. -/
def fxExpFrom (x : Int) : Nat → Nat → Int
  | 0, _ => fxOne
  | n + 1, k => fxOne + fxMul x (fxExpFrom x n (k + 1)) / (k : Int)

/-- 1 − y/(k(k+1))·(1 − y/((k+2)(k+3))·(…)): cos for k = 1 and sin x / x for k = 2, with y = x². -/
def fxTrigFrom (y : Int) : Nat → Nat → Int
  | 0, _ => fxOne
  | n + 1, k => fxOne - fxMul y (fxTrigFrom y n (k + 2)) / ((k * (k + 1) : Nat) : Int)

/-- 1/k + y/(k+2) + y²/(k+4) + …: atanh for k = 1 with y = x², atan with y = −x². -/
def fxOddFrom (y : Int) : Nat → Nat → Int
  | 0, _ => 0
  | n + 1, k => fxOne / (k : Int) + fxMul y (fxOddFrom y n (k + 2))

/-- π by Machin's formula. -/
def fxPi : Int :=
  16 * (fxOddFrom (-(fxOne / 25)) 310 1 / 5) - 4 * (fxOddFrom (-(fxOne / 57121)) 100 1 / 239)

/-- ln 2 as 2·atanh(1/3). -/
def fxLn2 : Int := 2 * (fxOddFrom (fxOne / 9) 450 1 / 3)

/-- A number as a fixed-point integer, rounded toward zero. -/
def FNum.toFx (x : FNum) : Int :=
  let m := (x.at (-(fxW : Int))).1
  if x.neg then -(m : Int) else m

/-- A fixed-point integer as a number. -/
def fxNum (z : Int) : FNum := ⟨z < 0, z.natAbs, -(fxW : Int), false⟩

/-- 1/a. -/
def exactRcp (a : FNum) : FNum := ⟨a.neg, pow2 (fxW - a.e) / a.m, -(fxW : Int), false⟩
/-- 1/√a. -/
def exactRsq (a : FNum) : FNum := ⟨false, isqrt (pow2 (2 * fxW - a.e) / a.m), -(fxW : Int), false⟩

/-- 2^a; the exponent is kept within ±5000, beyond which every format overflows or underflows alike. -/
def exactExp2 (a : FNum) : FNum :=
  let big := decide (14 < a.log)
  let z := if big then (if a.neg then -5000 * fxOne else 5000 * fxOne) else a.toFx
  let n := z / fxOne
  ⟨false, (fxExpFrom (fxMul (z - n * fxOne) fxLn2) 260 1).toNat, n - (fxW : Int), false⟩

/-- log2 a of a positive number. -/
def exactLog2 (a : FNum) : FNum :=
  let k : Nat := Nat.log2 a.m
  let m : Int := (a.m * 2 ^ (fxW - k) : Nat)                    -- in [1, 2)
  let y := (m - fxOne) * fxOne / (m + fxOne)
  let ln := 2 * fxMul y (fxOddFrom (fxMul y y) 460 1)
  fxNum (a.log * fxOne + ln * fxOne / fxLn2)

/-- sin(πa), or cos(πa), of no multiple of 1/2: a = q/2 + d with |d| ≤ 1/4. The value is never 1, so that one which all the places
round to 1 lies below it. -/
def exactTrig (cosine : Bool) (a : FNum) : FNum :=
  let z := a.toFx
  let q := (2 * z + fxOne / 2) / fxOne
  let d := z - q * (fxOne / 2)
  let x := fxMul d fxPi
  let y := fxMul x x
  let k := (q + (if cosine then 1 else 0)) % 4
  let v := if k % 2 = 1 then min (fxTrigFrom y 130 1) (fxOne - 1) else fxMul x (fxTrigFrom y 130 2)
  fxNum (if 2 ≤ k then -v else v)

/-- tanh a; from |a| = 400 on it is 1 to beyond every grid. -/
def exactTanh (a : FNum) : FNum :=
  let x : Int := if 9 ≤ a.log then 400 * fxOne else min (400 * fxOne) (a.toFx.natAbs : Int)
  let t := 2 * x * fxOne / fxLn2                                 -- e^(2x) = 2^t
  let n := t / fxOne
  let u := if x < fxOne / 4 then fxExpFrom (2 * x) 260 1
    else fxExpFrom (fxMul (t - n * fxOne) fxLn2) 260 1 * (2 ^ n.toNat : Nat)
  { fxNum ((u - fxOne) * fxOne / (u + fxOne)) with neg := a.neg }

/-- The exact function by number: frcp, frsq, fexp2, flog2, fsinpi, fcospi, ftanh. -/
def exactFn (fn : Nat) (a : FNum) : FNum :=
  match fn with
  | 0 => exactRcp a
  | 1 => exactRsq a
  | 2 => exactExp2 a
  | 3 => exactLog2 a
  | 4 => exactTrig false a
  | 5 => exactTrig true a
  | _ => exactTanh a

/-! ### Exact cases and special values -/

/-- Is the magnitude a power of two? -/
def FNum.isPow2 (x : FNum) : Bool := x.m != 0 && x.m == 2 ^ Nat.log2 x.m
/-- Is 2^n a value of the type? -/
def pow2In (t : Ty) (n : Int) : Bool := t.emin - t.prec + 1 ≤ n && n ≤ (FNum.log ⟨false, t.max.1, t.max.2, false⟩)
/-- Twice the number, as an integer, when it is one. -/
def FNum.twice (x : FNum) : Option Int :=
  if (x.at (-1)).2 then none else some (if x.neg then -((x.at (-1)).1 : Int) else (x.at (-1)).1)

/-- The number 2^n. -/
def pow2Val (neg : Bool) (n : Int) : FVal := .num ⟨neg, 1, n, false⟩
/-- A signed zero. -/
def zeroVal (neg : Bool) : FVal := .num ⟨neg, 0, 0, false⟩
/-- A signed one. -/
def oneVal (neg : Bool) : FVal := .num ⟨neg, 1, 0, false⟩

/-- The exact cases of R169 and the special values of R170 on a finite non-zero operand; none where the result is
approximated. -/
def specialNum (fn : Nat) (t : Ty) (a : FNum) : Option (FVal × Flags) :=
  match fn with
  | 0 => if a.isPow2 && pow2In t (-a.log) then some (pow2Val a.neg (-a.log), 0) else none
  | 1 =>
    if a.neg then some (.nan false, fNV)
    else if a.isPow2 && a.log % 2 == 0 then some (pow2Val false (-(a.log / 2)), 0) else none
  | 2 =>
    match if a.log ≤ 14 then a.twice else none with
    | some n => if n % 2 = 0 && pow2In t (n / 2) then some (pow2Val false (n / 2), 0) else none
    | none => none
  | 3 =>
    if a.neg then some (.nan false, fNV)
    else if a.isPow2 then some (intVal a.log, 0) else none
  | 4 =>
    match a.twice with
    | some n => if n % 2 = 0 then some (zeroVal (n < 0), 0) else some (oneVal ((n / 2) % 2 != 0), 0)
    | none => none
  | 5 =>
    match a.twice with
    | some n => if n % 2 = 0 then some (oneVal ((n / 2) % 2 != 0), 0) else some (zeroVal false, 0)
    | none => none
  | _ => none

/-- R170 for zero operands. `ftanh` has no exact case, so that its zero raises NX (R169, log entry 92). -/
def specialZero (fn : Nat) (neg : Bool) : FVal × Flags :=
  match fn with
  | 0 | 1 => (.inf neg, fDZ)
  | 2 | 5 => (oneVal false, 0)
  | 3 => (.inf true, fDZ)
  | 4 => (zeroVal neg, 0)
  | _ => (zeroVal neg, fNX)

/-- R170 for infinite operands: a finite result is none of R169's exact cases and raises NX (log entry 92). -/
def specialInf (fn : Nat) (neg : Bool) : FVal × Flags :=
  match fn with
  | 0 => (zeroVal neg, fNX)
  | 1 => if neg then (.nan false, fNV) else (zeroVal false, fNX)
  | 2 => if neg then (zeroVal false, fNX) else (.inf false, 0)
  | 3 => if neg then (.nan false, fNV) else (.inf false, 0)
  | 4 | 5 => (.nan false, fNV)
  | _ => (oneVal neg, fNX)

/-! ### The approximation inside its bound (R169) -/

/-- The bound in ulps. -/
def errUlps (fn : Nat) (t : Ty) : Nat :=
  if fn ≤ 1 then 1 else if t == .f32 || t == .f64 then 2 else 1

/-- The absolute bound of `flog2`, as a power of two. -/
def errAbs (fn : Nat) (t : Ty) : Option Int :=
  if fn = 3 then some (if t == .f32 then -25 else if t == .f64 then -54 else -((t.prec : Int) + 1)) else none

/-- The error bound of R169 as a multiple of 2^k, for a result with last place 2^q. -/
def errBound (fn : Nat) (t : Ty) (q k : Int) : Nat :=
  let u := errUlps fn t * pow2 (q - k)
  match errAbs fn t with
  | some a => max u (pow2 (a - k))
  | none => u

/-- A signed multiple of 2^k from a number that is one. -/
def FNum.scaled (x : FNum) (k : Int) : Int :=
  let m : Int := (x.m * pow2 (x.e - k) : Nat)
  if x.neg then -m else m

/-- Is the value `y`, settled under RNE, within the bound of the function whose value is `c` (R169)? -/
def withinBound (fn : Nat) (t : Ty) (c y : FNum) : Bool :=
  let q := c.quantum t
  let qr := y.quantum t
  let r : FNum := ⟨y.neg, y.roundAt 0 qr, qr, false⟩
  let k := min (min c.e r.e) (min q (-80))
  (r.scaled k - c.scaled k).natAbs ≤ errBound fn t q k

/-- ŷ of R169: the free value where it lies within the bound, else the function to 1400 bits (log entry 5). -/
def approx (fn : Nat) (t : Ty) (a : FNum) : FNum :=
  let c := exactFn fn a
  let q := c.quantum t
  let z : Int := (⟨c.neg, (c.at (q - 64)).1, q - 64, false⟩ : FNum).scaled (q - 64)
    + Config.specialOffset fn t.code.toNat (valBits t (.num a)).toNat
  let y : FNum := ⟨z < 0, z.natAbs, q - 64, false⟩
  if z != 0 && withinBound fn t c y then y else c

/-- The result of a special function before formation, with its own flags; NX for every approximated result. -/
def specialFn (fn : Nat) (t : Ty) (a : FVal) : FVal × Flags :=
  match a with
  | .nan _ => (.nan false, 0)
  | .inf n => specialInf fn n
  | .num x =>
    if x.isZero then specialZero fn x.neg
    else match specialNum fn t x with
      | some r => r
      | none => (.num (approx fn t x), fNX)

end Sys2Proof.Machine
end

