-- ==== Sys2Proof/Machine/FloatArith.lean ====
section
/-! DEFINITION. Float arithmetic, minimum and maximum, compares, the paired dot product, the special functions and
`rnd` (chapter 07, R158 to R172). -/

namespace Sys2Proof

/-- A compare has only scalar and immediate sources: it is evaluated once (R166). -/
def VForm.cmpOnce (f : VForm) : Bool := !f.a.isVec && !f.b.isVec

/-- Element n of a pair operand: the register above the named one holds element 1. -/
def Src.pairElt (x : Src) (n : Nat) : Src :=
  match x with
  | .vec r p => .vec (r + BitVec.ofNat 8 n) p
  | .scal r => .scal (Fin.ofNat 64 (r.val + n))
  | x => x

end Sys2Proof

namespace Sys2Proof.Machine

/-! ### Arithmetic on values (R159, R163, R164) -/

/-- a + b; `rdn` says that the effective mode is RDN, which gives a cancelled sum the sign −. -/
def addVal (rdn : Bool) (a b : FVal) : FVal × Flags :=
  match a, b with
  | .nan _, _ => (.nan false, 0)
  | _, .nan _ => (.nan false, 0)
  | .inf x, .inf y => if x == y then (.inf x, 0) else (.nan false, fNV)
  | .inf x, _ => (.inf x, 0)
  | _, .inf y => (.inf y, 0)
  | .num x, .num y => (.num (addNum x y rdn), 0)

/-- a · b. -/
def mulVal (a b : FVal) : FVal × Flags :=
  match a, b with
  | .nan _, _ => (.nan false, 0)
  | _, .nan _ => (.nan false, 0)
  | .num x, .num y => (.num (mulNum x y), 0)
  | a, b => if a.isZero || b.isZero then (.nan false, fNV) else (.inf (a.neg != b.neg), 0)

/-- a · b + c. -/
def fmaVal (rdn : Bool) (a b c : FVal) : FVal × Flags :=
  let p := mulVal a b
  let x := addVal rdn p.1 c
  (x.1, p.2 ||| x.2)

/-- a / b (R164). -/
def divVal (a b : FVal) : FVal × Flags :=
  match a, b with
  | .nan _, _ => (.nan false, 0)
  | _, .nan _ => (.nan false, 0)
  | .inf _, .inf _ => (.nan false, fNV)
  | .inf x, b => (.inf (x != b.neg), 0)
  | a, .inf y => (.num ⟨a.neg != y, 0, 0, false⟩, 0)
  | .num x, .num y =>
    if y.isZero then (if x.isZero then (.nan false, fNV) else (.inf (x.neg != y.neg), fDZ))
    else (.num (divNum x y), 0)

/-- √a (R164). -/
def sqrtVal (a : FVal) : FVal × Flags :=
  match a with
  | .nan _ => (.nan false, 0)
  | .inf n => if n then (.nan false, fNV) else (.inf false, 0)
  | .num x => if x.isZero then (a, 0) else if x.neg then (.nan false, fNV) else (.num (sqrtNum x), 0)

/-- The result of an instruction of one settled source. -/
def State.float1 (s : State) (f : VForm) (op : FVal → FVal × Flags) (i : Nat) : FOut :=
  let a := s.fpA f f.ty i
  let x := op a.1
  s.formed f f.ty i x.1 (a.2 ||| x.2)

/-- The result of an instruction of two settled sources. -/
def State.float2 (s : State) (f : VForm) (op : Bool → FVal → FVal → FVal × Flags) (i : Nat) : FOut :=
  let a := s.fpA f f.ty i
  let b := s.fpB f f.ty i
  let x := op (s.effMode f i == 3) a.1 b.1
  s.formed f f.ty i x.1 (a.2 ||| b.2 ||| x.2)

/-- The result of `fma` in lane i. -/
def State.fmaOut (s : State) (f : VForm) (i : Nat) : FOut :=
  let a := s.fpA f f.ty i
  let b := s.fpB f f.ty i
  let c := s.fpC f f.ty i
  let x := fmaVal (s.effMode f i == 3) a.1 b.1 c.1
  s.formed f f.ty i x.1 (a.2 ||| b.2 ||| c.2 ||| x.2)

/-- FADD (R163). -/
def execFadd (f : VForm) (s : State) : Host.Outcome State Fault Refusal :=
  s.finish (.fadd f) (s.fpBody f f.ty (f.ops2 f.ty) true (s.float2 f addVal))

/-- FSUB (R163). -/
def execFsub (f : VForm) (s : State) : Host.Outcome State Fault Refusal :=
  s.finish (.fsub f) (s.fpBody f f.ty (f.ops2 f.ty) true
    (s.float2 f fun rdn a b => addVal rdn a (b.withSign (!b.neg))))

/-- FMUL (R163). -/
def execFmul (f : VForm) (s : State) : Host.Outcome State Fault Refusal :=
  s.finish (.fmul f) (s.fpBody f f.ty (f.ops2 f.ty) true (s.float2 f fun _ a b => mulVal a b))

/-- FMA (R163): rounds once. -/
def execFma (f : VForm) (s : State) : Host.Outcome State Fault Refusal :=
  s.finish (.fma f) (s.fpBody f f.ty (f.ops3 f.ty) true (s.fmaOut f))

/-- FDIV (R164). -/
def execFdiv (f : VForm) (s : State) : Host.Outcome State Fault Refusal :=
  s.finish (.fdiv f) (s.fpBody f f.ty (f.ops2 f.ty) true (s.float2 f fun _ a b => divVal a b))

/-- FSQRT (R164). -/
def execFsqrt (f : VForm) (s : State) : Host.Outcome State Fault Refusal :=
  s.finish (.fsqrt f) (s.fpBody f f.ty (f.ops1 f.ty) true (s.float1 f sqrtVal))

/-! ### Minimum and maximum (R165) -/

/-- a before b, −0 before +0. -/
def orderedLt (a b : FVal) : Bool :=
  match cmpVal a b with
  | .lt => true
  | .gt => false
  | .eq => a.isZero && b.isZero && a.neg && !b.neg

/-- The selected operand: the lesser, or the greater. -/
def pickVal (greater : Bool) (a b : FVal) : FVal :=
  if greater then (if orderedLt a b then b else a) else if orderedLt b a then b else a

/-- The NaN rules of the variants: FN 0 propagates, FN 1 takes the number, FN 2 the number unless the NaN signals. `sa`
and `sb` say that the operand signals. -/
def minMaxVal (greater : Bool) (fn : BitVec 4) (sa sb : Bool) (a b : FVal) : FVal :=
  if a.isNan && b.isNan then .nan false
  else if a.isNan then (if fn = 0 || (fn = 2 && sa) then .nan false else b)
  else if b.isNan then (if fn = 0 || (fn = 2 && sb) then .nan false else a)
  else pickVal greater a b

/-- The result of `fmin` or `fmax` in lane i: nothing is formed, CLP applies. -/
def State.minMaxOut (s : State) (f : VForm) (greater : Bool) (i : Nat) : FOut :=
  let a := s.fpA f f.ty i
  let b := s.fpB f f.ty i
  let x := minMaxVal greater f.fn (a.2 != 0) (b.2 != 0) a.1 b.1
  ⟨valBits f.ty (s.fpClamp f f.ty i x), 0, a.2 ||| b.2⟩

/-- FMIN (R165). -/
def execFmin (f : VForm) (s : State) : Host.Outcome State Fault Refusal :=
  s.finish (.fmin f) (s.fpBody f f.ty (f.ops2 f.ty) true (s.minMaxOut f false))

/-- FMAX (R165). -/
def execFmax (f : VForm) (s : State) : Host.Outcome State Fault Refusal :=
  s.finish (.fmax f) (s.fpBody f f.ty (f.ops2 f.ty) true (s.minMaxOut f true))

/-! ### Compares (R166, R167) -/

/-- The condition of `fcmp` for the low three bits of FN. -/
def floatCond (cc : Nat) (a b : FVal) : Bool :=
  let un := a.isNan || b.isNan
  let c := cmpVal a b
  match cc with
  | 0 => !un && c == .eq
  | 1 => un || c != .eq
  | 2 => !un && c == .lt
  | 3 => !un && c != .gt
  | 4 => !un && c == .gt
  | 5 => !un && c != .lt
  | 6 => un
  | _ => !un

/-- The flags of a compare: the ordered relations raise NV for any NaN. -/
def cmpFlags (cc : Nat) (a b : FVal) (fl : Flags) : Flags :=
  fl ||| flagIf (2 ≤ cc && cc ≤ 5 && (a.isNan || b.isNan)) fNV

/-- The key of R167: v + sign(v)·t·q/8. -/
def rawKey (t : Ty) (v : FVal) (tail : Tail) : FVal :=
  match v with
  | .num x =>
    let q := x.quantum t
    let k := min x.e (q - 3)
    .num { x with m := x.m * pow2 (x.e - k) + tail.toNat * pow2 (q - 3 - k), e := k }
  | v => v

/-- The unsettled operand of a .raw compare with NV for a signalling NaN. -/
def State.rawOperand (s : State) (f : VForm) (x : Src) (abs neg : Bool) (i : Nat) : FVal × Flags :=
  let w := s.rdSrc f.ty x i
  let v := readFloat f.ty w.val
  (signMods abs neg (rawKey f.ty v w.tail), sigFlag v)

/-- The lanes in which a compare is evaluated; 96 stands for the one evaluation on the scalar unit. -/
def State.cmpLanes (s : State) (f : VForm) : List Nat :=
  if f.cmpOnce then (if s.g.groupExec f.g then [96] else []) else lanesOf (s.g.execLanes f.g)

/-- The body of a compare from the operands of a lane. -/
def State.cmpBody (s : State) (f : VForm) (draws : Bool) (arg : Nat → (FVal × Flags) × (FVal × Flags)) : Body := do
  s.checkVecs (s.g.execLanes f.g) (f.a.vecOp f.ty.is64 ++ f.b.vecOp f.ty.is64)
  let cc := f.fn.toNat % 8
  let res (i : Nat) : Bool := floatCond cc (arg i).1.1 (arg i).2.1
  let fl (i : Nat) : Flags := cmpFlags cc (arg i).1.1 (arg i).2.1 ((arg i).1.2 ||| (arg i).2.2)
  let l := (s.cmpLanes f).map fun i => (i, (⟨0, 0, fl i⟩ : FOut))
  s.fpCheck f.g f.mods.rmo.val l
  let one := if f.cmpOnce then res 96 else false
  let t := s.wrCompare f fun i => if f.cmpOnce then one else res i
  .ok (.go ((s.fpOr t f.g l).dixIf (draws && s.draws f f.cmpOnce)) (s.flagObs f.g l))

/-- FCMP on settled operands (R166). -/
def execFcmp (f : VForm) (s : State) : Host.Outcome State Fault Refusal :=
  s.finish (.fcmp f) (s.cmpBody f true fun i => (s.fpA f f.ty i, s.fpB f f.ty i))

/-- FCMP.raw on unsettled keys (R167). -/
def execFcmpRaw (f : VForm) (s : State) : Host.Outcome State Fault Refusal :=
  s.finish (.fcmpRaw f) (s.cmpBody f false fun i =>
    (s.rawOperand f f.a f.mods.absA f.mods.negA i, s.rawOperand f f.b f.mods.absB f.mods.negB i))

/-! ### Special functions (R169, R170) -/

/-- The body of a special function by number. -/
def State.specialBody (s : State) (f : VForm) (fn : Nat) : Body :=
  s.fpBody f f.ty (f.ops1 f.ty) true (s.float1 f (specialFn fn f.ty))

/-- FRCP (R169). -/
def execFrcp (f : VForm) (s : State) : Host.Outcome State Fault Refusal := s.finish (.frcp f) (s.specialBody f 0)
/-- FRSQ (R169). -/
def execFrsq (f : VForm) (s : State) : Host.Outcome State Fault Refusal := s.finish (.frsq f) (s.specialBody f 1)
/-- FEXP2 (R169). -/
def execFexp2 (f : VForm) (s : State) : Host.Outcome State Fault Refusal := s.finish (.fexp2 f) (s.specialBody f 2)
/-- FLOG2 (R169). -/
def execFlog2 (f : VForm) (s : State) : Host.Outcome State Fault Refusal := s.finish (.flog2 f) (s.specialBody f 3)
/-- FSINPI (R169). -/
def execFsinpi (f : VForm) (s : State) : Host.Outcome State Fault Refusal := s.finish (.fsinpi f) (s.specialBody f 4)
/-- FCOSPI (R169). -/
def execFcospi (f : VForm) (s : State) : Host.Outcome State Fault Refusal := s.finish (.fcospi f) (s.specialBody f 5)
/-- FTANH (R169). -/
def execFtanh (f : VForm) (s : State) : Host.Outcome State Fault Refusal := s.finish (.ftanh f) (s.specialBody f 6)

/-! ### The paired dot product (R168) -/

/-- Element n of A or B of `fdot2`, settled with its draw and signed. -/
def State.dotElt (s : State) (f : VForm) (x : Src) (n k : Nat) (abs neg : Bool) (i : Nat) : FVal × Flags :=
  let r := s.settledOf f f.ty (s.rdSrc f.ty (x.pairElt n) i) i k
  (signMods abs neg r.1, r.2)

/-- NV when some of the terms of a sum are infinite with opposite signs (R168). -/
def oppositeInf (l : List FVal) : Flags := flagIf (l.contains (.inf false) && l.contains (.inf true)) fNV

/-- The result of `fdot2` in lane i: formed once, as f32. -/
def State.fdot2Out (s : State) (f : VForm) (i : Nat) : FOut :=
  let m := f.mods
  let a0 := s.dotElt f f.a 0 0 m.absA m.negA i
  let a1 := s.dotElt f f.a 1 3 m.absA m.negA i
  let b0 := s.dotElt f f.b 0 1 m.absB m.negB i
  let b1 := s.dotElt f f.b 1 4 m.absB m.negB i
  let c := s.fpC f .f32 i
  let rdn := s.effMode f i == 3
  let p0 := mulVal a0.1 b0.1
  let p1 := mulVal a1.1 b1.1
  let y := addVal rdn (addVal rdn p0.1 p1.1).1 c.1
  s.formed f .f32 i y.1 (a0.2 ||| a1.2 ||| b0.2 ||| b1.2 ||| c.2 ||| p0.2 ||| p1.2 ||| oppositeInf [p0.1, p1.1, c.1])

/-- FDOT2 (R168). -/
def execFdot2 (f : VForm) (s : State) : Host.Outcome State Fault Refusal :=
  s.finish (.fdot2 f) (s.fpBody f .f32 (f.d.vecOp false ++ f.a.vecOp true ++ f.b.vecOp true ++ f.c.vecOp false) true
    (s.fdot2Out f))

/-! ### Random numbers (R171) -/

/-- The value of `rnd` in lane i. -/
def State.rndValue (s : State) (f : VForm) (i : Nat) : DWord :=
  let j := (s.rdSrc .n32 f.a i).val
  let x := mix (s.seed + j) s.g.dix (BitVec.ofNat 64 i)
  if f.ty == .n32 then (x.extractLsb' 32 32).setWidth 64
  else numBits .f32 false (x.extractLsb' 40 24).toNat (-24)

/-- RND (R171): DIX advances whether or not a lane executes. -/
def execRnd (f : VForm) (s : State) : Host.Outcome State Fault Refusal :=
  s.finish (.rnd f) do
    s.checkVecs (s.g.execLanes f.g) (f.ops1 f.ty)
    .ok (.go ((s.wrDst f.g f.ty f.d fun i => ⟨s.rndValue f i, 0⟩).dixIf true))

end Sys2Proof.Machine
end

