-- ==== Sys2Proof/Machine/Memory.lean ====
section
/-! DEFINITION. Memory-access instructions and the events that complete them (chapter 09, R190 to R224). -/

namespace Sys2Proof

/-- nol1 of R210. -/
def MForm.nol1 (f : MForm) : Bool := f.hint == .nol1

end Sys2Proof

namespace Sys2Proof.Machine

/-! ### In-flight counters (R261) -/

/-- A counter by path. -/
def Inflight.get (c : Inflight) : Path → Nat
  | .ldg => c.ldg | .stg => c.stg | .copy => c.copy | .mtx => c.mtx | .fab => c.fab | .spl => c.spl

/-- A counter changed. -/
def Inflight.set (c : Inflight) (p : Path) (n : Nat) : Inflight :=
  match p with
  | .ldg => { c with ldg := n } | .stg => { c with stg := n } | .copy => { c with copy := n }
  | .mtx => { c with mtx := n } | .fab => { c with fab := n } | .spl => { c with spl := n }

/-- Counters raised by one each. -/
def Inflight.raise (c : Inflight) (ps : List Path) : Inflight := ps.foldl (fun c p => c.set p (c.get p + 1)) c
/-- Counters lowered by one each. -/
def Inflight.lower (c : Inflight) (ps : List Path) : Inflight := ps.foldl (fun c p => c.set p (c.get p - 1)) c

/-- Would a counter pass 1,023 (R261)? -/
def Group.counterFull (g : Group) (ps : List Path) : Bool := ps.any fun p => Config.inflightMax ≤ g.inflight.get p

/-! ### The frame of Format M -/

/-- The effective mode of a Format M instruction in lane i (R64). -/
def State.effModeM (s : State) (f : MForm) (i : Nat) : Nat :=
  effModeOf (match f.m with | some m => m.rmo.val | none => 0) (s.fpcAt f.g i)

/-- Does an instruction with a scalar address make one access for each executing lane (R211)? So it does with vector data, and, on the
stack window, with a vector destination, since each lane has its own stack there (R195, R217, log entry 17). -/
def State.perLane (s : State) (f : MForm) (vecData vecDst : Bool) : Bool :=
  vecData || (vecDst && s.g.execLanes f.g != 0 && (steer (s.ctxCore s.g.core s.g.asid) (s.ea f 96)).1 == .stack)

/-- The accesses of an instruction: one for each executing lane, or one for the group as lane 96 (R56, R211). -/
def State.memPlan (s : State) (f : MForm) (perLane : Bool) : List (Nat × DWord) :=
  let lanes := lanesOf (s.g.execLanes f.g)
  if f.a.isVec then lanes.map fun i => (i, s.ea f i)
  else if perLane then lanes.map fun i => (i, s.ea f 96)
  else if s.g.groupExec f.g then [(96, s.ea f 96)]
  else []

/-- The trap mask of an access made once for the group. -/
def State.memWhole (s : State) (f : MForm) (perLane : Bool) : Option Lanes :=
  if f.a.isVec || perLane then none else some (s.g.execLanes f.g)

/-- The lanes of an instruction checked. -/
def State.memCheck (s : State) (f : MForm) (a : Access) (perLane : Bool) (extra : List LaneLoc → Option (Nat × Stop)) :
    Except Stop (List LaneLoc) :=
  s.checkLanes s.g a (!f.a.isVec) (firstLane (s.g.execLanes f.g)) (s.memWhole f perLane) extra (s.memPlan f perLane)

/-- Nothing further to fault on. -/
def noExtra : List LaneLoc → Option (Nat × Stop) := fun _ => none

/-- What an antenna sees of a lane's item: lane 96 stands for all. -/
def laneTag (i : Nat) : Option Nat := if i = 96 then none else some i

/-- The effective addresses shown to the antennae; a scalar address counts for every executing lane. -/
def addrObs (scalar : Bool) (ls : List LaneLoc) : List (Option Nat × Nat) :=
  ls.map fun l => (if scalar then none else laneTag l.lane, l.ea.toNat)

/-- The core's WAYMASK for the group's context (R47). -/
def State.waysOf (s : State) (g : Group) : BitVec 16 := (s.ctxCore g.core g.asid).ways

/-! ### Peer and host requests (R338, R339, R419) -/

/-- FINFO of R340 for a request of a group: ACC of R205, the low half of its id, no rank. -/
def reqFinfo (acc : Nat) (id : DWord) : DWord :=
  BitVec.ofNat 64 (acc + 2 ^ 16 * (id.toNat % 2 ^ 32) + 2 ^ 48 * 0xFFFF)

/-- The accesses of `n` bytes that reach peer pages leave as requests (R335, R338): `ask` gives of each the operation and its data.
Loads carry id 0; the port numbers the others. -/
def State.askPeers (s : State) (acc n : Nat) (ask : LaneLoc → PeerOp × BitVec 128 × DWord) : List LaneLoc → State × List Req
  | [] => (s, [])
  | l :: rest => match l.loc with
    | .peer dev pa =>
      let p := s.portOf dev pa
      let a := ask l
      let id := if a.1.isLoad then 0 else s.nextReq p
      let q : Req := { port := p, id := id, ea := l.ea, acc := acc, tries := 0, dev := BitVec.ofNat 16 dev, pa := pa, size := n
                       first := if a.1.isLoad then 0 else Config.sendTime p id, op := a.1, data := a.2.1, cmp := a.2.2 }
      let s1 := if a.1.isLoad then s else { s with reqIds := Store.put p id s.reqIds }
      let r := State.askPeers (s1.sendRequest q) acc n ask rest
      (r.1, q :: r.2)
    | _ => State.askPeers s acc n ask rest

/-- The request of a load. -/
def askLoad (_ : LaneLoc) : PeerOp × BitVec 128 × DWord := (.load, 0, 0)

/-- The first lane whose access goes to the memory of a host that has failed (R419). -/
def State.deadHost (s : State) (ls : List LaneLoc) : Option LaneLoc :=
  if s.hostDown == [] then none
  else ls.find? fun l => match l.loc with | .host pa => s.hostDown.contains (hostPortOf pa) | _ => false

/-- What a write to a failed host loses: its outcome, of which the waits on the given paths are told (R339, R419). -/
def State.hostLosses (s : State) (acc : Nat) (paths : List Path) (ls : List LaneLoc) : List Loss :=
  match s.deadHost ls with
  | none => []
  | some l => paths.map fun p => ⟨.path p, .outcomeUnknown, l.ea, reqFinfo acc 0⟩

/-- What the unknown outcome of an `atom` at a failed host will raise at its consumer (R339, R419). -/
def State.badHost (s : State) (ls : List LaneLoc) : Option (FCode × DWord × DWord) :=
  (s.deadHost ls).map fun l => (.outcomeUnknown, l.ea, reqFinfo 2 0)

/-- An acquire at a scope, when the instruction is one and made an access. -/
def State.acquireIf (s : State) (o : MemOrder) (scope : Scope) (any : Bool) : State :=
  if (o == .acquire || o == .acqrel) && any then s.acquireL1 s.cur scope else s

/-! ### Loads (R212) -/

/-- The value and tail that `ld` writes for `m` read with tail `mt` (R212). -/
def ldValue (t : Ty) (m : Nat) (mt : Tail) : TVal :=
  if t.isFlt then
    if t == .f32 || t == .f64 then ⟨BitVec.ofNat 64 m, mt⟩
    else ⟨valBits t (decodeMem t (if t == .f4 then m % 16 else m)), 0⟩
  else ⟨t.ofInt (t.toInt (BitVec.ofNat 64 m)), 0⟩

/-- The HBM lines, each with an address in it, that accesses of `n` bytes touch; a 64-bit access to a stack touches two (R195). -/
def hbmLines (n : Nat) (ls : List LaneLoc) : List (Nat × Nat) :=
  (ls.flatMap fun l => (List.range n).filterMap fun k => (l.loc.hbmByte k).map fun pa => (pa / 128, pa / 128 * 128)).eraseDups

/-- The lines that a load asks its L1 to fill: HBM lines that it misses (R208, R210). -/
def State.fillsOf (s : State) (hint : Hint) (n : Nat) (ls : List LaneLoc) : List FillReq :=
  if hint == .nol1 then []
  else ((hbmLines n ls).filter fun p => !s.l1Hit s.g p.2).map fun p =>
    { line := p.1, stream := hint == .stream, ways := s.waysOf s.g }

/-- Number of an L1 counter of a core: 0 hits, 1 misses (chapter 09). -/
def ctrL1 (core k : Nat) : Nat := 0x210_0000 + core * 2 + k

/-- The lines that a load looks up in its L1, counted once each as a hit or a miss; with nol1 none is (R414). -/
def State.countL1 (s : State) (hint : Hint) (n : Nat) (ls : List LaneLoc) : State :=
  if hint == .nol1 then s
  else
    let seen := (hbmLines n ls).map fun p => s.l1Hit s.g p.2
    let hits := (seen.filter id).length
    (s.bumpBy (ctrL1 s.g.core 0) hits).bumpBy (ctrL1 s.g.core 1) (seen.length - hits)

/-- The words of lane i of vector register n, or of a pair, with the value that a load gives them (R27, R39). -/
def Group.loadWords (g : Group) (n : Nat) (wide : Bool) (i : Nat) (v : TVal) : List (RsPlace × TWord) :=
  (g.place (g.vByte n i), ⟨v.val.setWidth 32, v.tail⟩)
    :: (if wide then [(g.place (g.vByte (n + 1) i), ⟨v.val.extractLsb' 32 32, 0⟩)] else [])

/-- The destination of a read in flight, resolved at its issue (R32): a scalar, or lanes of a vector register. The value of an access
made once for the group goes to every executing lane (R211). -/
def Group.loadDst (g : Group) (gd : Guard) (d : Dst) (t : Ty) (vals : List (Nat × TVal)) : LoadDst :=
  match d, vals with
  | .vec n, [(96, v)] => .words ((lanesOf (g.execLanes gd)).flatMap fun i => g.loadWords n.toNat t.is64 i v)
  | .vec n, vs => .words (vs.flatMap fun p => g.loadWords n.toNat t.is64 p.1 p.2)
  | .scal n, (_, v) :: _ => .scal n.val ⟨t.widen v.val, v.tail⟩
  | _, _ => .none

/-- Is the location global memory, as R82 and R216 mean it? -/
def Loc.isGlobal (l : Loc) : Bool := match l with | .hbm _ | .host _ | .peer _ _ | .stratus _ | .lost => true | _ => false

/-- A read sent: its counter rises, its value waits for the return (log entry 4). One that has waited on an owned line leaves the lines
filled before it to nobody's later load of the group (R234). -/
def State.sendLoad (s : State) (gd : Guard) (ls : List LaneLoc) (p : PendingLoad) : State :=
  let g := s.g
  s.setG { g with
    loads := g.loads ++ [{ p with exec := g.execLanes gd, opc := g.pc, sup := g.mode, asid := g.asid, pages := s.pagesOf g ls
                                  serial := s.clock, far := ls.any fun l => l.loc.isGlobal }]
    inflight := g.inflight.raise p.path.toList
    l1Floor := if g.ownWait then s.l1Ctr + 1 else g.l1Floor }

/-- Have the 64 outstanding requests of the issuing group's quadrant been made (R211)? An instruction's accesses are taken as one
request (log entry 81). -/
def State.requestsFull (s : State) : Bool :=
  Config.quadRequests ≤ ((s.quadGroups s.g.core s.g.quad).map fun p => p.2.loads.length + p.2.acks.length).sum

/-- Why an access with these counters must wait, once nothing in its lines holds it: the quadrant's requests (17), a full counter (15). -/
def State.sendWait (s : State) (paths : List Path) : Option Nat :=
  if s.requestsFull then some 17 else if s.g.counterFull paths then some 15 else none

/-- A read with the values of its lanes and what its issue has shown to the antennae: a chain that watches a loaded value is evaluated
as a whole when the value returns (R376). -/
def mkLoad (d : LoadDst) (path : Option Path) (fills : List FillReq) (bad : Option (FCode × DWord × DWord))
    (obs : Obs) (vals : List (Nat × TVal)) (reqs : List Req := []) : PendingLoad :=
  { dst := d, path := path, fills := fills, bad := bad, exec := 0, opc := 0, sup := false, reqs := reqs
    obs := { obs with loaded := vals.map fun p => (laneTag p.1, p.2.val.toNat) } }

/-- What a read sent leaves of its accesses: the L1's counters, the TLBs, the requests to peers, and the read in flight. -/
def State.sendRead (s : State) (f : MForm) (acc n : Nat) (path : Option Path) (t : Ty) (ls : List LaneLoc) (vals : List (Nat × TVal)) : State :=
  let q := s.askPeers acc n askLoad ls
  let bad := s.badLoad s.g f.nol1 acc n ls
  let p := mkLoad (s.g.loadDst f.g f.d t vals) path (s.fillsOf f.hint n ls) bad { addrs := addrObs (!f.a.isVec) ls } vals q.2
  let u := ((q.1.countL1 f.hint n ls).noteLanes ls).sendLoad f.g ls p
  if f.nol1 then ls.foldl (fun st l => st.sawHome s.cur l.loc n) u else u

/-- A read that an instruction makes for itself sent, when its data is uncorrectable (`bad`) or comes from a peer: the group issues
nothing until it returns, and what goes wrong on the way is told to the reader of its destination (R207, R327, R338, R339). -/
def State.heldRead (s : State) (gd : Guard) (acc n : Nat) (ls : List LaneLoc) (bad : Option (FCode × DWord × DWord)) (dst : LoadDst) :
    State :=
  let q := s.askPeers acc n askLoad ls
  if q.2 == [] && bad == none then s
  else q.1.sendLoad gd ls { mkLoad dst none [] bad {} [] q.2 with holds := true }

/-- LD (R212). -/
def execLd (f : MForm) (s : State) : Host.Outcome State Fault Refusal :=
  s.finish (.ld f) do
    s.checkVecs (s.g.execLanes f.g) (f.d.vecOp f.ty.is64 ++ f.a.vecOp true)
    let ls ← s.memCheck f { acc := 0, size := f.ty.size, user := !s.g.mode, record := true } (s.perLane f false (!f.d.isScal)) noExtra
    match s.lanesWait ls f.ty.size false with
    | some r => s.waitOn r (s.lanesOwned ls f.ty.size false)
    | none =>
      let path := if ls.any fun l => l.loc.counted then some Path.ldg else none
      match s.sendWait path.toList with
      | some r => .ok (.wait s r)
      | none =>
        let vals := ls.map fun l =>
          let r := s.readLoc s.g f.nol1 l.loc f.ty.size
          (l.lane, ldValue f.ty r.1 r.2)
        .ok (.go ((s.sendRead f 0 f.ty.size path f.ty ls vals).acquireIf f.order f.scope (ls != []))
          { addrs := addrObs (!f.a.isVec) ls })

/-! ### Stores (R213, R214) -/

/-- The encoding that a float store gives a value with its tail, and the flags of the settle (R213). An f32 or f64 NaN
moves unchanged (R131). -/
def State.storeFloat (s : State) (f : MForm) (i : Nat) (w : TVal) : Nat × Flags :=
  let v := readFloat f.ty w.val
  let m := s.effModeM f i
  if v.isNan && (f.ty == .f32 || f.ty == .f64) then (w.val.toNat, 0)
  else
    let r := finalRound f.ty m (if m = 5 then s.rho i 0 else 0) (fpcFtz (s.fpcAt f.g i)) false (w.tail.getLsbD 0)
      (tailedVal f.ty v w.tail)
    (encodeMem f.ty r.1, r.2)

/-- Does `st` settle at this location: a float whose word does not go to scratchpad whole (R213)? -/
def storeSettles (t : Ty) (l : Loc) : Bool :=
  t.isFlt && !((match l with | .scratch .. => true | _ => false) && 4 ≤ t.size)

/-- The data, tail and flags that `st` writes for a lane (R213). -/
def State.storeData (s : State) (f : MForm) (l : LaneLoc) : Nat × Tail × Flags :=
  let w := s.rdSrc f.ty f.b l.lane
  if storeSettles f.ty l.loc then
    let r := s.storeFloat f l.lane w
    (r.1, 0, r.2)
  else
    (w.val.toNat % 2 ^ (8 * f.ty.size), match l.loc with
      | .scratch .. => if 4 ≤ f.ty.size then w.tail else 0
      | _ => 0, 0)

/-- RESERVED for a record word whose unlisted bits would become non-zero (R196). -/
def recordStop (ls : List (LaneLoc × Nat)) (whole : Lanes) : Option (Nat × Stop) :=
  ls.findSome? fun p => match p.1.loc with
    | .record o => if recordOk o (BitVec.ofNat 64 p.2) then none else some (p.1.lane, trapGen .reserved 0 whole)
    | _ => none

/-- What a store in some lanes may fault on beside its addresses: an FP trap, a record's reserved bits. -/
def State.storeExtra (s : State) (f : MForm) (ls : List LaneLoc) : Option (Nat × Stop) :=
  let outs := ls.map fun l => (l.lane, (⟨0, 0, (s.storeData f l).2.2⟩ : FOut))
  let fp := match s.fpTrapping f.g outs, s.fpCheck f.g (match f.m with | some m => m.rmo.val | none => 0) outs with
    | p :: _, .error e => some (p.1, e)
    | _, _ => none
  lowestStop [recordStop (ls.map fun l => (l, (s.storeData f l).1)) (s.g.execLanes f.g), fp]

/-- Writes of lanes in ascending order, so that the highest lane wins each byte (R214). -/
def State.writeLanes (s : State) (nol1 : Bool) (n : Nat) : List (Loc × Nat × Tail) → State
  | [] => s
  | (l, v, t) :: rest => State.writeLanes (s.writeLoc s.cur nol1 l n v t) nol1 n rest

/-- Writes sent: their counters rise until the acknowledgement, which brings what has been lost of them. -/
def State.sendAck (s : State) (paths : List Path) (ls : List LaneLoc) (reqs : List Req) (lose : List Loss) : State :=
  if paths = [] then s
  else
    let g := s.g
    s.setG { g with
      acks := g.acks ++ [{ paths := paths, reqs := reqs, asid := g.asid, pages := s.pagesOf g ls, serial := s.clock, lose := lose }]
      inflight := g.inflight.raise paths }

/-- The checked units that a write of `n` bytes at a location touches, with the bytes of each that it does not write: the home
update of a part of a unit reads the rest of it (R426: HBM and Stratus per 64 bits; a scratchpad word is one unit here). -/
def Loc.restOf (l : Loc) (n : Nat) : List BadCell :=
  match l with
  | .scratch c b => if n < 4 then [.scratch (scratchKey c b)] else []
  | _ => ((List.range n).filterMap l.hbmByte).flatMap fun pa => (List.range 8).map fun k => .hbm (pa / 8 * 8 + k)

/-- The checked units that a write replaces whole, or byte by byte. -/
def Loc.cells (l : Loc) (n : Nat) : List BadCell := (List.range n).filterMap l.cell

/-- The home updates of the issuing group's writes: one that meets an uncorrectable error in the rest of a unit faults the next wait on
STG; units written whole are good again (R207, R426, log entry 80). `s0` is the state in which the instruction issued. -/
def State.mendStore (s s0 : State) (acc n : Nat) (ls : List LaneLoc) : State :=
  if s.poison == [] && ls.all (fun l => l.loc != .lost) then s
  else
    let written := ls.flatMap fun l => if 4 ≤ n || (l.loc.hbmByte 0).isSome then l.loc.cells n else []
    let stays (l : LaneLoc) : Bool := l.loc == .lost || (l.loc.restOf n).any fun c => s.poison.contains c && !written.contains c
    let kept := (ls.filter stays).flatMap fun l => l.loc.cells n
    let t := { s with poison := s.poison.filter fun c => !written.contains c || kept.contains c }
    match ls.find? stays with
    | none => t
    | some l => t.setG { t.g with lost := t.g.lost ++ [⟨.path .stg, .dataLost, l.ea, s0.lossFinfo s0.g acc n l⟩] }

/-- Writes of lanes sent with their requests to peers, for which `ask` gives the operations; those to a failed host leave their outcome
unknown on `unknown` (R339, R419). -/
def State.sendWrites (s : State) (acc n : Nat) (paths unknown : List Path) (ask : LaneLoc → PeerOp × BitVec 128 × DWord)
    (ls : List LaneLoc) : State :=
  let r := s.askPeers acc n ask ls
  r.1.sendAck paths ls r.2 (r.1.hostLosses acc unknown ls)

/-- The request of a store of a value. -/
def askStore (v : Nat) : PeerOp × BitVec 128 × DWord := (.store, BitVec.ofNat 128 v, 0)

/-- ST (R213). -/
def execSt (f : MForm) (s : State) : Host.Outcome State Fault Refusal :=
  let n := f.ty.size
  s.finish (.st f) do
    s.checkVecs (s.g.execLanes f.g) (f.a.vecOp true ++ f.b.vecOp f.ty.is64)
    let ls ← s.memCheck f { acc := 1, size := n, write := true, user := !s.g.mode, record := true } (s.perLane f f.b.isVec false)
      (s.storeExtra f)
    match s.lanesWait ls n true with
    | some r => s.waitOn r (s.lanesOwned ls n true)
    | none =>
      let paths := if ls.any fun l => l.loc.counted then [Path.stg] else []
      match s.sendWait paths with
      | some r => .ok (.wait s r)
      | none =>
        let data := ls.map fun l => (l, s.storeData f l)
        let outs := data.map fun d => (d.1.lane, (⟨0, 0, d.2.2.2⟩ : FOut))
        let draws := ls.any fun l => storeSettles f.ty l.loc && s.effModeM f l.lane == 5 &&
          (l.lane != 96 || s.g.execLanes f.g != 0)
        let t := (s.noteLanes ls).writeLanes f.nol1 n (data.map fun d => (d.1.loc, d.2.1, d.2.2.1))
        .ok (.go ((((s.fpOr t f.g outs).dixIf draws).mendStore s 1 n ls).sendWrites 1 n paths [.stg]
            (fun l => askStore (s.storeData f l).1) ls)
          { s.flagObs f.g outs with
            addrs := addrObs (!f.a.isVec) ls
            stored := data.map fun d => (laneTag d.1.lane, d.2.1) })

/-! ### Atomics (R215, R216) -/

/-- An atomic ready to be applied at its home: the operand as an encoding, the comparand, the rounding. -/
structure AtomOp where
  fn   : Nat
  ty   : Ty
  b    : Nat
  cmp  : Nat
  mode : Nat
  draw : Nat          -- bits [31:0] of the mix value
  daz  : Bool
  ftz  : Bool
deriving DecidableEq, Repr

/-- The value that an atomic leaves for the old value `m` (R215). -/
def AtomOp.apply (o : AtomOp) (m : Nat) : Nat :=
  let n := 2 ^ (8 * o.ty.size)
  let x := o.ty.toInt (BitVec.ofNat 64 m)
  let y := o.ty.toInt (BitVec.ofNat 64 o.b)
  match o.fn with
  | 0 => (m + o.b) % n
  | 1 => if y < x then o.b else m
  | 2 => if x < y then o.b else m
  | 3 => m &&& o.b
  | 4 => m ||| o.b
  | 5 => m ^^^ o.b
  | 6 => o.b
  | 7 => if m = o.cmp then o.b else m
  | 9 =>
    let v := (addVal (o.mode == 3) (dazVal o.daz o.ty (decodeMem o.ty m)) (dazVal o.daz o.ty (decodeMem o.ty o.b))).1
    encodeMem o.ty (finalRound o.ty o.mode o.draw o.ftz false false v).1
  | k => encodeMem o.ty (minMaxVal (k == 11) 1 false false (decodeMem o.ty m) (decodeMem o.ty o.b))

/-- The atomic of lane i (R215): b as integer bits, settled and encoded as a store's data for .exch and .cas, or settled
with draw k = 1 for the float operations. -/
def State.atomOp (s : State) (f : MForm) (i : Nat) : AtomOp :=
  let w := s.rdSrc f.ty f.b i
  let m := s.effModeM f i
  let c := s.fpcAt f.g i
  let fn := f.fn.toNat
  let n := 2 ^ (8 * f.ty.size)
  let d := s.draw i 1
  let cmp := (match f.d with
    | .vec r => (s.vval r.toNat f.ty.is64 i).val
    | .scal r => s.g.sval r.val
    | _ => 0).toNat % n
  let b :=
    if 9 ≤ fn then
      (valBits f.ty (settleVal f.ty (readFloat f.ty w.val) w.tail m (if m = 5 then (d.extractLsb' 32 32).toNat else 0)).v).toNat
    else if f.ty.isFlt then (s.storeFloat f i w).1
    else w.val.toNat % n
  { fn := fn, ty := f.ty, b := b, cmp := cmp, mode := m, draw := (d.extractLsb' 0 32).toNat
    daz := fn == 9 && fpcDaz c, ftz := fpcFtz c }

/-- The request of an atomic at a peer's home: the operation with its prepared operand, comparand and rounding (R335). -/
def AtomOp.ask (o : AtomOp) : PeerOp × BitVec 128 × DWord :=
  (.atomic (BitVec.ofNat 4 o.fn) o.ty ⟨o.mode % 6, Nat.mod_lt _ (by decide)⟩ (BitVec.ofNat 32 o.draw) o.daz o.ftz,
    BitVec.ofNat 128 o.b, BitVec.ofNat 64 o.cmp)

/-- Lanes' atomics in ascending order, each seeing the lower lanes' results (R215): the state and the old values. -/
def State.applyAtoms (s : State) : List (LaneLoc × AtomOp) → State × List (Nat × Nat × Nat)
  | [] => (s, [])
  | (l, o) :: rest =>
    let m := s.readHome s.g l.loc o.ty.size
    let r := State.applyAtoms (s.writeAtomic s.cur l.loc o.ty.size (o.apply m)) rest
    (r.1, (l.lane, m, o.apply m) :: r.2)

/-- The memory type and address of a global location, as a deferred entry keeps them. -/
def Loc.home (l : Loc) : Nat × Nat :=
  match l with
  | .hbm pa => (0, pa) | .host pa => (1, pa) | .peer d pa => (2, d * 2 ^ 48 + pa) | .stratus o => (3, o) | _ => (0, 0)

/-- The location that a deferred entry names. -/
def homeLoc (mt pa : Nat) : Loc :=
  match mt with
  | 0 => .hbm pa | 1 => .host pa | 2 => .peer (pa / 2 ^ 48) (pa % 2 ^ 48) | _ => .stratus pa

/-- Is the issuing group's task in deterministic mode? -/
def State.det (s : State) : Bool := (s.taskOf s.t).det

/-- Entries of the deferral area that the issuing context uses (R320). -/
def State.deferUsed (s : State) : Nat := (s.deferred.filter fun e => (s.task e.task).asid == s.g.asid).length

/-- DETERMINISM of a global atomic (R216, R320): FN 0 to 7 of `atom`; a deferred one that finds the area full. -/
def State.detStop (s : State) (f : MForm) (returns : Bool) (ls : List LaneLoc) : Option (Nat × Stop) :=
  let gl := ls.filter fun l => l.loc.isGlobal
  if !s.det then none
  else match gl with
    | [] => none
    | l :: _ =>
      let mask := laneSet fun i => gl.any fun x => x.lane == i
      let m := if gl.any fun x => x.lane == 96 then s.g.execLanes f.g else mask
      if f.fn.toNat < 8 then (if returns then some (l.lane, .trap .determinism l.ea (.generic 0) m) else none)
      else if (s.ctx s.g.asid).deferMax < s.deferUsed + gl.length then
        some (l.lane, .trap .determinism l.ea (.generic 1) m)
      else none

/-- The deferred entry of a lane (R216). -/
def State.deferEntry (s : State) (l : LaneLoc) (o : AtomOp) : DeferEntry :=
  { task := s.t.task, lin := s.t.lin, group := s.g.index, order := s.g.retired.toNat, lane := l.lane
    mt := l.loc.home.1, pa := l.loc.home.2, page := (s.pageOf s.g.core s.g.asid l.ea).getD ⟨0, 0⟩, serial := s.clock, fn := o.fn, ty := o.ty, data := BitVec.ofNat 64 o.b, mode := o.mode
    draw := BitVec.ofNat 32 o.draw, daz := o.daz, ftz := o.ftz }

/-- Does the atomic settle a float operand under STO in an active lane (R44)? -/
def State.atomDraws (s : State) (f : MForm) (ls : List LaneLoc) : Bool :=
  f.ty.isFlt && ls.any fun l => s.effModeM f l.lane == 5 && (l.lane != 96 || s.g.execLanes f.g != 0)

/-- The access of an atomic. -/
def State.atomAccess (s : State) (f : MForm) (record : Bool) : Access :=
  { acc := 2, size := f.ty.size, write := true, atomic := true, sys := f.scope == .system, user := !s.g.mode, record := record }

/-- What an atomic may fault on beside its addresses: a record's reserved bits, which each lane's result on top of the lower lanes'
must keep (R196, R215), DETERMINISM. -/
def State.atomExtra (s : State) (f : MForm) (returns : Bool) (ls : List LaneLoc) : Option (Nat × Stop) :=
  let news := (s.applyAtoms (ls.map fun l => (l, s.atomOp f l.lane))).2.map fun r => r.2.2
  lowestStop [recordStop (ls.zip news) (s.g.execLanes f.g), s.detStop f returns ls]

/-- Does an access of `atom` or `red` raise its counter (R211): every one but a scratchpad access? -/
def Loc.atomCounted (l : Loc) : Bool := match l with | .scratch .. => false | _ => true

/-- Is the atomic of a lane deferred: a floating-point one on global memory in deterministic mode (R216)? -/
def State.defers (s : State) (f : MForm) (l : LaneLoc) : Bool := s.det && 9 ≤ f.fn.toNat && l.loc.isGlobal

/-- The lanes whose atomic is performed at once. A deferred one touches its home only when its task retires (R216, R308). -/
def State.atomNow (s : State) (f : MForm) (ls : List LaneLoc) : List LaneLoc := ls.filter fun l => !s.defers f l

/-- The effect of an atomic on memory: performed at its homes, or put into the deferral area (R215, R216). The old values
by lane; the canonical NaN stands for a deferred one. -/
def State.atomPerform (s : State) (f : MForm) (ls : List LaneLoc) : State × List (Nat × Nat × Nat) :=
  let put := ls.filter (s.defers f)
  let r := s.applyAtoms ((s.atomNow f ls).map fun l => (l, s.atomOp f l.lane))
  let nan := (nanBits f.ty).toNat
  ({ r.1 with deferred := r.1.deferred ++ put.map fun l => s.deferEntry l (s.atomOp f l.lane) },
   r.2 ++ put.map fun l => (l.lane, nan, nan))

/-- ATOM (R215). -/
def execAtom (f : MForm) (s : State) : Host.Outcome State Fault Refusal :=
  let n := f.ty.size
  s.finish (.atom f) do
    s.checkVecs (s.g.execLanes f.g) (f.d.vecOp f.ty.is64 ++ f.a.vecOp true ++ f.b.vecOp f.ty.is64)
    let ls ← s.memCheck f (s.atomAccess f (f.fn = 0 || f.fn = 7))
      (s.perLane f (f.b.isVec || f.fn = 7 && !f.d.isScal) (!f.d.isScal)) (s.atomExtra f true)
    match s.lanesWait ls n true with
    | some r => s.waitOn r (s.lanesOwned ls n true)
    | none =>
      let path := if ls.any fun l => l.loc.atomCounted then some Path.ldg else none
      match s.sendWait path.toList with
      | some r => .ok (.wait s r)
      | none =>
        let r := (s.noteLanes ls).atomPerform f ls
        let vals := r.2.map fun p => (p.1, (⟨f.ty.ofInt (f.ty.toInt (BitVec.ofNat 64 p.2.1)), 0⟩ : TVal))
        let raw := r.2.map fun p => (p.1, (⟨BitVec.ofNat 64 p.2.1, 0⟩ : TVal))
        let out := if f.ty.isFlt then raw else vals
        let now := s.atomNow f ls
        let q := r.1.askPeers 2 n (fun l => (s.atomOp f l.lane).ask) now
        let o : Obs := { addrs := addrObs (!f.a.isVec) ls, stored := r.2.map fun p => (laneTag p.1, p.2.2) }
        let p := mkLoad (s.g.loadDst f.g f.d f.ty out) path [] ((s.badAccess s.g 2 n now).or (s.badHost now)) o out q.2
        .ok (.go (((q.1.sendLoad f.g ls p).acquireIf f.order f.scope (ls != [])).dixIf (s.atomDraws f ls)) o)

/-- A home update of `red` that met an uncorrectable error faults the next wait on STG (R207). `s0` is the state in which it issued. -/
def State.markLost (s s0 : State) (n : Nat) (ls : List LaneLoc) : State :=
  match s0.badAccess s0.g 2 n ls with
  | some b => s.setG { s.g with lost := s.g.lost ++ [⟨.path .stg, b.1, b.2.1, b.2.2⟩] }
  | none => s

/-- The writes of `red` sent: the requests and the unknown outcomes of the lanes that act now, one acknowledgement for all. -/
def State.redSent (s s0 : State) (f : MForm) (paths : List Path) (now ls : List LaneLoc) : State :=
  let r := s.askPeers 2 f.ty.size (fun l => (s0.atomOp f l.lane).ask) now
  r.1.sendAck paths ls r.2 (r.1.hostLosses 2 [.stg] now)

/-- RED (R215). -/
def execRed (f : MForm) (s : State) : Host.Outcome State Fault Refusal :=
  let n := f.ty.size
  s.finish (.red f) do
    s.checkVecs (s.g.execLanes f.g) (f.a.vecOp true ++ f.b.vecOp f.ty.is64)
    let ls ← s.memCheck f (s.atomAccess f false) (s.perLane f f.b.isVec false) (s.atomExtra f false)
    match s.lanesWait ls n true with
    | some r => s.waitOn r (s.lanesOwned ls n true)
    | none =>
      let paths := if ls.any fun l => l.loc.atomCounted then [Path.stg] else []
      match s.sendWait paths with
      | some r => .ok (.wait s r)
      | none =>
        let r := (s.noteLanes ls).atomPerform f ls
        let now := s.atomNow f ls
        let t := (r.1.markLost s n now).redSent s f paths now ls
        .ok (.go (t.dixIf (s.atomDraws f ls))
          { addrs := addrObs (!f.a.isVec) ls, stored := r.2.map fun p => (laneTag p.1, p.2.2) })

/-! ### spst and spld (R217) -/

/-- The image that `spst` writes for a lane: of a vector word, or of a scalar. -/
def State.spillImage (s : State) (f : MForm) (i : Nat) : Nat :=
  match f.b with
  | .vec _ _ => let w := s.rdSrc .n32 f.b i; w.val.toNat % 2 ^ 32 + w.tail.toNat * 2 ^ 32
  | _ => let w := s.rdSrc .n64 f.b i; w.val.toNat + w.tail.toNat * 2 ^ 64

/-- SPST (R217). -/
def execSpst (f : MForm) (s : State) : Host.Outcome State Fault Refusal :=
  let n := if f.b.isVec then 8 else 16
  s.finish (.spst f) do
    s.checkVecs (s.g.execLanes f.g) (f.a.vecOp true ++ f.b.vecOp false)
    let ls ← s.memCheck f { acc := 4, size := n, write := true, user := !s.g.mode } (s.perLane f f.b.isVec false) noExtra
    match s.lanesWait ls n true with
    | some r => s.waitOn r (s.lanesOwned ls n true)
    | none =>
      let paths := if ls = [] then [] else [Path.spl]
      match s.sendWait paths with
      | some r => .ok (.wait s r)
      | none =>
        let data := ls.map fun l => (l.loc, s.spillImage f l.lane, (0 : Tail))
        .ok (.go ((((s.noteLanes ls).writeLanes f.nol1 n data).mendStore s 4 n ls).sendWrites 4 n paths [.stg]
            (fun l => askStore (s.spillImage f l.lane)) ls)
          { addrs := addrObs (!f.a.isVec) ls
            stored := ls.map fun l => (laneTag l.lane, s.spillImage f l.lane) })

/-- The value and tail of an image (R217). -/
def imageValue (vec : Bool) (m : Nat) : TVal :=
  if vec then ⟨BitVec.ofNat 64 (m % 2 ^ 32), BitVec.ofNat 3 (m / 2 ^ 32)⟩
  else ⟨BitVec.ofNat 64 m, BitVec.ofNat 3 (m / 2 ^ 64)⟩

/-- SPLD (R217). -/
def execSpld (f : MForm) (s : State) : Host.Outcome State Fault Refusal :=
  let vec := !f.d.isScal
  let n := if vec then 8 else 16
  s.finish (.spld f) do
    s.checkVecs (s.g.execLanes f.g) (f.d.vecOp false ++ f.a.vecOp true)
    let ls ← s.memCheck f { acc := 4, size := n, user := !s.g.mode } (s.perLane f false vec) noExtra
    match s.lanesWait ls n false with
    | some r => s.waitOn r (s.lanesOwned ls n false)
    | none =>
      let path := if ls = [] then none else some Path.spl
      match s.sendWait path.toList with
      | some r => .ok (.wait s r)
      | none =>
        let vals := ls.map fun l => (l.lane, imageValue vec (s.readLoc s.g f.nol1 l.loc n).1)
        .ok (.go (s.sendRead f 4 n path (if vec then .n32 else .n64) ls vals) { addrs := addrObs (!f.a.isVec) ls })

/-! ### prf, cinv, xlp (R218 to R220) -/

/-- The HBM addresses, global or on a stack, that the executing lanes name; what would fault or lies elsewhere is dropped
(R218, R219). -/
def State.softLines (s : State) (f : MForm) : List LaneLoc :=
  (s.memPlan f true).filterMap fun p =>
    match s.resolve s.g { acc := 0, size := 1, user := !s.g.mode } p.1 (!f.a.isVec) p.2 with
    | .ok l => match l.hbmByte 0 with
      | some _ => some ⟨p.1, p.2, l⟩
      | none => none
    | .error _ => none

/-- PRF (R218): .l1 fills the L1 lines that are missing, once no engine owns them (R234); the L2 is the home and shows nothing. -/
def execPrf (f : MForm) (s : State) : Host.Outcome State Fault Refusal :=
  s.finish (.prf f) do
    s.checkVecs (s.g.execLanes f.g) (f.a.vecOp true)
    let ls := s.softLines f
    match s.lanesWait ls 1 false with
    | some r => s.waitOn r (s.lanesOwned ls 1 false)
    | none =>
      let t := s.noteLanes ls
      .ok (.go (if f.fn = 0 then (s.fillsOf f.hint 1 ls).foldl (fun st r => st.l1Fill s.g.core s.g.asid r) t else t)
        { addrs := (s.memPlan f true).map fun p => (if f.a.isVec then some p.1 else none, p.2.toNat) })

/-- CINV.line (R219). -/
def execCinvLine (f : MForm) (s : State) : Host.Outcome State Fault Refusal :=
  s.finish (.cinvLine f) do
    s.checkVecs (s.g.execLanes f.g) (f.a.vecOp true)
    .ok (.go ((s.softLines f).foldl (fun st l => st.l1InvalidateLoc s.g.core l.loc 1) s)
      { addrs := (s.memPlan f true).map fun p => (if f.a.isVec then some p.1 else none, p.2.toNat) })

/-- CINV.all (R219). -/
def execCinvAll (f : MForm) (s : State) : Host.Outcome State Fault Refusal :=
  s.finish (.cinvAll f) (.ok (.go (if s.g.groupExec f.g then s.l1InvalidateCtx s.g.core s.g.asid else s)))

/-- SIZE of R220. -/
def xlpSize (p : DWord) (level : Nat) : Nat := if p.getLsbD 9 then 1 else if level = 0 then 0 else level + 1

/-- The answer of `xlp` for a leaf (R220). -/
def xlpLeaf (sup : Bool) (p : DWord) (level : Nat) : DWord :=
  (if sup then p &&& 0xFFFFFFFFFFFFF000 else 0) ||| BitVec.ofNat 64 (256 * xlpSize p level)
    ||| (p &&& 0xF0) ||| (p &&& 0x0E) ||| 1

/-- The answer of `xlp` for one address (R220); none when the walk leaves HBM. -/
def State.xlpValue (s : State) (lane : Nat) (scalar : Bool) (ea : DWord) : Option DWord :=
  let g := s.g
  let win (w : Nat) (ok wr : Bool) : DWord :=
    BitVec.ofNat 64 (1024 * w + (if ok then (if wr then 3 else 1) else 0x30))
  if !canonical ea then some 0x20
  else match steer (s.ctxCore g.core g.asid) ea with
    | (.scratch, o) => some (win 1 ((s.team g.team).scratchLoc o 1).isSome true)
    | (.record, _) => some (win 2 (scalar && g.mode) true)
    | (.stack, x) => some (win 2 (x < g.slane.toNat && stackByte g.lbase.toNat x lane < Config.hbmBytes) true)
    | (.stratus, _) => some (win 3 true false)
    | (.global, _) => match s.leafOf g.core g.asid ea with
      | none => none
      | some (.error (_, why)) => some (if why = 0xC then 0 else BitVec.ofNat 64 (16 * why))
      | some (.ok (p, l)) => some (xlpLeaf g.mode p l)

/-- The addresses of `xlp` whose walk meets a page-table entry that cannot be read (R207). -/
def State.xlpLost (s : State) (plan : List (Nat × DWord)) : List LaneLoc :=
  (plan.filter fun p => canonical p.2 && (steer (s.ctxCore s.g.core s.g.asid) p.2).1 == .global
    && match s.leafOf s.g.core s.g.asid p.2 with | some (.error e) => e.2 == 0xC | _ => false).map fun p => ⟨p.1, p.2, .lost⟩

/-- The global addresses that `xlp` translates, which it leaves in the TLBs as an access would. -/
def State.xlpLocs (s : State) (plan : List (Nat × DWord)) : List LaneLoc :=
  (plan.filter fun p => canonical p.2 && (steer (s.ctxCore s.g.core s.g.asid) p.2).1 == .global).map fun p => ⟨p.1, p.2, .hbm 0⟩

/-- XLP (R220). -/
def execXlp (f : MForm) (s : State) : Host.Outcome State Fault Refusal :=
  let one := firstLane (s.g.execLanes f.g)
  s.finish (.xlp f) do
    s.checkVecs (s.g.execLanes f.g) (f.d.vecOp true ++ f.a.vecOp true)
    let plan := s.memPlan f (s.perLane f false (!f.d.isScal))
    let rs := plan.map fun p => (p.1, s.xlpValue (if p.1 = 96 then one else p.1) (!f.a.isVec) p.2)
    require (rs.all fun r => r.2.isSome) (.fault .hbmAbsent)
    let path := if plan = [] then none else some Path.ldg
    match s.sendWait path.toList with
    | some r => .ok (.wait s r)
    | none =>
      let vals := rs.map fun r => (r.1, (⟨r.2.getD 0, 0⟩ : TVal))
      let o : Obs := { addrs := plan.map fun p => (if f.a.isVec then some p.1 else none, p.2.toNat) }
      let p := mkLoad (s.g.loadDst f.g f.d .n64 vals) path [] (s.badAccess s.g 0 1 (s.xlpLost plan)) o vals
      .ok (.go ((s.noteLanes (s.xlpLocs plan)).sendLoad f.g (s.xlpLocs plan) p) o)

/-! ### tlbi and ggen (R221, R222) -/

/-- PRIVILEGE in user mode (R65 order 5): the trap mask is the active lanes. -/
def State.supervisor (s : State) : Except Stop Unit := require s.g.mode (trapGen .privilege 0 s.g.mask)

/-- Does a `tlbi` name the page of an ASID: its size is the hinted one, and it overlaps the range (R221)? -/
def TlbiCmd.covers (c : TlbiCmd) (asid : BitVec 16) (p : Page) : Bool :=
  let size := 2 ^ p.shift
  let sizeOk := match c.hint with | 0 => true | 1 => p.shift == 12 | 2 => p.shift == 16 | 3 => p.shift == 21 | _ => p.shift == 30
  asid == c.asid && sizeOk && (c.all || (c.len != 0 && p.num * size < c.lo + c.len && c.lo < (p.num + 1) * size))

/-- Does a `tlbi` remove the entry of a TLB (R221)? -/
def TlbiCmd.removes (c : TlbiCmd) (e : TlbEntry) : Bool := c.covers e.asid ⟨e.shift, e.page⟩

/-- Does a `tlbi` remove the entry of a walk cache, on the way to pages of any size (R221, log entry 9)? -/
def TlbiCmd.removesWalk (c : TlbiCmd) (e : WalkEntry) : Bool :=
  let size := 2 ^ (12 + 9 * e.level)
  e.asid == c.asid && (c.all || (c.len != 0 && e.page * size < c.lo + c.len && c.lo < (e.page + 1) * size))

/-- The entries that a `tlbi` removes gone from every TLB and walk cache of the package (R221). -/
def State.sweep (s : State) (c : TlbiCmd) : State :=
  { s with l1tlb := s.l1tlb.filter (fun e => !c.removes e), tlb := s.tlb.filter (fun e => !c.removes e)
           walks := s.walks.filter fun e => !c.removesWalk e }

/-- Is an access in flight that used an entry which a `tlbi` has removed (R204, R221): a read without its data, a write that has not
completed at its home, a deferred atomic, of an instruction issued before the entries went? -/
def State.usesOf (s : State) (c : TlbiCmd) (swept : Nat) : Bool :=
  (s.groups.any fun g => g.2.resident &&
      ((g.2.loads.any fun l => l.serial ≤ swept && l.pages.any (c.covers l.asid))
        || g.2.acks.any fun a => !a.home && a.serial ≤ swept && a.pages.any (c.covers a.asid)))
    || s.deferred.any fun e => e.serial ≤ swept && c.covers (s.task e.task).asid e.page

/-- A `tlbi` of the issuing group queued on its die (R221): operand bits that are not zero fault RESERVED, a full queue
waits, and STG rises. -/
def State.tlbiBody (s : State) (f : VForm) (all : Bool) : Body := do
  s.supervisor
  if !s.g.groupExec f.g then .ok (.go s)
  else
    let a := s.s64 f.a
    require (a.toNat < 2 ^ 19 && (a.extractLsb' 16 3).toNat ≤ 4) (trapGen .reserved 0 (s.g.execLanes f.g))
    let die := s.g.core / 64
    if 64 ≤ (s.tlbis.filter fun c => c.die == die).length then .ok (.wait s 17)
    else if s.g.counterFull [.stg] then .ok (.wait s 15)
    else
      let c : TlbiCmd := { grp := s.cur, die := die, asid := a.extractLsb' 0 16, hint := (a.extractLsb' 16 3).toNat, all := all
                           lo := (s.s64 f.b).toNat % 2 ^ 57, len := (s.s64 f.c).toNat, serial := s.clock }
      let t := (s.bump (ctrMmu die 0)).setG { s.g with inflight := s.g.inflight.raise [.stg] }
      .ok (.go { t with tlbis := t.tlbis ++ [c] })

/-- TLBI.range (R221). -/
def execTlbiRange (f : VForm) (s : State) : Host.Outcome State Fault Refusal := s.finish (.tlbiRange f) (s.tlbiBody f false)
/-- TLBI.asid (R221). -/
def execTlbiAsid (f : VForm) (s : State) : Host.Outcome State Fault Refusal := s.finish (.tlbiAsid f) (s.tlbiBody f true)

/-- GGEN (R222): the group's next instruction waits for the new generation. -/
def execGgen (f : VForm) (s : State) : Host.Outcome State Fault Refusal :=
  s.finish (.ggen f) do
    s.supervisor
    if !s.g.groupExec f.g then .ok (.go s)
    else
      let a := s.s64 f.a
      require (a.toNat < 2 ^ 16) (trapGen .reserved 0 (s.g.execLanes f.g))
      let t := (s.bump (ctrMmu (s.g.core / 64) 1)).setG { s.g with waiting := .ggen }
      .ok (.go { t with ggens := t.ggens ++ [{ grp := s.cur, asid := a.setWidth 16, dst := f.d.scalNum }] })

/-! ### The events that complete accesses -/

/-- A word of a read's destination written (R31). A word of a window whose accumulators the team no longer holds is dropped (R30, log
entry 82). -/
def State.loadWord (s : State) (k : Nat) (p : RsPlace) (w : TWord) : State :=
  let g := s.group k
  match p.acc with
  | none => s.putGroup k { g with regs := Store.set TWord.zero g.regs (p.byte / 4) w }
  | some a =>
    let t := s.team g.team
    if t.mxHolds && !t.mxLost then { s with accum := Store.set TWord.zero s.accum a w } else s

/-- The words of a read's destination written. -/
def State.loadWords (s : State) (k : Nat) : List (RsPlace × TWord) → State
  | [] => s
  | (p, w) :: l => State.loadWords (s.loadWord k p w) k l

/-- The destination of a read written when its data returns. -/
def State.writeLoad (s : State) (k : Nat) (d : LoadDst) : State :=
  match d with
  | .none | .pred _ => s
  | .scal n v => s.putGroup k ((s.group k).setSreg n v)
  | .words l => s.loadWords k l

/-- The registers of a destination by name. -/
def LoadDst.losable (d : LoadDst) : List RegName :=
  match d with
  | .none => []
  | .pred n => [.pred n]
  | .scal n _ => [.scal n]
  | .words l => l.map fun p => .word p.1

/-- The losses that a read with an error leaves (R207, R339). -/
def PendingLoad.losses (p : PendingLoad) : List Loss :=
  match p.bad with
  | none => []
  | some b => (p.dst.losable ++ (match p.path with | some q => [.path q] | none => [])).map fun r => ⟨r, b.1, b.2.1, b.2.2⟩

/-- Is an older write of the group on a path still to be acknowledged? Completions lower a counter in issue order (R261). -/
def Group.ackBefore (g : Group) (p : Path) (serial : Nat) : Bool := g.acks.any fun a => a.paths.contains p && a.serial < serial

/-- May an acknowledgement lower its counters, as far as reads, invalidations and collectives go that raised them before it (R261)? -/
def State.ackFree (s : State) (k : Nat) (a : PendingAck) : Bool :=
  !((a.paths.contains .spl && (s.group k).loads.any fun l => l.path == some .spl && l.serial < a.serial)
    || (a.paths.contains .stg && s.tlbis.any fun c => c.grp == k && c.serial < a.serial)
    || (a.paths.contains .fab && s.colls.any fun c => c.grp == k && !c.lowered && c.serial < a.serial))

/-- The oldest acknowledgement that a condition lets through and that shares no path with an older one (`held`) still outstanding. -/
def firstAck (free : PendingAck → Bool) : List Path → List PendingAck → Option PendingAck
  | _, [] => none
  | held, a :: l => if free a && !(a.paths.any held.contains) then some a else firstAck free (held ++ a.paths) l

/-- LOAD_DATA_RETURN: the oldest read of the group writes its destination, its lines are filled, its counter falls and the
antennae of FIELD loaded value see it (R208, R212, R261, R376). It waits for matrix operations on the tile that it writes, or that
have not read a quarter of B there (R31, R51), and, on SPL, for older writes. -/
def execLoadDataReturn (k : Nat) (s : State) : Host.Outcome State Fault Refusal :=
  match (s.group k).loads with
  | [] => .next s
  | p :: rest =>
    if p.dst.places.any (s.mxWriteWaits k) || (p.path == some .spl && (s.group k).ackBefore .spl p.serial) then .next s
    else
      let s1 := if p.bad == none then s.writeLoad k p.dst else s
      let g := s1.group k
      let s2 := s1.putGroup k { g with
        loads := rest, inflight := g.inflight.lower p.path.toList, lost := g.lost ++ p.losses }
      let s3 := p.fills.foldl (fun st r => st.l1Fill g.core g.asid r) s2
      .next ((s3.antennae k p.obs p.exec p.opc p.sup true).tryFree k)

/-- The counters of an acknowledged write fall, and the waits on its paths are told what has become unknown of it (R211, R339: only then
does the return of a wait cover it, log entry 26). -/
def State.lowerAck (s : State) (k : Nat) (a : PendingAck) : State :=
  let g := s.group k
  (s.putGroup k { g with acks := g.acks.erase a, inflight := g.inflight.lower a.paths, lost := g.lost ++ a.lose }).tryFree k

/-- WRITE_ACKNOWLEDGE: a write of the group is acknowledged by its home and its counters fall (R211, R241), in the order in which they
rose (R261). While something older keeps every counter up, the oldest write without an acknowledgement completes at its home. -/
def execWriteAcknowledge (k : Nat) (s : State) : Host.Outcome State Fault Refusal :=
  let g := s.group k
  .next (match firstAck (s.ackFree k) [] g.acks with
    | some a => s.lowerAck k a
    | none => match g.acks.find? fun a => !a.home with
      | some a => s.putGroup k { g with acks := g.acks.map fun x => if x == a then { a with home := true } else x }
      | none => s)

/-- TRANSLATION_WALK: a walk by itself leaves a cached translation of the address on every die that lacks it; nothing that
does not translate is cached (R202). -/
def execTranslationWalk (asid : BitVec 16) (va : DWord) (s : State) : Host.Outcome State Fault Refusal :=
  .next ((List.range 4).foldl (fun st d => st.noteDie d asid va) s)

/-- TLBI_COMPLETE of the oldest `tlbi` of a group (R221): first the entries go; once every access that used one has completed at its
home, STG falls, after the writes issued before it (R261). -/
def execTlbiComplete (k : Nat) (s : State) : Host.Outcome State Fault Refusal :=
  match s.tlbis.find? fun c => c.grp == k with
  | none => .next s
  | some c =>
    let n := c.swept.getD s.clock
    let s1 := if c.swept.isNone then s.sweep c else s
    if s1.usesOf c n || (s1.group k).ackBefore .stg c.serial then .next { s1 with tlbis := s1.tlbis.map fun x => if x == c then { c with swept := some n } else x }
    else
      let g := s1.group k
      let t := s1.putGroup k { g with inflight := g.inflight.lower [.stg] }
      .next ({ t with tlbis := t.tlbis.erase c }.tryFree k)

/-- The removal that a `ggen` makes when its generation would pass 0xFFFF: that of `tlbi.asid` (R222). -/
def GgenCmd.removal (c : GgenCmd) : TlbiCmd :=
  { grp := c.grp, die := 0, asid := c.asid, hint := 0, all := true, lo := 0, len := 0 }

/-- GGEN_COMPLETE of a group (R222): the generation is one more and s[D] receives it. When it would pass 0xFFFF, all entries of the
ASID go first and their uses drain. -/
def execGgenComplete (k : Nat) (s : State) : Host.Outcome State Fault Refusal :=
  match s.ggens.find? fun c => c.grp == k with
  | none => .next s
  | some c =>
    let x := s.ctx c.asid
    let gen := x.gen + 1
    let n := c.swept.getD s.clock
    let s1 := if gen = 0 && c.swept.isNone then s.sweep c.removal else s
    if gen = 0 && s1.usesOf c.removal n then
      .next { s1 with ggens := s1.ggens.map fun y => if y == c then { c with swept := some n } else y }
    else
      let s2 := s1.putCtx c.asid { x with gen := gen }
      let g := (s2.group k).setSreg c.dst ⟨gen.setWidth 64, 0⟩
      .next { s2.putGroup k { g with waiting := .no, stall := 0 } with ggens := s2.ggens.erase c }

/-- JOIN_STACK_SPILL: the image written at the push is acknowledged and the group goes on (R90). -/
def execJoinStackSpill (k : Nat) (s : State) : Host.Outcome State Fault Refusal :=
  let g := s.group k
  .next (if g.waiting == .spill then s.putGroup k { g with waiting := .no, stall := 0 } else s)

/-- JOIN_STACK_FILL (R90): while an engine owns the image's line it waits, which is counted once (R234, R243). -/
def execJoinStackFill (k : Nat) (s : State) : Host.Outcome State Fault Refusal :=
  let g := s.group k
  .next (if g.waiting != .fill then s
    else if s.isOwned (.hbm (g.jbase.toNat + 48 * (g.spilled - 1))) 48 false then
      if g.ownWait then s else (s.bump (ctrOwned (g.core / 64))).putGroup k { g with ownWait := true }
    else s.fillStack k)

/-- INSTRUCTION_CACHE_MISS_FILL: the line a group waits for arrives (R84). The next instruction of a group of the pending set is fetched
too, so that the group can become ready (R80, R82). -/
def execInstructionCacheMissFill (k : Nat) (s : State) : Host.Outcome State Fault Refusal :=
  let g := s.group k
  match g.waiting with
  | .fetch line => .next ((s.putGroup k { g with waiting := .no, stall := 0 }).icFill g.core line)
  | .no =>
    if !g.resident || g.ended then .next s
    else match s.fetch g with
      | .miss line => .next (s.icFill g.core line)
      | .walk va => .next (s.noteVas g.core g.asid [va])
      | _ => .next s
  | _ => .next s

end Sys2Proof.Machine
end

