-- ==== Sys2Proof/Machine/Order.lean ====
section
/-! DEFINITION. The ordering instructions `fence` and `stsig` (R237 to R242). -/

namespace Sys2Proof.Machine

/-- Does the group still wait for what a fence of an order waits for (R237): data of earlier reads for the acquire part,
acknowledgements too for the release part, which those that are given up end too (R339)? -/
def Group.fencePending (g : Group) (o : MemOrder) : Bool :=
  g.loads != [] || ((o == .release || o == .acqrel) && g.acks.any fun a => !a.home)

/-- FENCE (R237): waits with stall reason 9; the acquire part acts on the L1. -/
def execFence (f : MForm) (s : State) : Host.Outcome State Fault Refusal :=
  s.finish (.fence f)
    (if !s.g.groupExec f.g then .ok (.go s)
     else if s.g.fencePending f.order then .ok (.wait s 9)
     else .ok (.go (s.acquireIf f.order f.scope true)))

/-- The flag's address and value: s[N] and s[N+1] read as TY (R239). -/
def State.stsigFlag (s : State) (f : MForm) : DWord × Nat :=
  (s.g.sval f.d.scalNum, (s.g.sval (f.d.scalNum + 1)).toNat % 2 ^ (8 * f.ty.size))

/-- The paths that `stsig` raises: STG, and FAB when a target is peer memory (R241). -/
def stsigPaths (ls : List LaneLoc) (flag : LaneLoc) : List Path :=
  .stg :: (if (flag :: ls).any fun l => l.loc.isPeer then [.fab] else [])

/-- The flag part: a store, or an addition at the flag's home (R240). -/
def State.stsigSignal (s : State) (f : MForm) (l : Loc) (v : Nat) : State :=
  if f.fn = 0 then s.writeLoc s.cur false l f.ty.size v 0
  else s.writeAtomic s.cur l f.ty.size ((s.readHome s.g l f.ty.size + v) % 2 ^ (8 * f.ty.size))

/-- The requests of `stsig` to peers: the payload's stores, and as lane 96 the flag's store or addition (R240, R338). -/
def State.stsigAsk (s : State) (f : MForm) (flag : Nat) (l : LaneLoc) : PeerOp × BitVec 128 × DWord :=
  if l.lane != 96 then askStore ((s.rdSrc f.ty f.b l.lane).val.toNat % 2 ^ (8 * f.ty.size))
  else if f.fn = 0 then askStore flag
  else AtomOp.ask { fn := 0, ty := f.ty, b := flag, cmp := 0, mode := 0, draw := 0, daz := false, ftz := false }

/-- STSIG (R239 to R242): every payload byte and the flag are checked before anything is written; then the payload is
written, then the flag. -/
def execStsig (f : MForm) (s : State) : Host.Outcome State Fault Refusal :=
  let n := f.ty.size
  let e := s.g.execLanes f.g
  let user := !s.g.mode
  s.finish (.stsig f) do
    s.checkVecs e (f.a.vecOp true ++ f.b.vecOp f.ty.is64)
    if !s.g.groupExec f.g then .ok (.go s)
    else
      let ls ← s.memCheck f { acc := 1, size := n, write := true, user := user } true noExtra
      let fl := s.stsigFlag f
      let a : Access := if f.fn = 0 then { acc := 1, size := n, write := true, user := user }
        else { acc := 2, size := n, write := true, atomic := true, sys := f.scope == .system, user := user }
      let fs ← s.checkLanes s.g a true (firstLane e) (some e) noExtra [(96, fl.1)]
      match fs with
      | [] => .ok (.go s)
      | flag :: _ =>
        require (!s.det) (.trap .determinism fl.1 (.generic 0) e)
        match s.lanesWait (ls ++ [flag]) n true with
        | some r => s.waitOn r (s.lanesOwned (ls ++ [flag]) n true)
        | none =>
          let paths := stsigPaths ls flag
          match s.sendWait paths with
          | some r => .ok (.wait s r)
          | none =>
            let data := ls.map fun l =>
              let w := s.rdSrc f.ty f.b l.lane
              (l.loc, w.val.toNat % 2 ^ (8 * n), match l.loc with | .scratch .. => w.tail | _ => (0 : Tail))
            let t := ((s.noteLanes (ls ++ [flag])).writeLanes f.nol1 n data).mendStore s 1 n (if f.fn = 0 then ls ++ [flag] else ls)
            let u := if f.fn = 0 then t else t.markLost s n [flag]
            .ok (.go ((u.stsigSignal f flag.loc fl.2).sendWrites 1 n paths paths (s.stsigAsk f fl.2) (ls ++ [flag]))
              { addrs := addrObs (!f.a.isVec) ls ++ [(none, fl.1.toNat)]
                stored := ls.map fun l => (laneTag l.lane, (s.rdSrc f.ty f.b l.lane).val.toNat % 2 ^ (8 * n)) })

end Sys2Proof.Machine
end

