-- ==== Sys2Proof/Machine/Barrier.lean ====
section
/-! DEFINITION. Asynchronous barriers, waits on in-flight counters and the refresh calendar (chapter 11, R261 to R271
and R273). -/

namespace Sys2Proof.Machine

/-- Numbers of the counters of a core that chapter 11 gives (R275): commands accepted, source bytes read, canonical bytes
written, replays, abandoned commands, rings started, barrier phases completed. -/
def ctrCopy (core k : Nat) : Nat := 0x205_0000 + core * 8 + k

/-! ### Barrier records (R263) -/

/-- A barrier record. -/
structure BarRec where
  arm       : Bool
  phase     : Bool
  expected  : Nat
  pending   : Nat
  scope     : Bool
  overrun      : Bool
  expBytes  : Nat
  pendBytes : Nat
  gen       : Nat
  await     : DWord
  ftag      : DWord
deriving DecidableEq, Repr

/-- Bits lo to lo + n - 1 of a number. -/
def bitsAt (v lo n : Nat) : Nat := v / 2 ^ lo % 2 ^ n

/-- A bit as a number. -/
def bitNat (b : Bool) : Nat := if b then 1 else 0

/-- The record of a 32-byte image. -/
def BarRec.ofImage (v : Nat) : BarRec :=
  { arm := v.testBit 0, phase := v.testBit 1, expected := bitsAt v 2 10, pending := bitsAt v 12 10, scope := v.testBit 22
    overrun := v.testBit 23, expBytes := bitsAt v 32 32, pendBytes := bitsAt v 64 32, gen := bitsAt v 96 32
    await := BitVec.ofNat 64 (bitsAt v 128 64), ftag := BitVec.ofNat 64 (bitsAt v 192 64) }

/-- The 32-byte image of a record. -/
def BarRec.image (b : BarRec) : Nat :=
  bitNat b.arm + 2 * bitNat b.phase + 2 ^ 2 * (b.expected % 1024) + 2 ^ 12 * (b.pending % 1024) + 2 ^ 22 * bitNat b.scope
    + 2 ^ 23 * bitNat b.overrun + 2 ^ 32 * (b.expBytes % 2 ^ 32) + 2 ^ 64 * (b.pendBytes % 2 ^ 32) + 2 ^ 96 * (b.gen % 2 ^ 32)
    + 2 ^ 128 * b.await.toNat + 2 ^ 192 * b.ftag.toNat

/-- The record at a scratchpad byte. -/
def State.readBar (s : State) (core byte : Nat) : BarRec := BarRec.ofImage (s.readScratch core byte 32)

/-- The record written. -/
def State.writeBar (s : State) (core byte : Nat) (b : BarRec) : State := s.writeScratch core byte 32 b.image 0

/-- What the scratchpad controller keeps of the armed barrier at a byte (R270). A record is armed when it is listed here: ARM
in memory shows it and no store of a program makes it. -/
def State.armedAt (s : State) (core byte : Nat) : Option Armed :=
  s.armed.find? fun a => a.core == core && a.byte == byte && !a.ring

/-- The controller's entry of a record replaced. -/
def State.putArmed (s : State) (a : Armed) : State :=
  { s with armed := a :: s.armed.filter fun x => !(x.core == a.core && x.byte == a.byte && x.ring == a.ring) }

/-- The entry of a record removed. -/
def State.dropArmed (s : State) (core byte : Nat) (ring : Bool) : State :=
  { s with armed := s.armed.filter fun x => !(x.core == core && x.byte == byte && x.ring == ring) }

/-- The groups of a team that have not ended (R266). -/
def State.aliveGroups (s : State) (tk : Nat) : DWord :=
  let t := s.team tk
  (List.range t.groups).foldl (fun m i =>
    if t.ended.getLsbD i || (s.teamGroups tk).any (fun p => p.2.index == i && p.2.ended) then m
    else m ||| ((1 : DWord) <<< i)) 0

/-- The scope at which a record's waiters acquire. -/
def BarRec.acqScope (r : BarRec) : Scope := if r.scope then .cluster else .team

/-- The group at key k leaves its `ab.wait` with a result, and with the scope of its acquire, when it is tried again (R268). -/
def State.releaseWaiter (s : State) (k : Nat) (res : Bool) (scope : Scope) : State :=
  let g := s.group k
  s.putGroup k { g with waiting := .no, stall := 0, waitTold := none, barDone := some ⟨g.pc, res, scope⟩ }

/-- Every waiter on a record released. -/
def State.releaseWaiters (s : State) (core byte : Nat) (res : Bool) : State :=
  let scope := (s.readBar core byte).acqScope
  (s.groups.filter fun p => p.2.waiting == .abar core byte).foldl (fun st p => st.releaseWaiter p.1 res scope) s

/-- OBJ of an asynchronous barrier (R357). -/
def abarObj (core byte : Nat) : Nat := core * 2 ^ 36 + byte % 2 ^ 19

/-- An arrival or a byte count deducted from a record (R267). -/
def BarRec.deduct (r : BarRec) (n b : Nat) : BarRec :=
  { r with
    overrun := r.overrun || decide (r.pending < n) || decide (r.pendBytes < b)
    pending := r.pending - min n r.pending
    pendBytes := r.pendBytes - min b r.pendBytes }

/-- Has the phase completed? -/
def BarRec.complete (r : BarRec) : Bool := r.pending == 0 && r.pendBytes == 0

/-- The record at the start of its next phase. -/
def BarRec.nextPhase (r : BarRec) (alive : DWord) : BarRec :=
  { r with
    phase := !r.phase, gen := (r.gen + 1) % 2 ^ 32, pending := r.expected, pendBytes := r.expBytes
    await := alive, ftag := 0 }

/-- n arrivals and b bytes applied at a record (R267) with the arriving agent's tag; `who` is the arriving group's team
and index, `last` the group that the record of a completed phase names. -/
def State.barApply (s : State) (core byte n b : Nat) (tag : DWord) (who : Option (Nat × Nat)) (last : Nat) : State :=
  match s.armedAt core byte with
  | none => s
  | some a =>
    let s1 := s.receive (engScratch core) tag
    let r0 := s1.readBar core byte
    let mine : DWord := match who with
      | some (t, i) => if t = a.team then (1 : DWord) <<< i else 0
      | none => 0
    let r := { r0 with ftag := if r0.ftag = 0 then tag else r0.ftag, await := r0.await &&& ~~~mine }.deduct n b
    if r.complete then
      let alive := s1.aliveGroups a.team
      let s2 := (s1.writeBar core byte (r.nextPhase alive)).putArmed { a with waits := [], await := alive }
      let s3 := (s2.releaseWaiters core byte true).bump (ctrCopy core 6)
      s3.emit (engScratch core) 0x06 (some (s.team a.team).asid) (barrierPayload 1 (abarObj core byte) r.gen last)
    else s1.writeBar core byte r

/-! ### Barrier operands (R251, R264) -/

/-- A fault of an operand of this chapter that names a record (R255, R264): FINFO of R205 with ACC 0. -/
def State.recStop (s : State) (f : VForm) (code : FCode) (win reason lsize : Nat) (ea : DWord) : Stop :=
  .trap code ea (.raw ((⟨code, 7, win, reason, ea, 0, lsize⟩ : AccErr).finfo s.g.asid)) (s.g.execLanes f.g)

/-- WIN of an address. -/
def State.winOf (s : State) (ea : DWord) : Nat :=
  match (steer (s.ctxCore s.g.core s.g.asid) ea).1 with
  | .scratch => 1 | .record | .stack => 2 | .stratus => 3 | .global => 0

/-- A record of `n` bytes, aligned to `n`, at a window address of the team's scratchpad: core and byte. -/
def State.scratchRec (s : State) (f : VForm) (n : Nat) (ea : DWord) : Except Stop (Nat × Nat) :=
  let lg := log2Size n
  if !canonical ea then .error (s.recStop f .aperture 0 0xE lg ea)
  else if ea.toNat % n != 0 then .error (s.recStop f .align (s.winOf ea) 0xD lg ea)
  else match steer (s.ctxCore s.g.core s.g.asid) ea with
    | (.scratch, o) => match s.t.scratchLoc o n with
      | some (.scratch c b) => .ok (c, b)
      | _ => .error (s.recStop f .protect 1 6 lg ea)
    | _ => .error (s.recStop f .protect (s.winOf ea) 6 lg ea)

/-- May a record of 32 bytes begin at a byte of a core's scratchpad: on a multiple of 32, counted from the start of the scratchpad or of a
team's allocation there? -/
def State.recordByte (s : State) (core byte : Nat) : Bool :=
  byte % 32 == 0 || s.teams.any fun p =>
    p.2.live && p.2.coreList.contains core && p.2.base ≤ byte && byte < p.2.base + p.2.scratch && (byte - p.2.base) % 32 == 0

/-- The record that a handle names (R264). -/
def State.handleRec (s : State) (f : VForm) (v : DWord) : Except Stop (Nat × Nat) :=
  let x := v.toNat % 2 ^ 63
  let core := s.g.core / 8 * 8 + bitsAt x 20 3
  let byte := bitsAt x 0 19
  if x = byte + 2 ^ 20 * bitsAt x 20 3 && s.recordByte core byte && (s.readBar core byte).scope then .ok (core, byte)
  else .error (s.recStop f .protect 1 6 5 v)

/-- The record of a window address or a handle. -/
def State.barOperand (s : State) (f : VForm) (v : DWord) : Except Stop (Nat × Nat) :=
  if v.getLsbD 63 && !canonical v then s.handleRec f v else s.scratchRec f 32 v

/-- Does the record lie in a line that an engine owns (R234)? -/
def State.barOwned (s : State) (r : Nat × Nat) : Bool := s.isOwned (.scratch r.1 r.2) 32 true

/-- Does arming a record of `n` bytes have to wait (R234): its line is owned, but not as a destination of a matrix operation, in whose
image a record may be armed after the issue (R292)? -/
def State.armWaits (s : State) (r : Nat × Nat) (n : Nat) : Bool :=
  let image (o : Owned) : Bool := !o.src && s.mx.any fun p => p.2.ops.any fun x => x.id == o.cmd
  { s with owned := s.owned.filter fun o => !image o }.isOwned (.scratch r.1 r.2) n true

/-! ### ab.init, ab.arrive, ab.wait, ab.try, ab.inval -/

/-- The effect of `ab.init` on a disarmed record. -/
def State.armBar (s : State) (core byte expected : Nat) (scope : Bool) (bytes : Nat) : State :=
  let alive := s.aliveGroups s.g.team
  (s.writeBar core byte
    { arm := true, phase := false, expected := expected, pending := expected, scope := scope, overrun := false
      expBytes := bytes, pendBytes := bytes, gen := 0, await := alive, ftag := 0 }).putArmed
    { core := core, team := s.g.team, byte := byte, len := 32, ring := false, waits := [], await := alive }

/-- AB.INIT (R266). -/
def execAbInit (f : VForm) (s : State) : Host.Outcome State Fault Refusal :=
  s.finish (.abInit f) do
    if !s.g.groupExec f.g then .ok (.go s)
    else
      let ea := s.s64 f.a
      let e := s.g.execLanes f.g
      let r ← s.scratchRec f 32 ea
      let b := s.s64 f.b
      let n := bitsAt b.toNat 0 10
      let bytes := s.n32 f.c
      require (b.toNat < 2 ^ 11 && !(n == 0 && bytes == 0)) (trapGen .reserved 0 e)
      let clob : Stop := .trap .barrierClobber ea (.generic 0) e
      if s.armWaits r 32 then s.waitOn 17
      else match s.armedAt r.1 r.2 with
        | some _ =>
          let old := s.readBar r.1 r.2
          require (old.expected == n && old.expBytes == bytes && old.scope == b.getLsbD 10) clob
          .ok (.go s)
        | none =>
          require (!s.clobbers (.scratch r.1 r.2) 32) clob
          .ok (.go (s.armBar r.1 r.2 n (b.getLsbD 10) bytes))

/-- AB.ARRIVE (R267): the parity before the arrival goes to s[D]. -/
def execAbArrive (f : VForm) (s : State) : Host.Outcome State Fault Refusal :=
  s.finish (.abArrive f) do
    if !s.g.groupExec f.g then .ok (.go s)
    else
      let r ← s.barOperand f (s.s64 f.a)
      let n := s.n32 f.b
      require (1 ≤ n && n ≤ 1023) (trapGen .reserved 0 (s.g.execLanes f.g))
      if s.barOwned r then s.waitOn 17
      else
        let s1 := s.advance s.g.engine
        let s2 := s1.setS f.d.scalNum ⟨BitVec.ofNat 64 (bitNat (s.readBar r.1 r.2).phase), 0⟩
        .ok (.go (s2.barApply r.1 r.2 n 0 (s1.tagOf s.g.engine) (some (s.g.team, s.g.index)) s.g.index))

/-- The state of a barrier for a waiter with parity p (R268): 1 completed, 0 disarmed, 2 incomplete. -/
def State.barTest (s : State) (r : Nat × Nat) (p : Bool) : Nat :=
  match s.armedAt r.1 r.2 with
  | none => 0
  | some _ => if (s.readBar r.1 r.2).phase != p then 1 else 2

/-- `ab.wait` answers, with an acquire at a scope when the phase has completed (R268). -/
def State.barAnswer (s : State) (f : VForm) (done : Bool) (scope : Scope) : State :=
  let s1 := (s.setG { s.g with barDone := none }).setS f.d.scalNum ⟨if done then 1 else 0, 0⟩
  if done then s1.acquireL1 s.cur scope else s1

/-- The group begins to wait, and its tag is kept (R270, R342). -/
def State.barWait (s : State) (r : Nat × Nat) : State :=
  let s1 := match s.armedAt r.1 r.2 with
    | some a => s.putArmed { a with waits := (a.waits.filter fun (w : Nat × DWord) => w.1 != s.cur) ++ [(s.cur, s.tagOf s.g.engine)] }
    | none => s
  s1.setG { s1.g with waiting := .abar r.1 r.2 }

/-- AB.WAIT (R268). One that has been released answers with what its release has kept, whatever has become of the record. -/
def execAbWait (f : VForm) (s : State) : Host.Outcome State Fault Refusal :=
  s.finish (.abWait f) do
    if !s.g.groupExec f.g then .ok (.go s)
    else match s.g.barDone with
      | some d =>
        if d.pc = s.g.pc then .ok (.go (s.barAnswer f d.result d.scope))
        else .ok (.wait (s.setG { s.g with barDone := none }) 11)
      | none => do
        let r ← s.barOperand f (s.s64 f.a)
        if s.barOwned r then s.waitOn 17
        else match s.barTest r ((s.s64 f.b).getLsbD 0) with
          | 0 => .ok (.go (s.barAnswer f false .team))
          | 1 => .ok (.go (s.barAnswer f true (s.readBar r.1 r.2).acqScope))
          | _ => .ok (.wait (s.barWait r) 11)

/-- AB.TRY (R268). -/
def execAbTry (f : VForm) (s : State) : Host.Outcome State Fault Refusal :=
  s.finish (.abTry f) do
    if !s.g.groupExec f.g then .ok (.go s)
    else
      let r ← s.barOperand f (s.s64 f.a)
      if s.barOwned r then s.waitOn 17
      else
        let t := s.barTest r ((s.s64 f.b).getLsbD 0)
        let s1 := match f.d with
          | .scal n => s.setS n.val ⟨BitVec.ofNat 64 t, 0⟩
          | .pred n => s.setG (s.g.setPred n.val (s.g.execLanes f.g) (if t = 1 then allLanes else 0))
          | _ => s
        .ok (.go (if t = 1 then s1.acquireL1 s.cur (s.readBar r.1 r.2).acqScope else s1))

/-- The record at a byte disarmed and its waiters released with 0 (R269). -/
def State.disarm (s : State) (core byte : Nat) : State :=
  match s.armedAt core byte with
  | none => s
  | some _ =>
    ((s.writeBar core byte { s.readBar core byte with arm := false }).dropArmed core byte false).releaseWaiters core byte false

/-- AB.INVAL (R269). -/
def execAbInval (f : VForm) (s : State) : Host.Outcome State Fault Refusal :=
  s.finish (.abInval f) do
    if !s.g.groupExec f.g then .ok (.go s)
    else
      let r ← s.scratchRec f 32 (s.s64 f.a)
      if s.barOwned r then s.waitOn 17 else .ok (.go (s.disarm r.1 r.2))

/-! ### wait.path and pcnt (R262) -/

/-- The path of an immediate. -/
def pathOf (n : Nat) : Path :=
  match n with | 0 => .ldg | 1 => .stg | 2 => .copy | 3 => .mtx | 4 => .fab | _ => .spl

/-- The oldest collective of the issuing group over which a wait on FAB returns (its FAB has been lowered), that has ended with an error
not yet reported (R354). -/
def State.oldestError (s : State) : Option Coll :=
  s.colls.find? fun c => c.status == 3 && c.lowered && !c.told && c.grp == s.cur && c.team == s.g.team

/-- The fault that a wait on a path raises (R207, R262, R295, R339, R354): a loss of that path, lost accumulators, or a
collective's error. -/
def State.pathStop (s : State) (p : Path) (lanes : Lanes) : Except Stop Unit :=
  if p == .mtx && s.t.mxLost then .error (trapGen .matrixLost 0 lanes)
  else match s.g.lost.find? fun l => l.reg == .path p with
    | some l => .error (.trap l.code l.faddr (.raw l.finfo) lanes)
    | none =>
      if p == .fab then match s.oldestError with
        | some c => .error (.trap (c.code.getD .collMismatch) 0 (.raw c.finfo) lanes)
        | none => .ok ()
      else .ok ()

/-- What a wait on a path acquires when it returns (R234, R262). -/
def State.pathAcquire (s : State) (p : Path) : State :=
  match p with
  | .copy =>
    let s1 := s.acquireL1 s.cur (if s.g.cluBar then .cluster else .team)
    if s.g.inflight.copy = 0 then s1.setG { s1.g with cluBar := false } else s1
  | .mtx => s.acquireL1 s.cur .team
  | .fab => s.acquireL1 s.cur .system
  | _ => s

/-- WAIT.PATH (R262). -/
def execWaitPath (f : VForm) (s : State) : Host.Outcome State Fault Refusal :=
  let p := pathOf (s.s64 f.a).toNat
  s.finish (.waitPath f) do
    if !s.g.groupExec f.g then .ok (.go s)
    else if min (s.n32 f.b) 1023 < s.g.inflight.get p then .ok (.wait s 9)
    else
      s.pathStop p (s.g.execLanes f.g)
      .ok (.go (s.pathAcquire p))

/-- PCNT (R262). -/
def execPcnt (f : VForm) (s : State) : Host.Outcome State Fault Refusal :=
  s.finish (.pcnt f) (.ok (.go (if s.g.groupExec f.g then
    s.setS f.d.scalNum ⟨BitVec.ofNat 64 (s.g.inflight.get (pathOf (s.s64 f.a).toNat)), 0⟩ else s)))

/-! ### stw (R271, R273) -/

/-- What `stw` answers for a Stratus offset. The reference cycles until the next window and those left in this one are free
values inside the calendar's bounds (log entry 6). -/
def State.stwWord (s : State) (off : Nat) : DWord :=
  let inside := s.inRefresh (.stratus off)
  let x := (s.fresh 32).toNat
  BitVec.ofNat 64
    ((if inside then 0 else 1 + x % 53856) + 2 ^ 32 * (stratusBank off % 64) + 2 ^ 38 * (off / 2 ^ 29 % 4)
      + 2 ^ 40 * bitNat inside + 2 ^ 41 * (if inside then 1 + x % 544 else 0))

/-- STW (R273). -/
def execStw (f : VForm) (s : State) : Host.Outcome State Fault Refusal :=
  s.finish (.stw f) (.ok (.go (if !s.g.groupExec f.g then s
    else
      let ea := s.s64 f.a
      let o := (ea - (s.ctxCore s.g.core s.g.asid).apstr).toNat
      let v : DWord := if o < 0x80000000 then s.stwWord o else BitVec.allOnes 64
      s.useFresh.setS f.d.scalNum ⟨v, 0⟩)))

/-! ### Events -/

/-- The barrier-wait record of a group: one in each phase or generation (R109, R270). -/
def State.waitRecord (s : State) (k : Nat) (eng : Nat) (payload : BitVec 96) : State :=
  let g := s.group k
  if g.waitTold == some payload then s
  else (s.putGroup k { g with waitTold := some payload }).emit eng 0x07 (some g.asid) payload

/-- AB_WAIT_RECORD of a group that waits at an asynchronous barrier (R270). -/
def execAbWaitRecord (k : Nat) (s : State) : Host.Outcome State Fault Refusal :=
  match (s.group k).waiting with
  | .abar c b => .next (s.waitRecord k (engScratch c) (barrierPayload 1 (abarObj c b) (s.readBar c b).gen (s.group k).index))
  | _ => .next s

/-- TBAR_WAIT_RECORD of a group that waits at its team's barrier (R109). -/
def execTbarWaitRecord (k : Nat) (s : State) : Host.Outcome State Fault Refusal :=
  let g := s.group k
  let t := s.team g.team
  .next (if g.waiting == .barrier then s.waitRecord k g.engine (barrierPayload 0 t.barObj t.bar.gen.toNat g.index) else s)

/-- Which banks are in their refresh window: the calendar opens one of a die at a time (R271). -/
def refreshNow (l : List Nat) (die bank : Nat) (enters : Bool) : List Nat :=
  if enters then (die * 64 + bank) :: l.filter fun x => x / 64 != die else l.filter fun x => x != die * 64 + bank

/-- STRATUS_REFRESH_WINDOW: a bank enters or leaves its window (R271). -/
def execStratusRefreshWindow (die bank : Nat) (enters : Bool) (s : State) : Host.Outcome State Fault Refusal :=
  .next { s with refresh := refreshNow s.refresh (die % 4) (bank % 64) enters }

end Sys2Proof.Machine
end

