-- ==== Sys2Proof/Machine/Copy.lean ====
section
/-! DEFINITION. The tensor copy engine: layout records, canonical containers, `tc.ld`, `tc.st`, rings, and the events
that accept, complete, stop and replay their commands (chapter 11, R244 to R260 and R434). -/

namespace Sys2Proof.Machine

/-! ### Storage formats and canonical encodings (R247, R249) -/

/-- What a storage format holds. -/
inductive Storage where
  | raw
  | int (signed : Bool)
  | float (t : Ty)
  | block (t : Ty)
  | f32k
  | rns
deriving DecidableEq, Repr

/-- A FMT code: what it holds and its bits per element; none for a code that is not listed. -/
def storageOf (fmt : Nat) : Option (Storage × Nat) :=
  match fmt with
  | 0x00 | 0x01 => some (.raw, 32) | 0x02 | 0x03 => some (.raw, 64)
  | 0x04 => some (.int true, 16) | 0x05 => some (.int false, 16) | 0x06 => some (.int true, 8) | 0x07 => some (.int false, 8)
  | 0x08 => some (.float .f32, 32) | 0x09 => some (.float .f64, 64) | 0x0A => some (.float .f16, 16)
  | 0x0B => some (.float .bf16, 16) | 0x0C => some (.float .f8e4, 8) | 0x0D => some (.float .f8e5, 8)
  | 0x0E => some (.float .f4, 4) | 0x0F => some (.rns, 32) | 0x10 => some (.int true, 4) | 0x11 => some (.int false, 4)
  | 0x12 => some (.block .f8e4, 8) | 0x13 => some (.block .f8e5, 8) | 0x14 => some (.block .f4, 4) | 0x15 => some (.f32k, 64)
  | _ => none

/-- The default canonical encoding of a format. -/
def Storage.canon : Storage → Canon
  | .raw => .raw | .int _ => .rns | .rns => .rns | .f32k => .c32 | .block _ => .cx
  | .float .f32 => .c32 | .float .f64 => .c64 | .float _ => .cx

/-- The canonical encodings that a `tc.ld` pairs with a format. -/
def Storage.canons : Storage → List Canon
  | .float .f32 => [.c32, .c64] | .float .f64 => [.c64] | .float _ => [.cx, .c32, .c64] | .block _ => [.cx, .c64]
  | .f32k => [.c32] | x => [x.canon]

/-- Is it one of the float formats? -/
def Storage.isFloat : Storage → Bool
  | .float _ | .block _ | .f32k => true | _ => false

/-- The canonical encoding that CAN asks for; none when the pairing is refused (R247). -/
def pickCanon (st : Storage) (can : Nat) (store : Bool) : Option Canon :=
  match can with
  | 0 => some st.canon
  | k =>
    let c : Canon := match k with | 1 => .cx | 2 => .c32 | _ => .c64
    if st.isFloat && (store || st.canons.contains c) then some c else none

/-- Precision and least normal exponent of a canonical float encoding. -/
def Canon.grid : Canon → Nat × Int
  | .cx => (12, -510) | .c64 => (53, -1022) | _ => (24, -126)

/-- The value of a canonical float container. -/
def Canon.decode (c : Canon) (v : Nat) : FVal :=
  match c with
  | .cx => match ieeeDecode 10 11 (v % 2 ^ 22) with
    | .num x => if v / 2 ^ 11 % 2 ^ 10 = 0 then .num ⟨x.neg, 0, 0, false⟩ else .num x
    | .nan _ => .nan false
    | w => w
  | .c64 => ieeeDecode 11 52 v
  | _ => ieeeDecode 8 23 (v % 2 ^ 32)

/-- The container of a value that the encoding holds exactly. -/
def Canon.encode (c : Canon) (v : FVal) : Nat :=
  match c, v with
  | .cx, .nan _ => 0x1FFC00
  | .cx, .inf n => (if n then 2 ^ 21 else 0) + 1023 * 2 ^ 11
  | .cx, .num x => ieeeEncode 10 11 x.neg x.m x.e
  | .c64, v => (valBits .f64 v).toNat
  | _, v => (valBits .f32 v).toNat

/-- The exact value of a container and its tail with q taken in the grid (p, emin) (R254). -/
def gridTail (grid : Nat × Int) (v : FVal) (tail : Tail) : FVal :=
  match v with
  | .num x =>
    let q := (if x.m = 0 then grid.2 else max x.log grid.2) - (grid.1 : Int) + 1
    let k := min x.e (q - 2)
    .num { x with m := x.m * pow2 (x.e - k) + (tail.toNat / 2) * pow2 (q - 2 - k), e := k }
  | v => v

/-! ### Layout records (R246 to R248) -/

/-- A list of five built from dimension 0 up, with a value of its own for dimensions at or above NDIM (R246). -/
def dims (ndim : Nat) (absent : Nat) (f : Nat → Nat) : List Nat :=
  (List.range 5).map fun k => if k < ndim then f k else absent

/-- The layout of a record's 64 bytes; none when it fails R246 to R248 for a `tc.ld` (or `tc.st`: `store`). -/
def Layout.ofRecord (v : Nat) (store : Bool) : Option Layout :=
  let top := 64 * 7 + 32
  let ndim := bitsAt v (top + 6) 3
  match storageOf (bitsAt v top 6) with
  | none => none
  | some (st, bits) => match pickCanon st (bitsAt v (top + 15) 2) store with
    | none => none
    | some can =>
      let l : Layout :=
        { base := BitVec.ofNat 64 v
          strs := (dims ndim 0 fun k => if k = 0 then 0 else bitsAt v (64 * k) 48).drop 1
          tls := dims ndim 1 fun k => if k = 0 then bitsAt v (top + 17) 13 else bitsAt v (64 * k + 48) 16
          exts := dims ndim 1 fun k => bitsAt v (64 * 5 + 32 * k) 32
          fmt := bitsAt v top 6, ndim := ndim, rm := bitsAt v (top + 9) 3, scloc := bitsAt v (top + 12) 2
          sat := v.testBit (top + 14), can := can }
      let eb := max 1 (bits / 8)
      let isBlock : Bool := match st with | .block _ => true | _ => false
      let ok := 1 ≤ ndim && ndim ≤ 5 && l.rm != 7 && bitsAt v (top + 30) 2 == 0
        && (if isBlock then l.scloc == 1 || l.scloc == 2 else l.scloc == 0)
        && l.tls.all (1 ≤ ·) && l.tls.headD 0 ≤ 4096
        && l.base.toNat % eb == 0 && l.strs.all (· % eb == 0)
        && (!isBlock || (l.tls.headD 0 % 32 == 0 && l.exts.headD 0 % 32 == 0))
      if ok then some l else none

/-- What the layout's format holds. -/
def Layout.storage (l : Layout) : Storage := match storageOf l.fmt with | some (st, _) => st | none => .raw
/-- Bits per stored element. -/
def Layout.bits (l : Layout) : Nat := match storageOf l.fmt with | some (_, b) => b | none => 32
/-- TL0. -/
def Layout.tl0 (l : Layout) : Nat := l.tls.headD 1
/-- Is the format block-scaled? -/
def Layout.isBlock (l : Layout) : Bool := match l.storage with | .block _ => true | _ => false

/-! ### The tile in scratchpad (R250) -/

/-- The least power of two that is not below n. -/
def pow2Up (n : Nat) : Nat := if n ≤ 1 then 1 else 2 ^ (Nat.log2 (n - 1) + 1)
/-- Bytes of a container. -/
def Layout.contBytes (l : Layout) : Nat := if l.can == .c64 || (l.can == .raw && l.bits == 64) then 8 else 4
/-- Rows of a tile. -/
def Layout.rows (l : Layout) : Nat := (l.tls.drop 1).foldl (· * ·) 1
/-- G: granules of a row. -/
def Layout.granules (l : Layout) : Nat := pow2Up ((l.tl0 * l.contBytes + 127) / 128)
/-- P: the pitch of a row. -/
def Layout.pitch (l : Layout) : Nat := 128 * l.granules
/-- Bytes of the tile region. -/
def Layout.tileBytes (l : Layout) : Nat := l.rows * l.pitch
/-- Offset in the tile of byte j of row r. -/
def Layout.place (l : Layout) (r j : Nat) : Nat :=
  r * l.pitch + 128 * ((j / 128) ^^^ (r % min 8 l.granules)) + j % 128

/-- Tile-local coordinates t1 to t4 of row r. -/
def Layout.rowCoords (l : Layout) (r : Nat) : List Nat :=
  let step (a : List Nat × Nat) (n : Nat) : List Nat × Nat := (a.1 ++ [a.2 % n], a.2 / n)
  ((l.tls.drop 1).foldl step ([], r)).1

/-! ### Elements in memory (R248) -/

/-- Where an element is stored: its first byte, whether it is the high nibble, and the byte of its block's scale. -/
structure ElemAt where
  va    : DWord
  high  : Bool
  scale : Option DWord
deriving DecidableEq, Repr

/-- Global coordinates of the element (r, t0) of a command's tile. -/
def CopyCmd.coords (c : CopyCmd) (r t0 : Nat) : List Nat := List.zipWith (· + ·) c.origin (t0 :: c.lay.rowCoords r)

/-- Does the element lie in the tensor? -/
def CopyCmd.inside (c : CopyCmd) (r t0 : Nat) : Bool :=
  (List.zipWith (fun i e => decide (i < e)) (c.coords r t0) c.lay.exts).all fun b => b

/-- The address of element 0 of a row. -/
def CopyCmd.rowVa (c : CopyCmd) (r : Nat) : DWord :=
  c.lay.base + BitVec.ofNat 64 ((List.zipWith (· * ·) ((c.coords r 0).drop 1) c.lay.strs).foldl (· + ·) 0)

/-- Where the element (r, t0) is stored. -/
def CopyCmd.elemAt (c : CopyCmd) (r t0 : Nat) : ElemAt :=
  let l := c.lay
  let row := c.rowVa r
  let i := (c.coords r t0).headD 0
  let off (n : Nat) : DWord := row + BitVec.ofNat 64 n
  if !l.isBlock then ⟨off (l.bits * i / 8), l.bits == 4 && i % 2 == 1, none⟩
  else if l.scloc = 1 then
    let blk := i / 32 * (1 + 4 * l.bits)
    ⟨off (blk + 1 + l.bits * (i % 32) / 8), l.bits == 4 && i % 2 == 1, some (off blk)⟩
  else ⟨off (l.bits * i / 8), l.bits == 4 && i % 2 == 1, some (off ((l.bits * l.exts.headD 0 + 7) / 8 + i / 32))⟩

/-! ### Element conversion (R253, R254) -/

/-- The power of two of an E8M0 scale byte, none for NaN. -/
def scaleExp (x : Nat) : Option Int := if x = 255 then none else some ((x : Int) - 127)

/-- A float value in a canonical container; a NaN that the same encoding holds keeps its bits unless it signals. -/
def expandFloat (t : Ty) (c : Canon) (raw : Nat) (v : FVal) : Nat :=
  if v.isNan && !v.isSig && ((t == .f32 && c == .c32) || (t == .f64 && c == .c64)) then raw else c.encode v

/-- The container and tail that `tc.ld` writes for a stored element (R253). -/
def Layout.expand (l : Layout) (raw : Nat) (scale : Option Nat) : Nat × Tail :=
  match l.storage with
  | .raw | .rns => (raw, 0)
  | .int signed =>
    let x : Int := if signed && raw.testBit (l.bits - 1) then (raw : Int) - (2 ^ l.bits : Nat) else raw
    ((rnsEncode x).toNat, 0)
  | .float t => (expandFloat t l.can raw (decodeMem t raw), 0)
  | .block t => (match scaleExp (scale.getD 127) with
    | none => l.can.encode (.nan false)
    | some k => l.can.encode ((decodeMem t raw).scale k), 0)
  | .f32k => (expandFloat .f32 l.can (raw % 2 ^ 32) (ieeeDecode 8 23 (raw % 2 ^ 32)), BitVec.ofNat 3 (raw / 2 ^ 32))

/-- A number wrapped or clamped to b bits (R254). -/
def narrowInt (x : Int) (b : Nat) (signed sat : Bool) : Nat :=
  let lo : Int := if signed then -(2 ^ (b - 1) : Nat) else 0
  let hi : Int := if signed then (2 ^ (b - 1) : Nat) - 1 else (2 ^ b : Nat) - 1
  ((if sat then max lo (min hi x) else x) % (2 ^ b : Nat)).toNat

/-- The f32k image of a container in another encoding than C32 (R254). -/
def imageF32k (c : Canon) (v : Nat) (tail : Tail) : Nat :=
  let r := formOut .f32 0 false false (gridTail c.grid (c.decode v) tail)
  r.v.toNat % 2 ^ 32 + (r.tail ||| (tail &&& 1)).toNat * 2 ^ 32

/-- The stored element that `tc.st` makes of a container and its tail (R254), for a format without block scales. -/
def Layout.narrow (l : Layout) (v : Nat) (tail : Tail) (mode rho : Nat) : Nat :=
  match l.storage with
  | .raw | .rns | .block _ => v % 2 ^ l.bits
  | .int signed => narrowInt (rnsDecode (BitVec.ofNat 64 v)) l.bits signed l.sat
  | .f32k => if l.can == .c32 then v % 2 ^ 32 + tail.toNat * 2 ^ 32 else imageF32k l.can v tail
  | .float t =>
    let x := l.can.decode v
    if x.isNan && ((t == .f32 && l.can == .c32) || (t == .f64 && l.can == .c64)) then v
    else encodeMem t (finalRound t mode rho false l.sat (tail.getLsbD 0) (tailedVal t x tail)).1

/-- emax of a block format (R254). -/
def blockEmax (t : Ty) : Int := match t with | .f8e4 => 8 | .f8e5 => 15 | _ => 2

/-- c of a block's scale 2^c (R254) for the exact values of the block; none when it holds a NaN. -/
def blockScale (t : Ty) (vs : List FVal) : Option Int :=
  if vs.any FVal.isNan then none
  else
    let logs := vs.filterMap fun v => match v with | .num x => if x.isZero then none else some x.log | _ => none
    match logs with
    | [] => some (-127)
    | a :: l => some (max (-127) (min 127 (l.foldl max a - blockEmax t)))

/-- An element of a block with scale 2^c (R254): its value over the scale, settled with its tail in the storage format. -/
def blockElem (t : Ty) (sat : Bool) (c : Option Int) (mode rho : Nat) (tail : Tail) (v : FVal) : Nat :=
  match c with
  | none => if t == .f4 then 0 else encodeMem t (.nan false)
  | some k => encodeMem t (finalRound t mode rho false sat (tail.getLsbD 0) (tailedVal t (v.scale (-k)) tail)).1

/-! ### The tensor side (R252, R256) -/

/-- Why a transfer does not go on: a fault of the tensor side or of a record that it would overwrite, a wait for a line that another
command owns or for a bank in its refresh window, or a stop of the model. -/
inductive TcErr where
  | trap (t : TrapInfo)
  | wait (owned : Bool)
  | model (f : Fault)
deriving DecidableEq, Repr

/-- The trap of a fault of the tensor side (R256). -/
def tcTrap (asid : BitVec 16) (e : AccErr) : TrapInfo :=
  { code := e.code, faddr := e.faddr, finfo := e.finfo asid, mask := 0, async := true, ilen := false }

/-- A tensor-side access of `n` bytes. -/
def CopyCmd.access (c : CopyCmd) (n : Nat) : Access :=
  { acc := if c.store then 1 else 0, size := n, write := c.store, user := c.user }

/-- A tensor-side address steered and translated (R252, R272). -/
def State.tcSteer (s : State) (c : CopyCmd) (n : Nat) (va : DWord) : Except AccStop Loc :=
  let a := c.access n
  if !canonical va then .error (a.err .aperture 7 0 0xE va)
  else match steer (s.ctxCore c.core c.asid) va with
    | (.stratus, o) => if c.store && !c.strload then .error (a.err .protect 7 3 5 va) else .ok (.stratus o)
    | (.scratch, _) => .error (a.err .protect 7 1 6 va)
    | (.record, _) | (.stack, _) => .error (a.err .protect 7 2 6 va)
    | (.global, _) => match s.resolveGlobal c.core c.asid a va with
      | .error (.err e) =>
        if e.reason == 5 && c.strload then s.resolveGlobal c.core c.asid { a with write := false } va
        else .error (.err e)
      | r => r

/-- Does the location lie in a line that an older command owns (R234)? -/
def State.ownedBefore (s : State) (id : Nat) (l : Loc) (n : Nat) (write : Bool) : Bool :=
  { s with owned := s.owned.filter fun o => o.cmd < id }.isOwned l n write

/-- DATA_LOST of the tensor side (R207, R256): a source whose data is uncorrectable, or an address behind a page-table entry that
cannot be read. -/
def State.tcBad (s : State) (c : CopyCmd) (l : Loc) (n : Nat) (va : DWord) : Option AccErr :=
  if c.store && l != .lost then none
  else (s.badByte n [⟨0, va, l⟩]).map fun b => { s.lossErr c.core c.asid (if c.store then 1 else 0) n va with faddr := b.2 }

/-- A tensor-side location ready to be accessed. -/
def State.tcLoc (s : State) (c : CopyCmd) (n : Nat) (va : DWord) : Except TcErr Loc :=
  match s.tcSteer c n va with
  | .error (.model f) => .error (.model f)
  | .error (.err e) => .error (.trap (tcTrap c.asid e))
  | .ok l =>
    if s.inRefresh l then .error (.wait false)
    else if s.ownedBefore c.id l n c.store then .error (.wait true)
    else match s.tcBad c l n va with
      | some x => .error (.trap (tcTrap c.asid x))
      | none => .ok l

/-- `n` bytes at a location's home. -/
def State.homeValue (s : State) (l : Loc) (n : Nat) : Nat := leValue ((List.range n).map (s.homeByte l))

/-- A stored element read with its scale (R248). -/
def State.readElem (s : State) (c : CopyCmd) (at_ : ElemAt) : Except TcErr (Nat × Option Nat) := do
  let n := max 1 (c.lay.bits / 8)
  let l ← s.tcLoc c n at_.va
  let x := s.homeValue l n
  let raw := if c.lay.bits = 4 then (if at_.high then x / 16 else x % 16) else x
  match at_.scale with
  | none => .ok (raw, none)
  | some va => do
    let sl ← s.tcLoc c 1 va
    .ok (raw, some (s.homeValue sl 1))

/-- Bytes written on the tensor side. -/
def State.tcWrite (s : State) (c : CopyCmd) (n : Nat) (va : DWord) (v : Nat) : Except TcErr State := do
  let l ← s.tcLoc c n va
  .ok (s.writeHomeBytes l 0 (leBytes n v))

/-- A stored element written: a nibble keeps the other half of its byte. -/
def State.writeElem (s : State) (c : CopyCmd) (at_ : ElemAt) (v : Nat) : Except TcErr State := do
  if c.lay.bits = 4 then
    let l ← s.tcLoc c 1 at_.va
    let old := s.homeValue l 1
    s.tcWrite c 1 at_.va (if at_.high then old % 16 + 16 * (v % 16) else old / 16 * 16 + v % 16)
  else s.tcWrite c (c.lay.bits / 8) at_.va v

/-! ### Moving one tile -/

/-- Scratchpad byte of the container at position p of row r of a command's tile. -/
def CopyCmd.contByte (c : CopyCmd) (r p : Nat) : Nat := c.tbyte + c.lay.place r (c.lay.contBytes * p)

/-- A container with its tail. -/
def State.container (s : State) (c : CopyCmd) (r p : Nat) : Nat × Tail :=
  (s.readScratch c.tcore (c.contByte r p) c.lay.contBytes, (s.sword c.tcore (c.contByte r p)).tail)

/-- A container that `tc.st` reads as a source: DATA_LOST when its scratchpad words are uncorrectable (R207, R256). -/
def State.sourceCont (s : State) (c : CopyCmd) (r p : Nat) : Except TcErr (Nat × Tail) :=
  let byte := c.contByte r p
  let va := c.tva + BitVec.ofNat 64 (byte - c.tbyte)
  match s.badByte c.lay.contBytes [⟨0, va, .scratch c.tcore byte⟩] with
  | some b => .error (.trap (tcTrap c.asid { s.lossErr c.core c.asid 0 c.lay.contBytes va with faddr := b.2 }))
  | none => .ok (s.container c r p)

/-- ρ of an element under STO (R254). -/
def CopyCmd.rho (c : CopyCmd) (r t0 : Nat) : Nat :=
  if c.mode = 5 then
    ((mix (c.seed + 3) c.dix (BitVec.ofNat 64 (c.elem + r * c.lay.tl0 + t0))).extractLsb' 32 32).toNat
  else 0

/-- BARRIER_CLOBBER of an engine write (R265). -/
def CopyCmd.clobber (c : CopyCmd) (byte : Nat) : TcErr :=
  .trap { code := .barrierClobber, faddr := c.tva + BitVec.ofNat 64 (byte - c.tbyte), finfo := genericFinfo 0 0xA8 0 0
          mask := 0, async := true, ilen := false }

/-- `tc.ld` writes the container at position p of row r (R253): +0 outside the tensor and in the row's padding. -/
def State.loadCont (c : CopyCmd) (rp : Nat × Nat) (s : State) : Except TcErr State := do
  let byte := c.contByte rp.1 rp.2
  let v ← (if rp.2 < c.lay.tl0 && c.inside rp.1 rp.2 then do
      let x ← s.readElem c (c.elemAt rp.1 rp.2)
      .ok (c.lay.expand x.1 x.2)
    else .ok (0, 0) : Except TcErr (Nat × Tail))
  if s.clobbers (.scratch c.tcore byte) c.lay.contBytes then .error (c.clobber byte)
  else .ok (s.writeScratch c.tcore byte c.lay.contBytes v.1 v.2)

/-- `tc.st` writes the element (r, t0) of a format without block scales (R254). -/
def State.storeElem (c : CopyCmd) (rp : Nat × Nat) (s : State) : Except TcErr State :=
  if c.inside rp.1 rp.2 then do
    let x ← s.sourceCont c rp.1 rp.2
    s.writeElem c (c.elemAt rp.1 rp.2) (c.lay.narrow x.1 x.2 c.mode (c.rho rp.1 rp.2))
  else .ok s

/-- The containers of block k of row r, as values with their tails. -/
def State.blockVals (s : State) (c : CopyCmd) (r k : Nat) : Except TcErr (List (FVal × Tail)) :=
  (List.range 32).mapM fun j => (s.sourceCont c r (32 * k + j)).map fun x => (c.lay.can.decode x.1, x.2)

/-- The element type of a block format. -/
def Layout.blockTy (l : Layout) : Ty := match l.storage with | .block t => t | _ => .f32

/-- `tc.st` writes block k of row r: its scale byte, then its elements (R254). In amax a value counts with its tail at the quantum q of its
own encoding: DESIGN CHOICE, log entry 106 (R254 says only 'exact values'). -/
def State.storeBlock (c : CopyCmd) (rk : Nat × Nat) (s : State) : Except TcErr State :=
  if c.inside rk.1 (32 * rk.2) then do
    let t := c.lay.blockTy
    let vs ← s.blockVals c rk.1 rk.2
    let k := blockScale t (vs.map fun x => gridTail c.lay.can.grid x.1 x.2)
    let byte : Nat := match k with | none => 255 | some k => (k + 127).toNat
    let s1 ← s.tcWrite c 1 ((c.elemAt rk.1 (32 * rk.2)).scale.getD 0) byte
    (List.range 32).foldlM (fun st j =>
      let p := 32 * rk.2 + j
      let x := vs.getD j (.nan false, 0)
      st.writeElem c (c.elemAt rk.1 p) (blockElem t c.lay.sat k c.mode (c.rho rk.1 p) x.2 x.1)) s1
  else .ok s

/-- Steps done in order as far as they go: the state they leave, and what stopped them with the number of steps left undone. -/
def runSteps {α : Type} (f : α → State → Except TcErr State) : List α → State → State × Option (TcErr × Nat)
  | [], s => (s, none)
  | x :: xs, s => match f x s with
    | .ok t => runSteps f xs t
    | .error e => (s, some (e, xs.length + 1))

/-- Pairs (r, p) in row order. -/
def grid (rows n : Nat) : List (Nat × Nat) := (List.range rows).flatMap fun r => (List.range n).map fun p => (r, p)

/-- Does a `tc.st` move whole blocks? -/
def CopyCmd.byBlock (c : CopyCmd) : Bool := c.store && c.lay.isBlock

/-- The steps of a command's transfer in order: containers of `tc.ld`, blocks or elements of `tc.st`. -/
def CopyCmd.steps (c : CopyCmd) : List (Nat × Nat) :=
  grid c.lay.rows (if !c.store then c.lay.pitch / c.lay.contBytes else if c.lay.isBlock then c.lay.tl0 / 32 else c.lay.tl0)

/-- A command's transfer (R253, R254): the state with what it could write, and what stopped it. It waits for lines of the
tile that older commands own (R234). -/
def State.tcRun (s : State) (c : CopyCmd) : State × Option (TcErr × Nat) :=
  if s.ownedBefore c.id (.scratch c.tcore c.tbyte) c.lay.tileBytes (!c.store) then (s, some (.wait true, c.steps.length))
  else runSteps (if !c.store then State.loadCont c else if c.lay.isBlock then State.storeBlock c else State.storeElem c) c.steps s

/-! ### What Cirrus carries of a transfer (R335, R338, log entry 111) -/

/-- The elements of a tile that lie in the tensor. -/
def CopyCmd.inElems (c : CopyCmd) : List ElemAt := ((grid c.lay.rows c.lay.tl0).filter fun p => c.inside p.1 p.2).map fun p => c.elemAt p.1 p.2

/-- The tensor-side addresses of the elements and of their block scales. -/
def CopyCmd.tensorVas (c : CopyCmd) : List DWord := c.inElems.flatMap fun a => a.va :: a.scale.toList

/-- One address in each 4 KiB page that the tensor side touches: what the engine translates (R202, R224). -/
def CopyCmd.pageVas (c : CopyCmd) : List DWord :=
  ((c.tensorVas.filter canonical).map fun va => BitVec.ofNat 64 (va.toNat / 4096 * 4096)).eraseDups

/-- The tensor-side accesses of `n` bytes at some addresses that reach peer pages. -/
def State.peerSide (s : State) (c : CopyCmd) (n : Nat) (vas : List DWord) : List LaneLoc :=
  vas.eraseDups.filterMap fun va => match s.tcSteer c n va with
    | .ok l => if l.isPeer then some ⟨0, va, l⟩ else none
    | .error _ => none

/-- Does the tensor side reach a peer page? -/
def State.reachesPeer (s : State) (c : CopyCmd) : Bool := s.peerSide c 1 c.pageVas != []

/-- The requests of a transfer for its elements and its scale bytes on peer pages. -/
def State.askSide (s : State) (c : CopyCmd) (op : PeerOp) : State × List Req :=
  let n := max 1 (c.lay.bits / 8)
  let ask (k : Nat) (l : LaneLoc) : PeerOp × BitVec 128 × DWord := (op, if op.isLoad then 0 else BitVec.ofNat 128 (s.homeValue l.loc k), 0)
  let acc := if c.store then 1 else 0
  let q := s.askPeers acc n (ask n) (s.peerSide c n (c.inElems.map fun a => a.va))
  let r := q.1.askPeers acc 1 (ask 1) (s.peerSide c 1 (c.inElems.flatMap fun a => a.scale.toList))
  (r.1, q.2 ++ r.2)

/-- Does a transfer read its tensor side: `tc.ld`, or a `tc.st` of nibbles, which keeps the other half of a byte? -/
def CopyCmd.readsSide (c : CopyCmd) : Bool := !c.store || c.lay.bits == 4

/-- What a transfer to the memory of a failed host loses: its outcome, told to the wait on COPY that covers it (R339, R419). -/
def State.copyHostLoss (s : State) (c : CopyCmd) (key : Nat) : State :=
  if !c.store || s.hostDown == [] then s
  else
    let ls := c.tensorVas.filterMap fun va => match s.tcSteer c 1 va with | .ok l => some ⟨0, va, l⟩ | .error _ => none
    let g := s.group c.grp
    s.putGroup c.grp { g with copyLost := g.copyLost ++ (s.hostLosses 1 [.copy] ls).map fun x => (key, x) }

/-- What comes of a transfer's next move: requests leave and it waits for their responses, it is done, or something stops it. -/
inductive TcMove where
  | carry (t : State) (k : Carry)
  | done (t : State)
  | stop (t : State) (e : TcErr) (undone : Nat)
deriving DecidableEq, Repr

/-- A transfer moves on (R253, R254, R335, log entries 18 and 111): what it reads on peer pages is asked for, then the tile moves at once,
and what it wrote on peer pages is carried with requests of its own. `key` is the command whose COPY count it holds. -/
def State.tcMove (s : State) (c : CopyCmd) (key : Nat) : TcMove :=
  if c.carry.sent then .done s
  else if !c.carry.asked && c.readsSide && s.reachesPeer c then
    let q := s.askSide c .load
    .carry q.1 ⟨q.2, true, false⟩
  else match s.tcRun c with
    | (t, some (e, n)) => .stop t e n
    | (t, none) =>
      let u := (t.noteVas c.core c.asid c.pageVas).copyHostLoss c key
      if c.store && s.reachesPeer c then
        let q := u.askSide c .store
        .carry q.1 ⟨q.2, true, true⟩
      else .done u

/-- Source bytes read and canonical bytes written in some steps of a command (R275): stored elements with their block scales, or
containers. -/
def CopyCmd.moved (c : CopyCmd) (l : List (Nat × Nat)) : Nat × Nat :=
  let inn := l.filter fun p => p.2 < c.lay.tl0 && c.inside p.1 (if c.byBlock then 32 * p.2 else p.2)
  if c.store then (inn.length * (if c.lay.isBlock then 32 else 1) * c.lay.contBytes, 0)
  else (inn.length * c.lay.bits / 8 + (if c.lay.isBlock then (inn.filter fun p => p.2 % 32 == 0).length else 0),
        l.length * c.lay.contBytes)

/-! ### Issue of tc.ld and tc.st (R251, R252, R255) -/

/-- The stop of an access of an operand that the group as a whole makes. -/
def accOne (asid : BitVec 16) (e : AccStop) (lanes : Lanes) : Stop :=
  match e with
  | .model f => .fault f
  | .err e => .trap e.code e.faddr (.raw (e.finfo asid)) lanes

/-- Where a layout record lies: in scratchpad or in global memory. -/
def State.layoutLoc (s : State) (f : VForm) (ea : DWord) : Except Stop Loc :=
  let e := s.g.execLanes f.g
  match s.resolve s.g { acc := 0, size := 64, user := !s.g.mode } 0 true ea with
  | .error x => .error (accOne s.g.asid x e)
  | .ok l => if s.winOf ea ≤ 1 then .ok l else .error (s.recStop f .protect (s.winOf ea) 6 6 ea)

/-- The origin in s[K] to s[K+NDIM-1]; the other dimensions lie at 0. -/
def State.originOf (s : State) (f : VForm) (l : Layout) : List Nat :=
  dims l.ndim 0 fun k => ((s.g.sval (f.b.scalNum + k)).setWidth 32).toNat

/-- May the issuing group's engine commands write Stratus (R272)? -/
def State.mayLoadStratus (s : State) : Bool := s.g.mode && (s.taskOf s.t).kd.strload

/-- BASE's window checked (R252, R272). -/
def State.checkBase (s : State) (f : VForm) (base : DWord) (store : Bool) : Except Stop Unit :=
  if !canonical base then .error (s.recStop f .aperture 0 0xE 0 base)
  else match s.winOf base with
    | 0 => .ok ()
    | 3 => require (!store || s.mayLoadStratus) (s.recStop f .protect 3 5 0 base)
    | w => .error (s.recStop f .protect w 6 0 base)

/-- The layout record at a location, read at its home and checked with the origin that the instruction gives. -/
def State.layoutAt (s : State) (f : VForm) (loc : Loc) (store : Bool) : Except Stop Layout := do
  let e := s.g.execLanes f.g
  match Layout.ofRecord (s.readHome s.g loc 64) store with
  | none => .error (trapGen .reserved 0 e)
  | some l => do
    s.checkBase f l.base store
    require (!l.isBlock || (s.originOf f l).headD 0 % 32 == 0) (trapGen .reserved 0 e)
    .ok l

/-- DATA_LOST of a record of `n` bytes that the issuing group's instruction reads (R207, R256). -/
def State.recordLost (s : State) (f : VForm) (n : Nat) (ea : DWord) (loc : Loc) : Except Stop Unit :=
  match s.badAccess s.g 0 n [⟨96, ea, loc⟩] with
  | some b => .error (.trap b.1 b.2.1 (.raw b.2.2) (s.g.execLanes f.g))
  | none => .ok ()

/-- The tile region at a window address (R250). -/
def State.tileAt (s : State) (f : VForm) (ea : DWord) (n : Nat) : Except Stop (Nat × Nat) :=
  if !canonical ea then .error (s.recStop f .aperture 0 0xE 7 ea)
  else match steer (s.ctxCore s.g.core s.g.asid) ea with
    | (.scratch, o) => match s.t.scratchLoc o n with
      | some (.scratch c b) => if ea.toNat % 128 = 0 then .ok (c, b) else .error (s.recStop f .protect 1 6 7 ea)
      | _ => .error (s.recStop f .protect 1 6 7 ea)
    | _ => .error (s.recStop f .protect (s.winOf ea) 6 7 ea)

/-- The barrier operand of `tc.ld` and `tc.st` (R252, R255): s0 names none. -/
def State.cmdBar (s : State) (f : VForm) : Except Stop (Option BarRef) :=
  if f.c.scalNum = 0 then .ok none
  else
    let v := s.g.sval f.c.scalNum
    match s.barOperand f v with
    | .error _ => .error (s.recStop f .protect (s.winOf v) 6 5 v)
    | .ok r => .ok (some ⟨r.1, r.2, (s.readBar r.1 r.2).scope⟩)

/-- The mode of a record's narrowing (R246). -/
def State.narrowMode (s : State) (f : VForm) (l : Layout) : Nat :=
  if l.rm = 6 then fpcRm (s.g.fpcOf (firstLane (s.g.execLanes f.g))) else l.rm

/-- A transfer of the issuing group. -/
def State.mkCopy (s : State) (f : VForm) (store : Bool) (l : Layout) (tile : Nat × Nat) (tva : DWord) (bar : Option BarRef) :
    CopyCmd :=
  { id := s.cmdCtr + 1, grp := s.cur, core := s.g.core, team := s.g.team, asid := s.g.asid, user := !s.g.mode
    strload := s.mayLoadStratus, store := store, lay := l, origin := s.originOf f l, tcore := tile.1, tbyte := tile.2, tva := tva
    bar := bar, mode := s.narrowMode f l, seed := s.seed, dix := s.g.dix, elem := 0, accepted := false, stopped := none
    undone := 0, carry := Carry.none }

/-- The HBM lines that a `tc.st` writes, by line number. -/
def State.destLines (s : State) (c : CopyCmd) : List Nat :=
  (c.tensorVas.filterMap fun va => match s.tcSteer c 1 va with | .ok (.hbm pa) => some (pa / 128) | _ => none).eraseDups

/-- What the engine owns from a command's issue (R234, R245). -/
def State.ownedBy (s : State) (c : CopyCmd) : List Owned :=
  { cmd := c.id, src := c.store, core := some c.tcore, lo := c.tbyte, hi := c.tbyte + c.lay.tileBytes } ::
    (if c.store then (s.destLines c).map fun n => { cmd := c.id, src := false, core := none, lo := 128 * n, hi := 128 * (n + 1) }
     else [])

/-- The issuing group waits for acceptance with COPY raised; DIX advances for a draw of `tc.st` or a draining ring (R44). -/
def State.sendCopy (s : State) (draws : Bool) : State :=
  (s.setG { s.g with inflight := s.g.inflight.raise [.copy], waiting := .accept }).dixIf draws

/-- The scalar operands that antennae see (R274). -/
def scalarObs (s : State) (l : List Nat) : Obs := { addrs := l.map fun n => (none, (s.g.sval n).toNat) }

/-- Is the queue of a core's engine full (R244)? -/
def State.copyQueueFull (s : State) (core : Nat) : Bool := Config.copyQueue ≤ (s.copies.filter fun c => c.core == core).length

/-- `tc.ld` and `tc.st`. -/
def State.tcBody (s : State) (f : VForm) (store : Bool) : Body := do
  if !s.g.groupExec f.g then .ok (.go s)
  else
    let n := f.a.scalNum
    let loc ← s.layoutLoc f (s.g.sval n)
    match s.locWait loc 64 false with
    | some r => s.waitOn r
    | none =>
    s.recordLost f 64 (s.g.sval n) loc
    let l ← s.layoutAt f loc store
    let tva := s.g.sval (n + 1)
    let tile ← s.tileAt f tva l.tileBytes
    let bar ← s.cmdBar f
    if s.copyQueueFull s.g.core then .ok (.wait s 14)
    else if s.g.counterFull [.copy] then .ok (.wait s 15)
    else
      let c := s.mkCopy f store l tile tva bar
      let s1 := { s with cmdCtr := c.id, copies := s.copies ++ [c], owned := s.owned ++ s.ownedBy c }
      .ok (.go (s1.sendCopy (store && c.mode == 5))
        (scalarObs s ([n, n + 1] ++ if f.c.scalNum = 0 then [] else [f.c.scalNum])))

/-- TC.LD (R251 to R255). -/
def execTcLd (f : VForm) (s : State) : Host.Outcome State Fault Refusal := s.finish (.tcLd f) (s.tcBody f false)
/-- TC.ST (R251 to R255). -/
def execTcSt (f : VForm) (s : State) : Host.Outcome State Fault Refusal := s.finish (.tcSt f) (s.tcBody f true)

/-! ### Rings (R257 to R260) -/

/-- A field of the ring record at (core, byte): word k of eight bytes. -/
def State.ringWord (s : State) (r : Nat × Nat) (k : Nat) : Nat := s.readScratch r.1 (r.2 + 8 * k) 8

/-- The active ring of a record. -/
def State.ringAt (s : State) (r : Nat × Nat) : Option Ring := s.rings.find? fun x => x.rcore == r.1 && x.rbyte == r.2

/-- Serial order: n is below m (R257). -/
def serialLt (n m : Nat) : Bool :=
  let d := (m + 2 ^ 32 - n % 2 ^ 32) % 2 ^ 32
  1 ≤ d && d < 2 ^ 31

/-- The status word of a ring record: ACTIVE, DIR, STOPPED. -/
def ringStatus (active drain stopped : Bool) : Nat := bitNat active + 2 * bitNat drain + 4 * bitNat stopped

/-- COPY falls for a command or ring of a group that is complete, once no older one of the group is outstanding (R261); what has become
unknown of those that lower it is told to the next wait on COPY (R339, log entry 111). -/
def State.lowerCopy (s : State) (k id : Nat) : State :=
  let g := s.group k
  let outstanding := (s.copies.filter fun c => c.grp == k).map (fun c => c.id) ++ (s.rings.filter fun r => r.cmd.grp == k).map fun r => r.cmd.id
  let (now, later) := (id :: g.copyLate).partition fun x => outstanding.all fun y => x < y
  s.putGroup k { g with inflight := g.inflight.set .copy (g.inflight.copy - now.length), copyLate := later
                        lost := g.lost ++ (g.copyLost.filter fun x => now.contains x.1).map fun x => x.2
                        copyLost := g.copyLost.filter fun x => !now.contains x.1 }

/-- What a command owns is free, and it waits no more. -/
def State.disown (s : State) (id : Nat) : State := { s.waitOver 0 id with owned := s.owned.filter fun o => o.cmd != id }

/-- A ring ends (R258, R259): ACTIVE falls, its record is no longer guarded, COPY is lowered. -/
def State.endRing (s : State) (r : Ring) (stopped : Bool) : State :=
  let s1 := (s.writeScratch r.rcore (r.rbyte + 0x20) 8 (ringStatus false r.cmd.store stopped) 0).dropArmed r.rcore r.rbyte true
  let s2 := { s1.disown r.tile with rings := s1.rings.erase r }
  let g := s2.group r.cmd.grp
  ((s2.putGroup r.cmd.grp { g with parked := if r.cmd.stopped.isSome then false else g.parked }).lowerCopy r.cmd.grp r.cmd.id).tryFree r.cmd.grp

/-- DONE of a ring record. -/
def State.ringDone (s : State) (r : Nat × Nat) : Nat := s.readScratch r.1 (r.2 + 0x18) 4
/-- GIVEN of a ring record. -/
def State.ringGiven (s : State) (r : Nat × Nat) : Nat := s.readScratch r.1 (r.2 + 0x1C) 4

/-- A ring's next tile as a transfer of its own (R258). -/
def State.ringCmd (s : State) (r : Ring) : Option CopyCmd :=
  let off := r.cmd.tbyte + r.next % r.nslot * r.pitch
  match (s.team r.cmd.team).scratchLoc off r.cmd.lay.tileBytes with
  | some (.scratch c b) => some { r.cmd with
      id := r.tile, tcore := c, tbyte := b, tva := r.cmd.tva + BitVec.ofNat 64 (off - r.cmd.tbyte)
      elem := r.next * 2 ^ 32
      origin := (List.range 5).map fun k => r.cmd.origin.getD k 0 + if k = r.dim then r.next * r.step else 0 }
  | _ => none

/-- Is the slot of a ring's next tile available to the engine (R258)? -/
def State.ringOpen (s : State) (r : Ring) : Bool :=
  let given := s.ringGiven (r.rcore, r.rbyte)
  serialLt r.next (if r.cmd.store then given else given + r.nslot)

/-- A ring put in the place of another. -/
def State.putRing (s : State) (r r' : Ring) : State := { s with rings := s.rings.map fun x => if x == r then r' else x }

/-- Does a context switch hold a core's rings of a context: they stop after the tile in flight (R274, R318)? -/
def State.ringsHeld (s : State) (c : CopyCmd) : Bool :=
  s.switches.any fun x => x.outgoing == c.asid && (x.core == c.core || (s.team c.team).coreList.contains x.core)

/-- A ring's next tile begins once its slot is available and no context switch holds the ring: it acts as a command of its own, and from here on it owns the lines of its
destination and holds the granules of its source (R245, R258, log entry 18). -/
def State.ringBegin (s : State) (r : Ring) : State :=
  if r.tile != 0 || s.ringsHeld r.cmd || !s.ringOpen r then s
  else
    let r' := { r with tile := s.cmdCtr + 1 }
    match s.ringCmd r' with
    | none => s
    | some c => { s.putRing r r' with cmdCtr := c.id, owned := s.owned ++ s.ownedBy c }

/-- The fields of a ring record that `tc.ring` checks (R257), with the layout it names. A block-scaled format that advances dimension 0 by
a STEP which is no multiple of 32 would leave its blocks after the first tile: it faults RESERVED as an origin that does (R255), DESIGN
CHOICE, log entry 107. -/
def ringFieldsOk (w1 w2 : Nat) (l : Layout) : Bool :=
  let nslot := bitsAt w1 48 7
  bitsAt w1 58 6 == 0 && bitsAt w1 0 7 == 0 && 1 ≤ nslot && nslot ≤ 64 && bitsAt w1 55 3 < l.ndim
    && bitsAt w2 32 32 ≤ 2 ^ 31 && l.tileBytes ≤ 128 * bitsAt w1 32 16
    && (!l.isBlock || bitsAt w1 55 3 != 0 || bitsAt w2 0 32 % 32 == 0)

/-- Do all slots lie in the allocation, each in one half (R257)? -/
def Team.slotsOk (t : Team) (sbase pitch nslot n : Nat) : Bool :=
  (List.range nslot).all fun k => (t.scratchLoc (sbase + k * pitch) pitch).isSome && n ≤ pitch

/-- `tc.ring.fill` and `tc.ring.drain`. -/
def State.ringBody (s : State) (f : VForm) (drain : Bool) : Body := do
  if !s.g.groupExec f.g then .ok (.go s)
  else
    let e := s.g.execLanes f.g
    let ea := s.s64 f.a
    let r ← s.scratchRec f 64 ea
    require (!s.clobbers (.scratch r.1 r.2) 64) (.trap .barrierClobber ea (.generic 0) e)
    if s.armWaits r 64 then s.waitOn 17
    else
    s.recordLost f 64 ea (.scratch r.1 r.2)
    let lrec : DWord := BitVec.ofNat 64 (s.ringWord r 0)
    let loc ← s.layoutLoc f lrec
    match s.locWait loc 64 false with
    | some w => s.waitOn w
    | none =>
    s.recordLost f 64 lrec loc
    let l ← s.layoutAt f loc drain
    let w1 := s.ringWord r 1
    let w2 := s.ringWord r 2
    require (ringFieldsOk w1 w2 l) (trapGen .reserved 0 e)
    let sbase := bitsAt w1 0 32
    let pitch := 128 * bitsAt w1 32 16
    let nslot := bitsAt w1 48 7
    let sva := (s.ctxCore s.g.core s.g.asid).apscr + BitVec.ofNat 64 sbase
    require (s.t.slotsOk sbase pitch nslot l.tileBytes) (s.recStop f .protect 1 6 7 sva)
    if 4 ≤ (s.rings.filter fun x => x.cmd.core == s.g.core).length || s.copyQueueFull s.g.core then .ok (.wait s 14)
    else if s.g.counterFull [.copy] then .ok (.wait s 15)
    else
      let c := s.mkCopy f drain l (0, sbase) sva none
      let ring : Ring :=
        { rcore := r.1, rbyte := r.2, cmd := c, pitch := pitch, nslot := nslot, dim := bitsAt w1 55 3, step := bitsAt w2 0 32
          count := bitsAt w2 32 32, next := 0, tile := 0, stopping := false }
      let s1 := (s.writeScratch r.1 (r.2 + 0x18) 8 0 0).writeScratch r.1 (r.2 + 0x20) 8 (ringStatus true drain false) 0
      let s2 := s1.putArmed { core := r.1, team := s.g.team, byte := r.2, len := 64, ring := true, waits := [], await := 0 }
      let s3 := (State.ringBegin { s2 with cmdCtr := c.id, rings := s2.rings ++ [ring] } ring).bump (ctrCopy s.g.core 5)
      .ok (.go (s3.sendCopy (drain && c.mode == 5)) (scalarObs s [f.a.scalNum]))

/-- TC.RING.FILL (R257, R258). -/
def execTcRingFill (f : VForm) (s : State) : Host.Outcome State Fault Refusal := s.finish (.tcRingFill f) (s.ringBody f false)
/-- TC.RING.DRAIN (R257, R258). -/
def execTcRingDrain (f : VForm) (s : State) : Host.Outcome State Fault Refusal := s.finish (.tcRingDrain f) (s.ringBody f true)

/-- TC.STOP (R259): a ring with a tile in flight ends when that tile has moved, another at once. -/
def execTcStop (f : VForm) (s : State) : Host.Outcome State Fault Refusal :=
  s.finish (.tcStop f) do
    if !s.g.groupExec f.g then .ok (.go s)
    else
      let r ← s.scratchRec f 64 (s.s64 f.a)
      let obs := scalarObs s [f.a.scalNum]
      match s.ringAt r with
      | none => .ok (.go s obs)
      | some x =>
        if x.tile != 0 then .ok (.go (s.putRing x { x with stopping := true }) obs)
        else if s.isOwned (.scratch r.1 r.2) 64 true then s.waitOn 17
        else .ok (.go (s.endRing x true) obs)

/-- DIR of a ring record: 1 drain. -/
def State.ringDrain (s : State) (r : Nat × Nat) : Bool := (s.ringWord r 4).testBit 1

/-- Is slot n available to a group (R260)? -/
def State.slotReady (s : State) (r : Nat × Nat) (n : Nat) : Bool :=
  serialLt n (if s.ringDrain r then s.ringDone r + bitsAt (s.ringWord r 1) 48 7 else s.ringDone r)

/-- The address of slot n (R260). -/
def State.slotAddr (s : State) (r : Nat × Nat) (n : Nat) : DWord :=
  let w := s.ringWord r 1
  (s.ctxCore s.g.core s.g.asid).apscr + BitVec.ofNat 64 (bitsAt w 0 32 + n % bitsAt w 48 7 * (128 * bitsAt w 32 16))

/-- SL.TAKE (R260). -/
def execSlTake (f : VForm) (s : State) : Host.Outcome State Fault Refusal :=
  s.finish (.slTake f) do
    if !s.g.groupExec f.g then .ok (.go s)
    else
      let r ← s.scratchRec f 64 (s.s64 f.a)
      let n := s.n32 f.b
      if s.isOwned (.scratch r.1 r.2) 64 false then s.waitOn 17
      else if s.slotReady r n then
        let s1 := s.setS f.d.scalNum ⟨s.slotAddr r n, 0⟩
        .ok (.go (if s.ringDrain r then s1 else s1.acquireL1 s.cur .team))
      else if (s.ringAt r).isNone then .ok (.go (s.setS f.d.scalNum TVal.zero))
      else .ok (.wait s 11)

/-- SL.GIVE (R260). -/
def execSlGive (f : VForm) (s : State) : Host.Outcome State Fault Refusal :=
  s.finish (.slGive f) do
    if !s.g.groupExec f.g then .ok (.go s)
    else
      let r ← s.scratchRec f 64 (s.s64 f.a)
      let n := s.n32 f.b
      let given := s.ringGiven r
      if s.isOwned (.scratch r.1 r.2) 64 true then s.waitOn 17
      else if serialLt n given then .ok (.go s)
      else if n = given then
        let t := s.writeScratch r.1 (r.2 + 0x1C) 4 (n + 1) 0
        .ok (.go (match t.ringAt r with | some x => t.ringBegin x | none => t))
      else .ok (.wait s 11)

/-! ### Events of commands (R244, R256, R434) -/

/-- The commands of a queue changed where a condition holds. -/
def State.mapCopies (s : State) (p : CopyCmd → Bool) (f : CopyCmd → CopyCmd) : State :=
  { s with copies := s.copies.map fun c => if p c then f c else c }

/-- A ring's transfer marked as stopped with a number of steps left, or not. -/
def State.markRing (s : State) (r : Ring) (t : Option TrapInfo) (undone : Nat) : State :=
  s.putRing r { r with cmd := { r.cmd with stopped := t, undone := undone } }

/-- TC_ACCEPT: the engine has accepted the command that a group waits for (R244). -/
def execTcAccept (k : Nat) (s : State) : Host.Outcome State Fault Refusal :=
  let g := s.group k
  if g.waiting != .accept then .next s
  else
    let s1 := s.putGroup k { g with waiting := .no, stall := 0 }
    .next ((s1.mapCopies (fun c => c.grp == k) fun c => { c with accepted := true }).bump (ctrCopy g.core 0))

/-- The accepted commands of a core's engine that no earlier command of their group holds back. -/
def State.dueCopies (s : State) (core : Nat) : List CopyCmd :=
  s.copies.filter fun c => c.core == core && c.accepted && c.stopped.isNone
    && (s.copies.find? fun x => x.grp == c.grp) == some c

/-- Does the count of a command's bytes have to wait: its barrier's record lies in a granule that an older command owns or holds
(R234, R245)? -/
def State.countHeld (s : State) (c : CopyCmd) : Bool :=
  match c.bar with
  | some b => s.ownedBefore c.id (.scratch b.core b.byte) 32 true
  | none => false

/-- The next move of a command of the queue, which waits to be done for its barrier's record. -/
def State.copyMove (s : State) (c : CopyCmd) : TcMove :=
  match s.tcMove c c.id with
  | .done t => if s.countHeld c then .stop s (.wait true) 0 else .done t
  | m => m

/-- Does a move wait? -/
def TcMove.waits (m : TcMove) : Bool := match m with | .stop _ (.wait _) _ => true | _ => false

/-- The command that moves next with its move: the oldest that nothing makes wait (log entry 18). -/
def State.nextCopy (s : State) (core : Nat) : Option (CopyCmd × TcMove) :=
  ((s.dueCopies core).map fun c => (c, s.copyMove c)).find? fun p => !p.2.waits

/-- The commands of a core's engine that wait on owned lines, and are not counted yet (R243). -/
def State.copyWaits (s : State) (core : Nat) : List Nat :=
  if s.owned == [] then []
  else ((s.dueCopies core).filter fun c => !s.waited.contains (0, c.id) && match s.copyMove c with | .stop _ (.wait true) _ => true | _ => false).map
    fun c => c.id

/-- A command leaves the engine: what it owned is free and COPY falls. -/
def State.dropCopy (s : State) (c : CopyCmd) : State :=
  (State.lowerCopy { s.disown c.id with copies := s.copies.filter fun x => x.id != c.id } c.grp c.id).tryFree c.grp

/-- The bytes of a finished command counted onto its barrier (R252, R342); a command whose outcome is unknown counts nothing, as one that
is abandoned does (R256, log entry 111). -/
def State.countBytes (s : State) (c : CopyCmd) : State :=
  match if (s.group c.grp).copyLost.any fun x => x.1 == c.id then none else c.bar with
  | none => s
  | some b =>
    let e := engCopy c.core
    let s1 := s.advance e
    let s2 := s1.barApply b.core b.byte 0 c.lay.tileBytes (s1.tagOf e) none (s.group c.grp).index
    if b.wide then s2.putGroup c.grp { s2.group c.grp with cluBar := true } else s2

/-- Counters of a transfer that ends with some of its steps undone (R275). -/
def State.countMoved (s : State) (c : CopyCmd) (undone : Nat) : State :=
  let n := c.moved (c.steps.take (c.steps.length - undone))
  (s.bumpBy (ctrCopy c.core 1) n.1).bumpBy (ctrCopy c.core 2) n.2

/-- TC_COMPLETE: the next command of a core's engine makes its writes, counts its bytes onto its barrier and lowers COPY
(R252 to R254, R434); with data on peer pages its requests leave first, and the step after that finds them answered. -/
def execTcComplete (core : Nat) (s : State) : Host.Outcome State Fault Refusal :=
  match s.nextCopy core with
  | some (c, .done t) => .next (((t.countMoved c 0).countBytes c).dropCopy c)
  | some (c, .carry t k) => .next (t.mapCopies (fun y => y.id == c.id) fun y => { y with carry := k })
  | some (_, .stop _ (.model f) _) => .fault f
  | some (_, .stop _ _ _) => .next s
  | none => .next ((s.copyWaits core).foldl (fun t id => t.noteWait (core / 64) 0 id) s)

/-- Payload of an engine's fault record (R386): the group's pc stands for EPC. -/
def State.engineRecord (s : State) (c : CopyCmd) (t : TrapInfo) (replayed abandoned : Bool) : State :=
  let g := s.group c.grp
  s.emit (engCopy c.core) 0x0A (some c.asid) (faultPayload t.code.num 0 g.gField g.pc t.finfo false replayed abandoned)

/-- The issuing group of a stopped command is descheduled (R256). -/
def State.parkFor (s : State) (c : CopyCmd) (t : TrapInfo) : State :=
  (s.putGroup c.grp { s.group c.grp with parked := true }).engineRecord c t false false

/-- Does a ring's step in flight have to wait for its record, which lies in a granule that an older command owns or holds (R234, R245)? -/
def State.ringRecHeld (s : State) (r : Ring) : Bool := s.ownedBefore r.tile (.scratch r.rcore r.rbyte) 64 true

/-- Has a ring a tile in flight that it may move (R258)? -/
def State.ringReady (_ : State) (r : Ring) : Bool := r.cmd.stopped.isNone && r.tile != 0

/-- The next move of a ring's tile in flight. -/
def State.ringMove (s : State) (r : Ring) : Option (CopyCmd × TcMove) :=
  if !s.ringReady r then none
  else (s.ringCmd r).map fun c => (c, match s.tcMove c r.cmd.id with
    | .done t => if s.ringRecHeld r then .stop s (.wait true) 0 else .done t
    | m => m)

/-- A ring of a core by the number of its record: core · 2^19 + byte. -/
def State.ringNum (s : State) (core rec : Nat) : Option Ring :=
  s.rings.find? fun r => r.cmd.core == core && r.rcore * 2 ^ 19 + r.rbyte == rec

/-- A ring's tile has moved: DONE advances, and the ring ends after COUNT tiles, or when `tc.stop` has come (R258, R259). -/
def State.ringAdvance (s : State) (r : Ring) : State :=
  let s1 := (s.writeScratch r.rcore (r.rbyte + 0x18) 4 (r.next + 1) 0).disown r.tile
  let r' := { r with next := r.next + 1, tile := 0, cmd := { r.cmd with carry := Carry.none } }
  let s2 := s1.putRing r r'
  if r.stopping || r.count = r.next + 1 then s2.endRing r' r.stopping else s2.ringBegin r'

/-- RING_TILE: a ring fills or drains its next tile once its slot is available (R258); with data on peer pages its requests leave first,
and the step after that finds them answered. -/
def execRingTile (core rec : Nat) (s : State) : Host.Outcome State Fault Refusal :=
  match s.ringNum core rec with
  | none => .next s
  | some r => match s.ringMove r with
    | some (c, .done t) => .next ((t.countMoved c 0).ringAdvance r)
    | some (_, .carry t k) => .next (t.putRing r { r with cmd := { r.cmd with carry := k } })
    | some (_, .stop _ (.model f) _) => .fault f
    | some (c, .stop _ (.wait true) _) => .next (s.noteWait (core / 64) 0 c.id)
    | _ => .next s

/-- The ring of a core whose next tile faults, with the trap and the steps left. -/
def State.faultyRing (s : State) (core : Nat) : Option (Ring × State × TrapInfo × Nat) :=
  (s.rings.filter fun r => r.cmd.core == core).findSome? fun r => match s.ringMove r with
    | some (_, .stop t (.trap x) n) => some (r, t, x, n)
    | _ => none

/-- TC_REPLAYABLE_FAULT: the next command of a core's engine, or a ring's next tile, stops at a failing line; what it has
written stays, and its group is descheduled (R256). -/
def execTcReplayableFault (core : Nat) (s : State) : Host.Outcome State Fault Refusal :=
  match s.nextCopy core with
  | some (c, .stop t (.trap x) n) =>
    .next ((t.mapCopies (fun y => y.id == c.id) fun y => { y with stopped := some x, undone := n }).parkFor c x)
  | _ => match s.faultyRing core with
    | some (r, t, x, n) => .next ((t.markRing r (some x) n).parkFor r.cmd x)
    | none => .next s

/-- The bits beside the address of an entry that first touch writes at a level: a table, or a writable page of HBM on which every
atomic may act (log entry 83). -/
def firstTouchBits (level : Nat) : Nat := if level = 0 then 0x183 else 1

/-- A memory in which the walk of an address finds a page: entries that are missing on its way are filled from a free list of pages
(by page number), whose pages are zeroed; none when the list runs out (R206). -/
def fillWalk (va : DWord) : Nat → Nat → List Nat → Memory → Option (Memory × List Nat)
  | 0, _, _, _ => none
  | n + 1, table, pool, m =>
    let at_ := table + 8 * vaIndex va n
    let p : DWord := BitVec.ofNat 64 (m.read at_ 8)
    if p.getLsbD 0 then (if p.getLsbD 8 then some (m, pool) else fillWalk va n (nextTable p) pool m)
    else match pool with
      | [] => none
      | f :: rest =>
        let m1 := Memory.write (m.filter fun b => b.1 / 4096 != f) at_ 8 (4096 * f + firstTouchBits n)
        if n = 0 then some (m1, rest) else fillWalk va n (4096 * f) rest m1

/-- The control processor services a page fault of a context at an address as a first-touch handler would (R206); none when it cannot,
with the pool exhausted. -/
def State.firstTouch (s : State) (asid : BitVec 16) (va : DWord) : Option State :=
  (fillWalk va 5 (nextTable (s.ctx asid).root) (s.ctx asid).pool s.hbm).map fun r =>
    { s.putCtx asid { s.ctx asid with pool := r.2 } with hbm := r.1 }

/-- The state in which the control processor has repaired a fault of the tensor side (R256): a page that is not present. -/
def State.repair (s : State) (asid : BitVec 16) (t : TrapInfo) : Option State :=
  if t.code == .page && t.finfo.extractLsb' 8 4 == 0 then s.firstTouch asid t.faddr else none

/-- The group of a command is scheduled again, unless another command or collective of its stays stopped. -/
def State.unpark (s : State) (k : Nat) : State :=
  let more := (s.copies.any fun c => c.grp == k && c.stopped.isSome) || s.rings.any fun r => r.cmd.grp == k && r.cmd.stopped.isSome
  let mine := s.colls.any fun c => c.grp == k && c.team == (s.group k).team && c.stopped.isSome
  s.putGroup k { s.group k with parked := more || mine }

/-- The stopped commands of a core's engine with their traps. -/
def State.stoppedCopies (s : State) (core : Nat) : List (CopyCmd × TrapInfo) :=
  s.copies.filterMap fun c => if c.core == core then c.stopped.map fun t => (c, t) else none

/-- The stopped rings of a core's engine with their traps. -/
def State.stoppedRings (s : State) (core : Nat) : List (Ring × TrapInfo) :=
  s.rings.filterMap fun r => if r.cmd.core == core then r.cmd.stopped.map fun t => (r, t) else none

/-- A command owns its lines anew: lines of a page that has been mapped since its issue are among them (R234). -/
def State.reown (s : State) (c : CopyCmd) : State := { s with owned := (s.disown c.id).owned ++ s.ownedBy c }

/-- TC_REPLAY: the control processor has serviced a page fault and the command goes on (R256). -/
def execTcReplay (core : Nat) (s : State) : Host.Outcome State Fault Refusal :=
  match (s.stoppedCopies core).findSome? fun p => (s.repair p.1.asid p.2).map fun t => (p, t) with
  | some ((c, x), t) =>
    let t1 := (t.mapCopies (fun y => y.id == c.id) fun y => { y with stopped := none }).reown c
    .next (((t1.unpark c.grp).engineRecord c x true false).bump (ctrCopy core 3))
  | none => match (s.stoppedRings core).findSome? fun p => (s.repair p.1.cmd.asid p.2).map fun t => (p, t) with
    | some ((r, x), t) =>
      let t1 := t.markRing r none 0
      let t2 := match t1.ringCmd r with | some c => t1.reown c | none => t1
      .next (((t2.unpark r.cmd.grp).engineRecord r.cmd x true false).bump (ctrCopy core 3))
    | none => .next s

/-- The trap that an abandoned command leaves for its group, which is scheduled again (R256). -/
def State.leaveTrap (s : State) (k : Nat) (t : TrapInfo) : State :=
  s.putGroup k { s.group k with asyncTraps := (s.group k).asyncTraps ++ [t] }

/-- TC_ABANDON: a stopped command whose fault cannot be repaired is given up; COPY falls, nothing is counted, and its group traps
before its next instruction (R256). -/
def execTcAbandon (core : Nat) (s : State) : Host.Outcome State Fault Refusal :=
  match (s.stoppedCopies core).find? fun p => (s.repair p.1.asid p.2).isNone with
  | some (c, x) =>
    let s1 := (((s.leaveTrap c.grp x).engineRecord c x false true).countMoved c c.undone).bump (ctrCopy core 4)
    .next ((s1.dropCopy c).unpark c.grp)
  | none => match (s.stoppedRings core).find? fun p => (s.repair p.1.cmd.asid p.2).isNone with
    | some (r, x) =>
      let s1 := (((s.leaveTrap r.cmd.grp x).engineRecord r.cmd x false true).countMoved ((s.ringCmd r).getD r.cmd) r.cmd.undone).bump (ctrCopy core 4)
      .next ((s1.endRing r r.stopping).unpark r.cmd.grp)
    | none => .next s

end Sys2Proof.Machine
end

