-- ==== Sys2Proof/Machine/Matrix.lean ====
section
/-! DEFINITION. The matrix engines: reservation, operands, summation, the residue path, and the events of their queues
(chapter 12, R276 to R297 and R435). -/

namespace Sys2Proof.Machine

/-- Counters of a pair (R297): operations retired by kind (mma, ld, st, zero), MAC performed, engine cycles, acquisitions
taken and refused, watchdog trips. -/
def ctrMx (pair k : Nat) : Nat := 0x206_0000 + pair * 16 + k

/-! ### The engine of a pair (R276 to R278) -/

/-- Accumulator words and tails of a pair zeroed (R278, R294). -/
def State.zeroAccum (s : State) (p : Nat) : State := { s with accum := s.accum.filter fun x => x.1 / 131072 != p }

/-- Is the issuing team's matrix work refused (R276, R295)? -/
def State.mxOwner (s : State) (lanes : Lanes) : Except Stop Unit :=
  if s.t.mxLost then .error (trapGen .matrixLost 0 lanes)
  else require (s.t.pair && s.t.mxHolds) (trapGen .matrixOwner 0 lanes)

/-- The reservation of a pair by a team ends (R278, R288). -/
def State.mxRelease (s : State) (p tk : Nat) : State :=
  if (s.mxPair p).holder == some tk then
    (s.putMx p { s.mxPair p with holder := none }).putTeam tk { s.team tk with mxHolds := false }
  else s

/-- A reservation taken (R278, R287): the accumulators are zeroed, LOST and the sticky bits cleared. -/
def State.mxTake (s : State) (p tk : Nat) : State :=
  ((((s.putMx p { s.mxPair p with holder := some tk, nv := false, ovf := false }).putTeam tk
    { s.team tk with mxHolds := true, mxLost := false }).zeroAccum p)).bump (ctrMx p 6)

/-- MX.ACQ (R287). -/
def execMxAcq (f : VForm) (s : State) : Host.Outcome State Fault Refusal :=
  let e := s.g.execLanes f.g
  s.finish (.mxAcq f) do
    if !s.g.groupExec f.g then .ok (.go s)
    else
      require (s.t.pair && s.g.core == s.t.core) (trapGen .matrixOwner 0 e)
      let m := s.mxPair s.pairNo
      let wr (st : State) (b : Bool) : State := st.setG (st.g.setPred f.d.predNum e (if b then allLanes else 0))
      if m.reset then .ok (.go (wr (s.bump (ctrMx s.pairNo 7)) false))
      else match m.holder with
        | none => .ok (.go (wr (s.mxTake s.pairNo s.g.team) true))
        | some tk => if tk = s.g.team then .ok (.go (wr s true)) else .ok (.go (wr (s.bump (ctrMx s.pairNo 7)) false))

/-- MX.REL (R288). -/
def execMxRel (f : VForm) (s : State) : Host.Outcome State Fault Refusal :=
  let m := s.mxPair s.pairNo
  s.finish (.mxRel f)
    (if !s.g.groupExec f.g || m.holder != some s.g.team then .ok (.go s)
     else if m.ops != [] then .ok (.wait s 13)
     else .ok (.go (s.mxRelease s.pairNo s.g.team)))

/-- The word of `mx.q` (R293). -/
def State.mxWord (s : State) : DWord :=
  let m := s.mxPair s.pairNo
  let same : Bool := match m.holder with | some tk => (s.team tk).asid == s.g.asid | none => false
  let holder := s.team (m.holder.getD 0)
  let spare := s.spares.contains (2 * s.pairNo) || s.spares.contains (2 * s.pairNo + 1)
  BitVec.ofNat 64
    (bitNat (m.holder == some s.g.team) + 2 * bitNat m.holder.isSome + 4 * bitNat m.reset + 8 * bitNat s.t.mxLost
      + 16 * bitNat m.nv + 32 * bitNat m.ovf + 64 * bitNat spare
      + 2 ^ 8 * (m.ops.filter fun o => !o.begun).length + 2 ^ 11 * bitNat (m.ops.any fun o => o.begun)
      + 2 ^ 16 * (if m.holder.isNone then 0 else if same then holder.asid.toNat else 0xFFFF)
      + 2 ^ 32 * (if same then holder.lin % 2 ^ 32 else 0))

/-- MX.Q (R293). -/
def execMxQ (f : VForm) (s : State) : Host.Outcome State Fault Refusal :=
  s.finish (.mxQ f) (.ok (.go (if s.g.groupExec f.g then s.setS f.d.scalNum ⟨s.mxWord, 0⟩ else s)))

/-! ### Operands (R279, R280, R290) -/

/-- Kmax of an encoding (R279). -/
def Canon.kmax : Canon → Nat
  | .cx => 64 | .c32 => 16 | .c64 => 4 | _ => 128

/-- Does a control word obey R282? -/
def mmaOk (ctl : DWord) : Bool :=
  let c := mmaCanon ctl
  ctl.extractLsb' 0 2 == ctl.extractLsb' 2 2 && (c == .rns || ctl.extractLsb' 4 2 == 0) && !ctl.getLsbD 7
    && 1 ≤ mmaK ctl && mmaK ctl ≤ c.kmax && (c != .c64 || mmaTile ctl < 4) && ctl.toNat < 2 ^ 19

/-- Words of a container. -/
def contWords (c : Canon) : Nat := if c == .c64 then 2 else 1

/-- Granules of a row of a half of A (R279). -/
def aGranules (c : Canon) : Nat := pow2Up ((c.kmax * 4 * contWords c + 127) / 128)

/-- Offset of byte j of row r in a tile whose rows fill G granules (R250). -/
def placeIn (G r j : Nat) : Nat := r * (128 * G) + 128 * ((j / 128) ^^^ (r % min 8 G)) + j % 128

/-- Granules of a row of a tile image (R290). -/
def imgGranules (f64 : Bool) : Nat := if f64 then 8 else 4
/-- Bytes of a half of a tile image. -/
def imgHalf (f64 : Bool) : Nat := 64 * 128 * imgGranules f64

/-- The region of `n` bytes in the leader's half at a window address, and the same one in the follower's (R279, R290): its
byte in both scratchpads. An address outside the window, a non-canonical one among them, is PROTECT (R297). -/
def State.pairRegion (s : State) (f : VForm) (n : Nat) (ea : DWord) : Except Stop Nat :=
  if ea.toNat % 128 != 0 then .error (s.recStop f .align (s.winOf ea) 0xD 7 ea)
  else if !canonical ea then .error (s.recStop f .protect 0 6 7 ea)
  else match steer (s.ctxCore s.g.core s.g.asid) ea with
    | (.scratch, o) => if o + n ≤ s.t.scratch then .ok (s.t.base + o) else .error (s.recStop f .protect 1 6 7 ea)
    | _ => .error (s.recStop f .protect (s.winOf ea) 6 7 ea)

/-- A scratchpad region of 512 bytes with scales (R292), granule by granule: core and byte. It may run from the leader's half of an
allocation into the follower's. -/
def State.scaleRegion (s : State) (f : VForm) (ea : DWord) : Except Stop (List (Nat × Nat)) :=
  if ea.toNat % 128 != 0 then .error (s.recStop f .align (s.winOf ea) 0xD 7 ea)
  else if !canonical ea then .error (s.recStop f .protect 0 6 7 ea)
  else (List.range 4).mapM fun k =>
    match s.tileAt f (ea + BitVec.ofNat 64 (128 * k)) 128 with
    | .ok r => .ok r
    | .error _ => .error (s.recStop f .protect (s.winOf ea) 6 7 ea)

/-- The group q of the issuing team, if it exists and has not ended. -/
def State.holderOf (s : State) (q : Nat) : Option (Nat × Group) :=
  (s.teamGroups s.g.team).find? fun p => p.2.index == q && !p.2.ended

/-- Quarter q of B resolved at issue (R280): OPERAND with the quarter's number when its holder's view is too small. -/
def State.quarter (s : State) (n rows : Nat) (lanes : Lanes) (q : Nat) : Except Stop (Option Quarter) :=
  match s.holderOf q with
  | none => .ok none
  | some (k, h) =>
    if n < h.tCount && rows ≤ h.tRows then .ok (some ⟨k, h.tBase + 128 * h.tRows * n, h.viewA⟩)
    else .error (trapGen .operand (BitVec.ofNat 8 q) lanes)

/-! ### Queueing (R277, R289 to R292) -/

/-- Operations of a pair that have not begun. -/
def MxPair.queued (m : MxPair) : Nat := (m.ops.filter fun o => !o.begun).length

/-- An operation queued with MTX raised and its lines owned (R234, R277, R289). -/
def State.mxSend (s : State) (o : MxOp) (own : List Owned) (obs : Obs) : Body :=
  let p := s.pairNo
  if Config.matrixQueue ≤ (s.mxPair p).queued then .ok (.wait s 13)
  else if s.g.counterFull [.mtx] then .ok (.wait s 15)
  else
    let s1 := s.putMx p { s.mxPair p with ops := (s.mxPair p).ops ++ [o] }
    let s2 := { s1 with cmdCtr := o.id, owned := s1.owned ++ own }
    .ok (.go (s2.setG { s2.g with inflight := s2.g.inflight.raise [.mtx] }) obs)

/-- An operation of the issuing group with nothing resolved. -/
def State.mxBlank (s : State) (w : MxWork) (tile : Nat) : MxOp :=
  { id := s.cmdCtr + 1, grp := s.cur, team := s.g.team, asid := s.g.asid, core := s.t.core, work := w, tile := tile, byte := 0
    va := 0, quarters := [], rowScale := [], colScale := [], bar := none, begun := false, data := [] }

/-- Both halves of a region of an operation, held as a source or owned. -/
def ownHalves (o : MxOp) (n : Nat) (src : Bool) : List Owned :=
  [⟨o.id, src, some o.core, o.byte, o.byte + n⟩, ⟨o.id, src, some (o.core + 1), o.byte, o.byte + n⟩]

/-- MX.MMA (R289). -/
def execMxMma (f : VForm) (s : State) : Host.Outcome State Fault Refusal :=
  let e := s.g.execLanes f.g
  s.finish (.mxMma f) do
    if !s.g.groupExec f.g then .ok (.go s)
    else
      s.mxOwner e
      let ctl := s.s64 f.c
      require (mmaOk ctl) (trapGen .reserved 0 e)
      let c := mmaCanon ctl
      let ea := s.s64 f.a
      let byte ← s.pairRegion f (64 * 128 * aGranules c) ea
      let qs ← (List.range 4).mapM fun q => s.quarter f.b.specialNum (rowsNeeded c (mmaK ctl)) e q
      let o := { s.mxBlank (.mma ctl) (mmaTile ctl) with byte := byte, va := ea, quarters := qs }
      s.mxSend o (ownHalves o (64 * 128 * aGranules c) true) { addrs := [(none, ea.toNat)] }

/-- MX.LD (R291). -/
def execMxLd (f : VForm) (s : State) : Host.Outcome State Fault Refusal :=
  let e := s.g.execLanes f.g
  s.finish (.mxLd f) do
    if !s.g.groupExec f.g then .ok (.go s)
    else
      s.mxOwner e
      let b := s.s64 f.b
      require (b.toNat < 2) (trapGen .reserved 0 e)
      let f64 := b == 1
      let n := f.d.specialNum
      require (!f64 || n < 4) (trapGen .operand 0 e)
      let ea := s.s64 f.a
      let byte ← s.pairRegion f (imgHalf f64) ea
      let o := { s.mxBlank (.load f64) n with byte := byte, va := ea }
      s.mxSend o (ownHalves o (imgHalf f64) true) { addrs := [(none, ea.toNat)] }

/-- MX.ZERO (R291). -/
def execMxZero (f : VForm) (s : State) : Host.Outcome State Fault Refusal :=
  s.finish (.mxZero f) do
    if !s.g.groupExec f.g then .ok (.go s)
    else
      s.mxOwner (s.g.execLanes f.g)
      s.mxSend (s.mxBlank .zero f.d.specialNum) [] {}

/-- Scales held until they are read. -/
def ownScale (o : MxOp) (r : List (Nat × Nat)) : List Owned := r.map fun p => ⟨o.id, true, some p.1, p.2, p.2 + 128⟩

/-- MX.ST (R292): with its barrier count it defers pre-emption as a non-idempotent instruction does. -/
def execMxSt (f : VForm) (s : State) : Host.Outcome State Fault Refusal :=
  let e := s.g.execLanes f.g
  s.finish (.mxSt f) do
    if !s.g.groupExec f.g then .ok (.go s)
    else
      s.mxOwner e
      let n := f.c.scalNum
      let w := s.g.sval n
      let f64 := w.getLsbD 0
      require (w.toNat < 32 && !(f64 && w.getLsbD 3)) (trapGen .reserved 0 e)
      require (!f64 || f.b.specialNum < 4) (trapGen .operand 0 e)
      let ea := s.s64 f.a
      let byte ← s.pairRegion f (imgHalf f64) ea
      let rs ← (if w.getLsbD 1 then s.scaleRegion f (s.g.sval (n + 1)) else .ok [] : Except Stop (List (Nat × Nat)))
      let cs ← (if w.getLsbD 2 then s.scaleRegion f (s.g.sval (n + 2)) else .ok [] : Except Stop (List (Nat × Nat)))
      let v := s.g.sval (n + 3)
      let bar ← (if w.getLsbD 4 then match s.barOperand f v with
          | .error _ => .error (s.recStop f .protect (s.winOf v) 6 5 v)
          | .ok r => .ok (some ⟨r.1, r.2, (s.readBar r.1 r.2).scope⟩)
        else .ok none : Except Stop (Option BarRef))
      require (!s.clobbers (.scratch s.t.core byte) (imgHalf f64) && !s.clobbers (.scratch (s.t.core + 1) byte) (imgHalf f64))
        (.trap .barrierClobber ea (.generic 0) e)
      let o := { s.mxBlank (.store f64 (w.getLsbD 1) (w.getLsbD 2) (w.getLsbD 3)) f.b.specialNum with
        byte := byte, va := ea, rowScale := rs, colScale := cs, bar := bar }
      let shown := (if w.getLsbD 1 then [n + 1] else []) ++ (if w.getLsbD 2 then [n + 2] else []) ++ if w.getLsbD 4 then [n + 3] else []
      match s.mxSend o (ownHalves o (imgHalf f64) false ++ ownScale o rs ++ ownScale o cs) (scalarObs s (f.a.scalNum :: shown)) with
      | .ok (.go t ob) => .ok (.go (if bar.isSome then t.setG { t.g with deferred := true } else t) ob)
      | r => r

/-! ### Accumulator tiles (R281) -/

/-- Key of an accumulator word by its pair byte. -/
def accWordKey (pair byte : Nat) : Nat := pair * 131072 + byte / 4

/-- Pair byte of element (y, j) of tile n (R281). -/
def accByte (f64 : Bool) (n y j : Nat) : Nat :=
  if f64 then 65536 * (2 * n + j / 64) + 512 * y + 8 * (j % 64) else 65536 * n + 512 * y + 4 * j

/-- An accumulator element with its tail. -/
def State.accElem (s : State) (pair : Nat) (f64 : Bool) (n y j : Nat) : TVal :=
  let k := accWordKey pair (accByte f64 n y j)
  let lo := Store.get TWord.zero s.accum k
  if f64 then ⟨(Store.get TWord.zero s.accum (k + 1)).val ++ lo.val, lo.tail⟩ else ⟨lo.val.setWidth 64, lo.tail⟩

/-- An accumulator word written. -/
def State.setAcc (s : State) (key : Nat) (w : TWord) : State := { s with accum := Store.set TWord.zero s.accum key w }

/-- An accumulator element written; the high word of an f64 element has tail zero. -/
def State.setAccElem (s : State) (pair : Nat) (f64 : Bool) (n y j : Nat) (v : TVal) : State :=
  let k := accWordKey pair (accByte f64 n y j)
  let s1 := s.setAcc k ⟨v.val.setWidth 32, v.tail⟩
  if f64 then s1.setAcc (k + 1) ⟨v.val.extractLsb' 32 32, 0⟩ else s1

/-! ### The float summation (R283) -/

/-- The float type of an accumulator. -/
def accTy (f64 : Bool) : Ty := if f64 then .f64 else .f32

/-- A running sum of R283 with the sticky status it has raised. -/
structure MxAcc where
  v    : DWord
  tail : Tail
  nv   : Bool
  ovf  : Bool
deriving DecidableEq, Repr

/-- Y of a word of a float type. -/
def yOf (t : Ty) (v : DWord) (tail : Tail) : FVal := tailedVal t (readFloat t v) tail

/-- A product of two elements: NaN for a NaN factor and for 0·∞. -/
def prodVal (a b : FVal) : FVal :=
  match a, b with
  | .nan _, _ | _, .nan _ => .nan false
  | .inf n, y => if y.isZero then .nan false else .inf (n != y.neg)
  | x, .inf n => if x.isZero then .nan false else .inf (n != x.neg)
  | .num x, .num y => .num (mulNum x y)

/-- Blocks and window of an encoding: KB, W (R283). -/
def Canon.window : Canon → Nat × Int
  | .cx => (16, 40) | .c64 => (4, 110) | _ => (8, 52)

/-- The numbers among terms. -/
def numsOf (terms : List FVal) : List FNum := terms.filterMap fun t => match t with | .num x => some x | _ => none

/-- The sum of a block's numbers in the window that ends at 2^bottom: the exact sum of the truncated terms and whether
anything was discarded. -/
def windowSum (bottom : Int) (xs : List FNum) : Int × Bool :=
  xs.foldl (fun a x => let r := x.at bottom
    (a.1 + (if x.neg then -(r.1 : Int) else r.1), a.2 || r.2)) (0, false)

/-- The formed value of a sum with its sticky bit, and whether it is the overflow pattern. -/
def formSum (t : Ty) (x : FNum) (sticky nv ovf : Bool) : MxAcc :=
  let r := formNum t x
  let tail := if sticky then r.2.1 ||| 1 else r.2.1
  ⟨r.1, tail, nv, ovf || (tail == 7 && r.1 == maxBits t x.neg)⟩

/-- One block of R283: the terms include the accumulator; `sticky` gathers the sticky bits read for it. -/
def mxBlock (t : Ty) (w : Int) (a : MxAcc) (terms : List FVal) (sticky : Bool) : MxAcc :=
  let infs := terms.filterMap fun x => match x with | .inf n => some n | _ => none
  if terms.any FVal.isNan || (infs.contains true && infs.contains false) then ⟨nanBits t, 0, true, a.ovf⟩
  else match infs with
    | n :: _ => ⟨infBits t n, 0, a.nv, a.ovf⟩
    | [] =>
      let xs := numsOf terms
      let nz := xs.filter fun x => !x.isZero
      match nz.map FNum.log with
      | [] => formSum t ⟨xs.all fun x => x.neg, 0, 0, false⟩ sticky a.nv a.ovf
      | l :: ls =>
        let bottom := ls.foldl max l + 2 - w
        let r := windowSum bottom nz
        let z : FNum := if r.1 = 0 then ⟨xs.all fun x => x.isZero && x.neg, 0, 0, false⟩ else ⟨r.1 < 0, r.1.natAbs, bottom, false⟩
        formSum t z (sticky || r.2) a.nv a.ovf

/-- An element of A or B: its exact value and its sticky bit. -/
abbrev MxElem := FVal × Bool

/-- The blocks of R283 in order of increasing k. -/
def mxBlocks (t : Ty) (kb : Nat) (w : Int) (as bs : List MxElem) : Nat → MxAcc → MxAcc
  | 0, a => a
  | n + 1, a =>
    let xs := as.take kb
    let ys := bs.take kb
    let terms := yOf t a.v a.tail :: List.zipWith (fun x y => prodVal x.1 y.1) xs ys
    let sticky := a.tail.getLsbD 0 || xs.any (fun x => x.2) || ys.any (fun y => y.2)
    mxBlocks t kb w (as.drop kb) (bs.drop kb) n (mxBlock t w a terms sticky)

/-- One output element of R283 from its row of A, its column of B and the incoming accumulator (+0 without ACC). -/
def mxDot (c : Canon) (as bs : List MxElem) (acc : TVal) : MxAcc :=
  let kb := c.window.1
  let t := accTy (c == .c64)
  mxBlocks t kb c.window.2 as bs ((as.length + kb - 1) / kb) ⟨acc.val, acc.tail, false, false⟩

/-! ### The residue path (R285) -/

/-- Residues of a container, each reduced modulo its channel. -/
def rnsResidues (v : DWord) : Nat × Nat × Nat := ((rnsParts v).1 % 255, (rnsParts v).2.1 % 256, (rnsParts v).2.2 % 257)

/-- Does an element lie in its declared range (R285)? -/
def rnsInRange (signed : Bool) (v : DWord) : Bool :=
  let x := rnsDecode v
  rnsValid v && (if signed then -128 ≤ x && x ≤ 127 else 0 ≤ x && x ≤ 255)

/-- The number of R285 for a row of A and a column of B. -/
def rnsDot (as bs : List DWord) : Int :=
  let ps := List.zipWith (fun a b => (rnsResidues a, rnsResidues b)) as bs
  let r := ps.foldl (fun acc p => ((acc.1 + p.1.1 * p.2.1) % 255, (acc.2.1 + p.1.2.1 * p.2.2.1) % 256,
    (acc.2.2 + p.1.2.2 * p.2.2.2) % 257)) (0, 0, 0)
  rnsDecode (rnsPack r.1 r.2.1 r.2.2)

/-- One output element of R285. -/
def rnsOut (asgn bsgn acc : Bool) (as bs : List DWord) (old : TVal) : TVal :=
  let y := rnsDot as bs
  let z := (old.val.setWidth 32).toInt + y
  let bad := as.any (fun a => !rnsInRange asgn a) || bs.any (fun b => !rnsInRange bsgn b)
  let s := bad || (acc && (old.tail.getLsbD 0 || z < -2147483648 || 2147483647 < z))
  ⟨(BitVec.ofInt 32 (if acc then z else y)).setWidth 64, if s then 1 else 0⟩

/-! ### Reading operands (R289) -/

/-- The words of row i of A that hold its first k elements, from both halves. -/
def State.aRow (s : State) (o : MxOp) (c : Canon) (k i : Nat) : List TWord :=
  (List.range (k * contWords c)).map fun j =>
    s.sword (o.core + i / 64) (o.byte + placeIn (aGranules c) (i % 64) (4 * j))

/-- The words of a quarter: its rows of 32 containers; zero without a holder. -/
def State.quarterWords (s : State) (rows : Nat) (q : Option Quarter) : List TWord :=
  (List.range (rows * 32)).map fun j => match q with
    | some q => s.rsWord (s.quarterGroup q) (q.byte + 4 * j)
    | none => TWord.zero

/-- The words of an image's row (R290), rows 64 to 127 in the follower's scratchpad. -/
def State.imageRow (s : State) (o : MxOp) (f64 : Bool) (r : Nat) : List TWord :=
  (List.range (if f64 then 256 else 128)).map fun j =>
    s.sword (o.core + r / 64) (o.byte + placeIn (imgGranules f64) (r % 64) (4 * j))

/-- The words of a scale vector. -/
def State.scaleWords (s : State) (r : List (Nat × Nat)) : List TWord :=
  r.flatMap fun p => (List.range 32).map fun j => s.sword p.1 (p.2 + 4 * j)

/-- What an operation reads when it begins. -/
def State.mxRead (s : State) (o : MxOp) : List (List TWord) :=
  match o.work with
  | .mma ctl =>
    let c := mmaCanon ctl
    (List.range 128).map (s.aRow o c (mmaK ctl)) ++ o.quarters.map (s.quarterWords (rowsNeeded c (mmaK ctl)))
  | .load f64 => (List.range 128).map (s.imageRow o f64)
  | .store _ _ _ _ => [s.scaleWords o.rowScale, s.scaleWords o.colScale]
  | .zero => []

/-- A container in words j (and j + 1) of a list. -/
def contAt (c : Canon) (ws : List TWord) (j : Nat) : TVal :=
  let lo := ws.getD j TWord.zero
  if c == .c64 then ⟨(ws.getD (j + 1) TWord.zero).val ++ lo.val, lo.tail⟩ else ⟨lo.val.setWidth 64, lo.tail⟩

/-- The containers of row i of A in the data of an operation. -/
def MxOp.aElems (o : MxOp) (c : Canon) (k i : Nat) : List TVal :=
  (List.range k).map fun x => contAt c (o.data.getD i []) (x * contWords c)

/-- The containers of column j of B in the data of an operation (R280). -/
def MxOp.bElems (o : MxOp) (c : Canon) (k j : Nat) : List TVal :=
  let ws := o.data.getD (128 + j / 32) []
  let col := j % 32
  (List.range k).map fun x => contAt c ws (if c == .c64 then 32 * (2 * x + col / 16) + 2 * (col % 16) else 32 * x + col)

/-- The exact value and sticky bit of a float container (R283). -/
def Canon.elem (c : Canon) (v : TVal) : MxElem := (gridTail c.grid (c.decode v.val.toNat) v.tail, v.tail.getLsbD 0)

/-- Sticky status raised in a pair's engine. -/
def State.mxFlags (s : State) (p : Nat) (nv ovf : Bool) : State :=
  let m := s.mxPair p
  s.putMx p { m with nv := m.nv || nv, ovf := m.ovf || ovf }

/-- Output (i, j) of an `mx.mma` written. -/
def State.mmaOut (s : State) (p : Nat) (o : MxOp) (ctl : DWord) (i j : Nat) : State :=
  let c := mmaCanon ctl
  let k := mmaK ctl
  let f64 := c == .c64
  let old := s.accElem p f64 o.tile i j
  if c == .rns then
    s.setAccElem p false o.tile i j
      (rnsOut (ctl.getLsbD 4) (ctl.getLsbD 5) (mmaAcc ctl) ((o.aElems c k i).map fun v => v.val) ((o.bElems c k j).map fun v => v.val) old)
  else
    let r := mxDot c ((o.aElems c k i).map c.elem) ((o.bElems c k j).map c.elem) (if mmaAcc ctl then old else TVal.zero)
    (s.setAccElem p f64 o.tile i j ⟨r.v, r.tail⟩).mxFlags p r.nv r.ovf

/-! ### Writing a tile image (R292) -/

/-- The scaled value of an element of `mx.st`: its bits, tail, and the status it raises: OF when the formation gives the overflow
pattern, ±Max with tail 0b111 (R136, R293). -/
def scaledElem (t : Ty) (outf : Bool) (w : TVal) (scales : List TVal) : MxAcc :=
  let x := if outf then intVal (w.val.setWidth 32).toInt else yOf t w.val w.tail
  let st := (!outf && w.tail.getLsbD 0) || scales.any fun v => v.tail.getLsbD 0
  let y := scales.foldl (fun a v => prodVal a (yOf .f32 v.val v.tail)) x
  match y with
  | .nan _ => ⟨nanBits t, 0, true, false⟩
  | .inf n => ⟨infBits t n, if st then 1 else 0, false, false⟩
  | .num z =>
    let r := formNum t z
    ⟨r.1, if st then r.2.1 ||| 1 else r.2.1, false, r.2.1 == 7 && r.1 == maxBits t z.neg⟩

/-- The words of element (y, j) of an image with the status they raise. -/
def State.imageElem (s : State) (p : Nat) (o : MxOp) (f64 rs cs outf : Bool) (y j : Nat) : List TWord × Bool × Bool :=
  let k := accWordKey p (accByte f64 o.tile y j)
  let raw := (List.range (if f64 then 2 else 1)).map fun d => Store.get TWord.zero s.accum (k + d)
  if !rs && !cs && !outf then (raw, false, false)
  else
    let sc (i n : Nat) : TVal := contAt .c32 (o.data.getD i []) n
    let r := scaledElem (accTy f64) outf (s.accElem p f64 o.tile y j) ((if rs then [sc 0 y] else []) ++ if cs then [sc 1 j] else [])
    (⟨r.v.setWidth 32, r.tail⟩ :: (if f64 then [⟨r.v.extractLsb' 32 32, 0⟩] else []), r.nv, r.ovf)

/-- An image word written where its granule holds no armed record; else the window address of the first byte that overlaps one (R265). -/
def State.putImage (s : State) (o : MxOp) (f64 : Bool) (y word : Nat) (w : TWord) : State × Option DWord :=
  let core := o.core + y / 64
  let off := placeIn (imgGranules f64) (y % 64) (4 * word)
  match (List.range 128).find? fun k => s.clobbers (.scratch core (o.byte + off / 128 * 128 + k)) 1 with
  | some k => (s, some (o.va + BitVec.ofNat 64 (off / 128 * 128 + k + if y < 64 then 0 else 0x80000)))
  | none => (s.setSword core (o.byte + off) w, none)

/-- Image words written from a word on, up to an armed record. -/
def State.putImages (s : State) (o : MxOp) (f64 : Bool) (y word : Nat) : List TWord → State × Option DWord
  | [] => (s, none)
  | w :: ws => match s.putImage o f64 y word w with
    | (t, none) => State.putImages t o f64 y (word + 1) ws
    | r => r

/-- The image written, up to a granule that an armed record keeps from being written: its failing byte (R265, R292). -/
def State.writeImage (s : State) (p : Nat) (o : MxOp) (f64 rs cs outf : Bool) : State × Option DWord :=
  (grid 128 128).foldl (fun a yj =>
    if a.2.isSome then a
    else
      let e := a.1.imageElem p o f64 rs cs outf yj.1 yj.2
      (a.1.mxFlags p e.2.1 e.2.2).putImages o f64 yj.1 ((if f64 then 2 else 1) * yj.2) e.1) (s, none)

/-! ### Events of the queue (R277, R289, R294) -/

/-- Bytes of a half of the region an operation reads or writes in scratchpad. -/
def MxOp.halfBytes (o : MxOp) : Nat :=
  match o.work with
  | .mma ctl => 64 * 128 * aGranules (mmaCanon ctl)
  | .load f64 | .store f64 _ _ _ => imgHalf f64
  | .zero => 0

/-- Does an operation have to wait for lines of its region that older commands own (R234)? -/
def State.mxHeld (s : State) (o : MxOp) (write : Bool) : Bool :=
  o.halfBytes != 0 && (s.ownedBefore o.id (.scratch o.core o.byte) o.halfBytes write
    || s.ownedBefore o.id (.scratch (o.core + 1) o.byte) o.halfBytes write)

/-- Does a store have to wait for scales that older commands own (R234, R292)? -/
def State.scalesHeld (s : State) (o : MxOp) : Bool :=
  (o.rowScale ++ o.colScale).any fun p => s.ownedBefore o.id (.scratch p.1 p.2) 128 false

/-- Does the count of an image's bytes have to wait for a granule that an older command owns or holds (R234, R245)? -/
def State.mxBarHeld (s : State) (o : MxOp) : Bool :=
  match o.bar with
  | some b => s.ownedBefore o.id (.scratch b.core b.byte) 32 true
  | none => false

/-- MX_OP_BEGIN: the next queued operation of a pair reads its operands, which frees what it held as sources (R277, R289);
one operation may still be writing. -/
def execMxOpBegin (pair : Nat) (s : State) : Host.Outcome State Fault Refusal :=
  let m := s.mxPair pair
  match m.ops.find? fun o => !o.begun with
  | none => .next s
  | some o =>
    let isStore : Bool := match o.work with | .store _ _ _ _ => true | _ => false
    if m.reset || 1 < (m.ops.filter fun x => x.begun).length || s.quarterWaits pair o then .next s
    else if (!isStore && s.mxHeld o false) || s.scalesHeld o then .next (s.noteWait (pair / 32) 0 o.id)
    else
      let o' := { o with begun := true, data := s.mxRead o }
      let s1 := s.putMx pair { m with ops := m.ops.map fun x => if x.id == o.id then o' else x }
      let s2 := { s1 with owned := s1.owned.filter fun w => !(w.cmd == o.id && w.src) }
      .next ((o.quarters.filterMap fun q => q.map fun x => x.grp).foldl (fun st k => st.tryFree k) s2)

/-- The MTX count of an operation falls. -/
def State.mxLower (s : State) (o : MxOp) : State :=
  let g := s.group o.grp
  (s.putGroup o.grp { g with
    inflight := g.inflight.lower [.mtx] }).tryFree o.grp

/-- Engine cycles of an operation (R289, R291, R292). -/
def MxOp.cycles (o : MxOp) : Nat :=
  match o.work with
  | .mma _ => 64 | .load f64 | .store f64 _ _ _ => if f64 then 128 else 64 | .zero => 16

/-- Number of an operation's kind in the pair's counters. -/
def MxOp.kind (o : MxOp) : Nat := match o.work with | .mma _ => 0 | .load _ => 1 | .store _ _ _ _ => 2 | .zero => 3

/-- OP of an operation. -/
def MxOp.op (o : MxOp) : Nat := match o.work with | .mma _ => 0xC2 | .load _ => 0xC3 | .store _ _ _ _ => 0xC4 | .zero => 0xC5

/-- MAC of an operation. -/
def MxOp.macs (o : MxOp) : Nat := match o.work with | .mma ctl => 128 * 128 * mmaK ctl | _ => 0

/-- The result of an operation written: the state, and the byte that an armed record kept from being written. -/
def State.mxWrite (s : State) (p : Nat) (o : MxOp) : State × Option DWord :=
  match o.work with
  | .mma ctl => ((grid 128 128).foldl (fun st ij => st.mmaOut p o ctl ij.1 ij.2) s, none)
  | .load f64 =>
    ((grid 128 (if f64 then 256 else 128)).foldl (fun st yw =>
      let b := if f64 then accByte true o.tile yw.1 (yw.2 / 2) + 4 * (yw.2 % 2) else accByte false o.tile yw.1 yw.2
      st.setAcc (accWordKey p b) ((o.data.getD yw.1 []).getD yw.2 TWord.zero)) s, none)
  | .store f64 rs cs outf => s.writeImage p o f64 rs cs outf
  | .zero => ((grid 128 128).foldl (fun st yj => st.setAcc (accWordKey p (accByte false o.tile yj.1 yj.2)) TWord.zero) s, none)

/-- The image's bytes counted onto the operation's barrier (R292, R342). -/
def State.mxCount (s : State) (p : Nat) (o : MxOp) : State :=
  match o.bar with
  | none => s
  | some b =>
    let e := engMatrix p
    let s1 := s.advance e
    s1.barApply b.core b.byte 0 (2 * o.halfBytes) (s1.tagOf e) none (s.group o.grp).index

/-- An `mx.st` whose image met an armed record ends as an irreparable fault of its group (R265, R292). -/
def State.mxClobber (s : State) (o : MxOp) (faddr : DWord) : State :=
  s.leaveTrap o.grp { code := .barrierClobber, faddr := faddr, finfo := genericFinfo 0 0xC4 0 0, mask := 0, async := true, ilen := false }

/-- MX_OP_RETIRE: the oldest operation that has begun writes its result, counts its bytes and lowers MTX (R277, R289, R292). -/
def execMxOpRetire (pair : Nat) (s : State) : Host.Outcome State Fault Refusal :=
  match (s.mxPair pair).ops with
  | [] => .next s
  | o :: rest =>
    if !o.begun then .next s
    else if o.kind == 2 && (s.mxHeld o true || s.mxBarHeld o) then .next (s.noteWait (pair / 32) 0 o.id)
    else
      let r := s.mxWrite pair o
      let s1 := match r.2 with | none => r.1.mxCount pair o | some a => r.1.mxClobber o a
      let s2 := s1.putMx pair { s1.mxPair pair with ops := rest }
      let s3 := { s2 with owned := s2.owned.filter fun w => w.cmd != o.id }
      .next ((((s3.bump (ctrMx pair o.kind)).bump (ctrMx pair 4) o.macs).bump (ctrMx pair 5) o.cycles).mxLower o)

/-- Payload of the watchdog record of a matrix reset (R435). -/
def mxWatchPayload (pair : Nat) (t : Team) (op : Nat) : BitVec 96 :=
  BitVec.ofNat 96 (pair % 256 + 2 ^ 8 * t.asid.toNat + 2 ^ 24 * (t.lin % 2 ^ 32) + 2 ^ 56 * op)

/-- MATRIX_WATCHDOG: the holder's operations are discarded, its accumulators zeroed and lost, and the pair is in reset
(R294, R435). -/
def execMatrixWatchdog (pair : Nat) (s : State) : Host.Outcome State Fault Refusal :=
  let m := s.mxPair pair
  match m.holder with
  | none => .next s
  | some tk =>
    let t := s.team tk
    let op := match m.ops.find? fun o => o.begun with | some o => o.op | none => 0
    let s1 := (s.putMx pair { m with holder := none, reset := true, ops := [] }).putTeam tk { t with mxHolds := false, mxLost := true }
    let s2 := { s1.zeroAccum pair with owned := s1.owned.filter fun w => !m.ops.any fun o => o.id == w.cmd }
    let s3 := m.ops.foldl (fun st o => (st.mxLower o)) s2
    let s4 := (m.ops.flatMap fun o => o.quarters.filterMap fun q => q.map fun x => x.grp).foldl (fun st k => st.tryFree k) s3
    let s5 := s4.emit (engMatrix pair) 0x09 (some t.asid) (mxWatchPayload pair t op)
    .next ((s5.emit (engMatrix pair) 0x0A (some t.asid) (faultPayload 0x11 0 0 0 0 false false false)).bump (ctrMx pair 8))

/-- MATRIX_RESET_END: the pair leaves reset (R294). -/
def execMatrixResetEnd (pair : Nat) (s : State) : Host.Outcome State Fault Refusal :=
  .next (if (s.mxPair pair).reset then s.putMx pair { s.mxPair pair with reset := false } else s)

end Sys2Proof.Machine
end

