-- ==== Sys2Proof/Machine/Launcher.lean ====
section
/-! DEFINITION. The graph launcher: hardware work queues, graphs, tasks, their checks and placement, the ends of teams, tasks
and graphs (chapter 13, R298 to R312, R320, with R15, R16, R195, R197, R394). -/

namespace Sys2Proof.Machine

/-! ### Counters of the management window (R331, R307) -/

/-- Number of the counter of records taken from a queue. -/
def ctrQueue (q : Nat) : Nat := 0x208_0000 + q
/-- Number of the counter of `poll` failures of a core. -/
def ctrPoll (core : Nat) : Nat := 0x20A_0000 + core

/-! ### The launcher's own accesses -/

/-- An access of the launcher to a global address of a context, at device scope (R299): translated like an access of the
control side, on die 0, which may also write Stratus (R272, log entry 19). -/
def State.lxLoc (s : State) (asid : BitVec 16) (write : Bool) (va : DWord) : Option Loc :=
  let a : Access := { acc := 0, size := 1, write := write, user := false }
  if !canonical va then none
  else match s.resolveGlobal 0 asid a va with
    | .ok .lost => none
    | .ok l => some l
    | .error (.err e) => if e.reason == 5 then match s.resolveGlobal 0 asid { a with write := false } va with
        | .ok (.stratus o) => some (.stratus o)
        | _ => none
      else none
    | .error (.model _) => none

/-- Is a location free for the launcher: no engine owns its line and its bank is not in a refresh window (R234, R271)? -/
def State.lxFree (s : State) (l : Loc) (n : Nat) (write : Bool) : Bool := (s.locWait l n write).isNone

/-- `n` bytes read at an address that does not cross a page; none where they cannot be read, uncorrectable data among them
(R426, log entry 80). -/
def State.lxRead (s : State) (asid : BitVec 16) (va : DWord) (n : Nat) : Option Nat :=
  match s.lxLoc asid false va with
  | none => none
  | some l =>
    if !s.lxFree l n false || (List.range n).any (s.isBad l) then none
    else some (leValue ((List.range n).map (s.homeByte l)))

/-- Bytes written one at a time, each where its own address translates; a byte whose page cannot be written is dropped (log
entry 19). -/
def State.lxPut (s : State) (asid : BitVec 16) (va : DWord) : List Byte → State
  | [] => s
  | b :: bs => State.lxPut (match s.lxLoc asid true va with
      | some l => if s.lxFree l 1 true then s.setHomeByte l 0 b else s
      | none => s) asid (va + 1) bs

/-- A step of the launcher waits as a whole when one of its accesses meets a line that an engine owns or a bank in its refresh window
(R234, R271): where what it does depends on them. A wait for an owned line is counted once, under the step's number (R243, log entry
101). -/
def State.lxStep (s : State) (id : Nat) (f : State → State) (die : Nat := 0) : State :=
  if s.owned == [] && s.refresh == [] then (f s).waitOver 2 id
  else
    let t := f s
    if { t with owned := [], refresh := [] } == f { s with owned := [], refresh := [] } then t.waitOver 2 id
    else if { t with owned := [] } == f { s with owned := [] } then s
    else s.noteWait die 2 id

/-- A translation that the launcher makes for itself, on die 0 (R202, R224, log entry 9). -/
def State.lxNote (s : State) (asid : BitVec 16) (va : DWord) : State := s.noteVas 0 asid [va]

/-- The low `n` bytes of a value written. -/
def State.lxWrite (s : State) (asid : BitVec 16) (va : DWord) (n v : Nat) : State := (s.lxNote asid va).lxPut asid va (leBytes n v)

/-- The die that holds the home of an address: HBM is interleaved at 4 KiB (R19); a TCB elsewhere is taken with die 0. -/
def State.homeDie (s : State) (asid : BitVec 16) (va : DWord) : Nat :=
  match s.lxLoc asid false va with
  | some (.hbm pa) => pa / 4096 % 4
  | _ => 0

/-- An interrupt sent to a host port; those of a port that has failed are discarded (R418, R419). -/
def State.irq (s : State) (port vec : Nat) : State :=
  if s.hostDown.contains port then s else { s with irqs := s.irqs ++ [(port, vec)] }

/-- Vector 63 of both host ports: a device error or a lifecycle event (R418). -/
def State.deviceIrq (s : State) : State := (s.irq 0 63).irq 1 63

/-! ### Tasks (R301, R302, R306) -/

/-- Key of the task whose TCB lies at an address. -/
def taskKey (asid : BitVec 16) (va : DWord) : Nat := asid.toNat * 2 ^ 64 + va.toNat

/-- The graph base of a task: its graph's, or of a child its TCB's address less 128 · ID (R301, R312). -/
def State.baseOf (s : State) (t : Task) : DWord :=
  if t.parent = 0 then (s.graph t.graph).base else t.va - 128 * t.id.setWidth 64

/-- The launcher agent of a task: that of the die of its TCB's home (R308). -/
def State.agentOf (s : State) (t : Task) : Nat := engLauncher (s.homeDie t.asid t.va)

/-- Payload of a task record (R386). -/
def taskPayload (id : Word) (level : Nat) (base : DWord) : BitVec 96 :=
  BitVec.ofNat 96 (id.toNat + 2 ^ 32 * (level % 8) + 2 ^ 35 * (base.toNat / 128 % 2 ^ 50))

/-- A task record: 1 ready, 2 start, 3 retire. -/
def State.taskRecord (s : State) (code : Nat) (t : Task) : State :=
  s.emit (s.agentOf t) code (some t.asid) (taskPayload t.id t.prio (s.baseOf t))

/-- STATUS of a task as a word (R301). -/
def Task.status (t : Task) : Nat :=
  t.state % 256 + match t.fault with
    | some f => if t.state = 4 then 256 * f.1.toNat + 65536 * f.2.toNat else 0
    | none => 0

/-- STATUS written to the TCB. -/
def State.putStatus (s : State) (t : Task) : State := s.lxWrite t.asid (t.va + 0x44) 4 t.status

/-- Places free in the ready queue and its overflow (R306, R307). -/
def State.readyRoom (s : State) : Nat :=
  (Config.readyMax - s.ready.length) + (s.ovMax - s.overflow.length)

/-- The oldest entry of the highest level of the overflow (R307). -/
def State.overflowHead (s : State) : Option OvEntry :=
  s.overflow.foldl (fun b e => match b with
    | none => some e
    | some x => if x.level < e.level then some e else some x) none

/-- The oldest overflow entry of the highest level enters the ready queue while a place there is free (R307). -/
def State.overflowMove (s : State) : State :=
  match s.overflowHead with
  | some e => if s.ready.length < Config.readyMax then
      { s with ready := s.ready ++ [(e.level, e.task)], overflow := s.overflow.erase e } else s
  | none => s

/-- Entries moved from the overflow as long as the ready queue has places: they go ahead of any task that becomes ready later (R307). -/
def State.overflowMoves : Nat → State → State
  | 0, s => s
  | n + 1, s => State.overflowMoves n s.overflowMove

/-- The physical address of a location in device, host or peer memory. -/
def Loc.pa (l : Loc) : Nat := match l with | .hbm p | .host p | .peer _ p => p | .stratus o => o | _ => 0

/-- A task put into the overflow: its entry is written into the lowest free place of the region (R307, log entry 84). -/
def State.overflowPut (s : State) (tk : Nat) : State :=
  let t := s.task tk
  let slot := ((List.range (s.overflow.length + 1)).find? fun i => s.overflow.all fun e => e.slot != i).getD 0
  let pa := match s.lxLoc t.asid false t.va with | some l => l.pa | none => 0
  let word := pa / 128 % 2 ^ 45 + 2 ^ 45 * (t.prio % 8)
  let s1 := { s with overflow := s.overflow ++ [⟨t.prio, tk, slot⟩], hbm := s.hbm.write (s.ovBase + 8 * slot) 8 word }
  let n := s1.overflow.length
  if (s.count (ctrTask 5)).toNat < n then { s1 with counts := Store.put (ctrTask 5) (BitVec.ofNat 64 n) s1.counts } else s1

/-- A task enters the ready queue at its level, behind the overflow's entries, or the overflow while the queue is full (R307). -/
def State.enqueue (s : State) (tk : Nat) : State :=
  let s1 := State.overflowMoves s.overflow.length s
  if s1.ready.length < Config.readyMax then { s1 with ready := s1.ready ++ [((s1.task tk).prio, tk)] }
  else s1.overflowPut tk

/-- A task becomes ready (R302, R303, R306). -/
def State.makeReady (s : State) (tk : Nat) : State :=
  let t := { s.task tk with state := 1 }
  ((((s.putTask tk t).putStatus t).enqueue tk).taskRecord 1 t).bump (ctrTask 0)

/-- The head of the ready queue: the oldest task of the highest level that holds one (R306). -/
def highest (l : List (Nat × Nat)) : Option (Nat × Nat) :=
  l.foldl (fun b e => match b with
    | none => some e
    | some x => if x.1 < e.1 then some e else some x) none

/-- The head task. -/
def State.headTask (s : State) : Option Nat := (highest s.ready).map fun e => e.2

/-- A field of `n` bytes at a byte offset of a block. -/
def field (v off n : Nat) : Nat := v / 2 ^ (8 * off) % 2 ^ (8 * n)

/-- A task registered from its TCB's 128 bytes (R302): PRED and PRIO count from then on, the rest is read again at the
check of R305. -/
def State.register (s : State) (asid : BitVec 16) (va : DWord) (tcb : Nat) (id : Word) (graph parent depth : Nat) : State :=
  (s.lxNote asid va).putTask (taskKey asid va)
    { Task.empty with live := true, asid := asid, va := va, id := id, graph := graph, parent := parent
                      prio := bitsAt tcb 16 3, depth := depth, done := BitVec.ofNat 64 (field tcb 0x48 8) }

/-! ### The end of a graph (R311) -/

/-- The launch record of a queue is complete (R300). -/
def State.recDone (s : State) (q : Nat) (r : QRec) : State :=
  let x := s.queue q
  let s1 := s.putQueue q { x with recs := x.recs.filter fun y => y.index != r.index }
  if r.irq then s1.irq x.port.toNat (q % 62) else s1

/-- A bit as a number of a list's emptiness. -/
def anyNat (b : Bool) : Nat := if b then 1 else 0

/-- The status word of a graph (R300). -/
def State.graphWord (s : State) (gk : Nat) : Nat :=
  let g := s.graph gk
  let stranded := s.tasks.any fun p => p.2.graph == gk && p.2.parent == 0 && p.2.live && p.2.state == 0
  1 + 4 * anyNat stranded + match g.fault with
    | some f => 2 + 256 * f.1.toNat + 2 ^ 32 * f.2.toNat
    | none => 0

/-- Does anything of a graph still run: a task ready or running, a placed team, a registered child (R311)? -/
def State.graphBusy (s : State) (gk : Nat) : Bool :=
  s.tasks.any fun p => p.2.graph == gk
    && ((p.2.live && (p.2.state == 1 || p.2.state == 2 || p.2.parent != 0)) || p.2.placed != 0 || p.2.retiring)

/-- Tasks of a completed graph are registered no longer (R302). -/
def State.dropTasks (s : State) (gk : Nat) : State :=
  { s with tasks := s.tasks.map fun p => (p.1, if p.2.graph == gk then { p.2 with live := false } else p.2) }

/-- A graph completes once nothing of it runs (R311): its status word is written and its record completes. -/
def State.graphCheck (s : State) (gk : Nat) : State :=
  let g := s.graph gk
  if !g.live || s.graphBusy gk then s
  else
    let s1 := if g.statw = 0 then s else s.lxWrite g.asid g.statw 8 (s.graphWord gk)
    let s2 := (s1.putGraph gk { g with live := false }).dropTasks gk
    match (s2.queue g.queue).recs.find? fun r => r.index == g.record with
    | some r => s2.recDone g.queue r
    | none => s2

/-! ### The end of a task -/

/-- A task is over for the launcher: no longer registered and in no queue. -/
def State.closeTask (s : State) (tk : Nat) (t : Task) : State :=
  let s1 := s.putTask tk { t with live := false, retiring := false }
  { s1 with ready := s1.ready.filter fun e => e.2 != tk, overflow := s1.overflow.filter fun e => e.task != tk }

/-- Is every child grid that a team launched over: retired or faulted? -/
def State.childrenOver (s : State) (t : Team) : Bool := t.children.all fun c => !(s.task c).live

/-- STATUS faulted is due (R365): the task has a fault, none of its teams is placed, and no child grid of its teams is
registered. -/
def State.faultDue (s : State) (tk : Nat) : Bool :=
  let t := s.task tk
  t.live && (t.state == 1 || t.state == 2) && t.fault != none && t.placed == 0
    && s.teams.all fun p => p.2.task != tk || s.childrenOver p.2

/-- A team that has ended retires when every child grid it launched is over (R308). -/
def State.retireTeam (s : State) (k : Nat) : State :=
  let t := s.team k
  if t.live || t.done || t.groups == 0 || !s.childrenOver t then s
  else
    let x := s.taskOf t
    (s.putTeam k { t with done := true }).putTask t.task { x with retired := t.lin :: x.retired, endedAt := s.clock }

/-- What follows when a team has ended or a child grid of it is over (R308, R312, R365): the team may retire, its task may
fault, and then the same holds for the team that launched that task. The grids nest to a depth of 10. -/
def State.settle : Nat → Nat → State → State
  | 0, _, s => s
  | n + 1, k, s =>
    let s1 := s.retireTeam k
    let tk := (s1.team k).task
    if s1.faultDue tk then
      let t := { s1.task tk with state := 4 }
      let s2 := (s1.closeTask tk t).putStatus t
      let s3 := if t.done = 0 then s2 else s2.lxWrite t.asid t.done 8 t.status
      let s4 := if t.parent = 0 then s3 else State.settle n t.parent s3
      s4.graphCheck t.graph
    else s1

/-- A task that is over is made known: to the team that launched it, and to its graph. -/
def State.announce (s : State) (t : Task) : State :=
  (if t.parent = 0 then s else s.settle 12 t.parent).graphCheck t.graph

/-! ### Launch records (R298 to R300) -/

/-- Does a record that was taken hold up the later ones of its queue (R300): a wait, a SERIAL graph that has not started? -/
def Queue.blocked (q : Queue) : Bool := q.recs.any fun r => r.kind == 2 || (r.kind == 1 && r.serial && !r.began)

/-- May a record be taken from a queue? -/
def State.canTake (s : State) (q : Queue) : Bool :=
  q.en && q.err == 0 && q.tail != q.head && !q.blocked && !q.halted && !s.hostDown.contains q.port.toNat && s.readyRoom != 0

/-- The queue from which the launcher takes next: highest PRIO, round-robin by number within a level (R298). -/
def State.winner (s : State) : Option Nat :=
  let c := s.queues.filter fun p => s.canTake p.2
  let top := c.foldl (fun m p => max m p.2.prio.toNat) 0
  let lv := (c.filter fun p => p.2.prio.toNat == top).map fun p => p.1
  match lv.find? fun q => Store.get 0 s.lastTaken top ≤ q with
  | some q => some q
  | none => lv.head?

/-- Address of a record of a queue. -/
def Queue.recAddr (q : Queue) (n : Word) : DWord := q.rbase + BitVec.ofNat 64 (64 * (n.toNat % 2 ^ q.log2n.toNat))

/-- A queue stopped with ERR and FADDR (R298). -/
def State.stopQueue (s : State) (q : Nat) (err : BitVec 3) (faddr : DWord) : State :=
  s.putQueue q { s.queue q with err := err, faddr := faddr }

/-- The next record of a queue checked (R298, R299): ERR and FADDR, or the record. R298 gives FADDR of ERR 3 and 4; with ERR 1 and 2,
which no address causes, it is 0: DESIGN CHOICE, log entry 108. -/
def State.readRec (s : State) (q : Queue) : Except (BitVec 3 × DWord) QRec :=
  let a := q.recAddr q.head
  if q.log2n.toNat < 4 || 16 < q.log2n.toNat || q.rbase.toNat % 4096 != 0 then .error (1, 0)
  else if 2 ^ q.log2n.toNat < (q.tail - q.head).toNat then .error (2, 0)
  else match s.lxRead q.asid a 32 with
    | none => .error (3, a)
    | some v =>
      let r : QRec :=
        { index := q.head, kind := bitsAt v 0 8, serial := v.testBit 8, irq := v.testBit 9, ntask := field v 4 4
          addr := BitVec.ofNat 64 (field v 8 8), value := BitVec.ofNat 64 (field v 0x10 8)
          statw := BitVec.ofNat 64 (field v 0x18 8), began := false, tries := 0 }
      let bad := 3 < r.kind || bitsAt v 10 22 != 0
        || (r.kind == 1 && (r.ntask < 1 || 2 ^ 24 < r.ntask || r.addr.toNat % 128 != 0 || r.statw.toNat % 8 != 0))
        || (2 ≤ r.kind && r.addr.toNat % 8 != 0)
      if bad then .error (4, a) else .ok r

/-- A record is taken: HEAD goes on, the counter rises. -/
def State.takeRec (s : State) (q : Nat) (r : QRec) : State :=
  let x := s.queue q
  (({ s with lastTaken := Store.put x.prio.toNat (q + 1) s.lastTaken }).putQueue q
    { x with head := x.head + 1, recs := x.recs ++ [r] }).bump (ctrQueue q)

/-- The step of taking a record of a kind from a queue: the queue stops, or the record is taken and `act` follows; a queue
that is not next, or whose record is of another kind, is left alone. HEAD stays on a record that stops the queue, so that it is read
again when EN is set anew: DESIGN CHOICE, log entry 109 (R299 does not say whether HEAD passes it). -/
def State.takeKind (s : State) (q kind : Nat) (act : State → QRec → State) : State :=
  if s.winner == some q then
    let t := s.lxNote (s.queue q).asid ((s.queue q).recAddr (s.queue q).head)
    match s.readRec (s.queue q) with
    | .error e => t.stopQueue q e.1 e.2
    | .ok r => if r.kind = kind then act (t.takeRec q r) r else s
  else s

/-- A record in progress replaced. -/
def State.putRec (s : State) (q : Nat) (r : QRec) : State :=
  let x := s.queue q
  s.putQueue q { x with recs := x.recs.map fun y => if y.index == r.index then r else y }

/-- Is a record in progress the oldest of its queue: have all earlier ones completed? -/
def State.isOldest (s : State) (q : Nat) (r : QRec) : Bool :=
  match (s.queue q).recs with
  | x :: _ => x.index == r.index
  | [] => false

/-- The record of a queue that has been taken and whose action has not begun. -/
def State.waitingRec (s : State) (q kind : Nat) : Option QRec := (s.queue q).recs.find? fun r => r.kind == kind && !r.began

/-- RECORD_NOP (R300). -/
def execRecordNop (q : Nat) (s : State) : Host.Outcome State Fault Refusal :=
  .next (s.lxStep (8 * q) fun s => s.takeKind q 0 fun st r => st.recDone q r)

/-- The TCBs of a graph registered in id order (R303); the tasks that are ready, with the id at which a TCB could not be
read. -/
def State.regTasks (s : State) (asid : BitVec 16) (base : DWord) (gk : Nat) : Nat → Nat → State × List Nat × Option Nat
  | 0, _ => (s, [], none)
  | n + 1, i =>
    let va := base + BitVec.ofNat 64 (128 * i)
    match s.lxRead asid va 128 with
    | none => (s, [], some i)
    | some v =>
      let s1 := s.register asid va v (BitVec.ofNat 32 i) gk 0 0
      let k := taskKey asid va
      if bitsAt v 0 16 = 0 then
        let r := s1.regTasks asid base gk n (i + 1)
        (r.1, k :: r.2.1, r.2.2)
      else (s1.putStatus (s1.task k)).regTasks asid base gk n (i + 1)

/-- A graph started (R303), unless the ready queue and its overflow cannot take its ready tasks (R307): then it waits. -/
def State.startGraph (s : State) (q : Nat) (r : QRec) : State :=
  let x := s.queue q
  let gk := s.graphCtr + 1
  let g : Graph := { live := true, asid := x.asid, queue := q, record := r.index, base := r.addr, ntask := r.ntask
                     statw := r.statw, fault := none }
  let a := ({ s with graphCtr := gk }.putGraph gk g).regTasks x.asid r.addr gk r.ntask 0
  if s.readyRoom < a.2.1.length then s
  else
    let s1 := match a.2.2 with
      | some i => a.1.graphFault gk FCode.page.num (BitVec.ofNat 32 i)
      | none => a.1
    ((a.2.1.foldl (fun st k => st.makeReady k) s1).putRec q { r with began := true }).graphCheck gk

/-- A graph record that may start does (R300). -/
def State.tryGraph (s : State) (q : Nat) (r : QRec) : State :=
  if r.serial && !s.isOldest q r then s else s.startGraph q r

/-- The step of a record of a kind: one that has been taken and whose action has not begun acts if it can; else one is taken. -/
def State.recordStep (s : State) (q kind : Nat) (act : State → QRec → State) : State :=
  match s.waitingRec q kind with
  | some r =>
    let t := act s r
    if (t.queue q).recs == (s.queue q).recs then s.takeKind q kind act else t
  | none => s.takeKind q kind act

/-- RECORD_GRAPH (R300, R303). -/
def execRecordGraph (q : Nat) (s : State) : Host.Outcome State Fault Refusal :=
  .next (s.lxStep (8 * q + 1) fun s => s.recordStep q 1 fun st r => st.tryGraph q r)

/-- The launcher agent that reads a wait record's word: that of the word's home die (R341, log entry 12). -/
def State.waitAgent (s : State) (x : Queue) (r : QRec) : Nat := engLauncher (s.homeDie x.asid r.addr)

/-- The word of a wait record read (R300): the record completes, backs off, or stops the queue when it cannot be read. -/
def State.readWait (s : State) (q : Nat) (r : QRec) : State :=
  let s := s.lxNote (s.queue q).asid r.addr
  let x := s.queue q
  match s.lxRead x.asid r.addr 8 with
  | none => (s.putQueue q { x with recs := x.recs.filter fun y => y.index != r.index }).stopQueue q 3 (x.recAddr r.index)
  | some v =>
    if r.value.toNat ≤ v then s.recDone q r
    else s.putRec q { r with began := true, tries := r.tries + 1, tag := if r.began then r.tag else s.tagOf (s.waitAgent x r) }

/-- RECORD_WAIT (R300). -/
def execRecordWait (q : Nat) (s : State) : Host.Outcome State Fault Refusal :=
  .next (s.lxStep (8 * q + 2) fun s => s.takeKind q 2 fun st r => st.readWait q r)

/-- WAIT_RECORD_REREAD (R300). -/
def execWaitRecordReread (q : Nat) (s : State) : Host.Outcome State Fault Refusal :=
  .next (s.lxStep (8 * q + 4) fun s => match (s.queue q).recs.find? fun r => r.kind == 2 with
    | some r => s.readWait q r
    | none => s)

/-- A signal record whose earlier records have completed writes its value (R300). -/
def State.trySignal (s : State) (q : Nat) (r : QRec) : State :=
  let x := s.queue q
  if !s.isOldest q r then s
  else match s.lxLoc x.asid true r.addr with
    | none => (s.putQueue q { x with recs := x.recs.filter fun y => y.index != r.index }).stopQueue q 3 (x.recAddr r.index)
    | some _ => (s.lxWrite x.asid r.addr 8 r.value.toNat).recDone q r

/-- RECORD_SIGNAL (R300). -/
def execRecordSignal (q : Nat) (s : State) : Host.Outcome State Fault Refusal :=
  .next (s.lxStep (8 * q + 3) fun s => s.recordStep q 3 fun st r => st.trySignal q r)

/-! ### The check of a task (R304, R305) -/

/-- VIEW.V: no reserved bit is set (R27). -/
def viewVFields (v : DWord) : Bool := v.toNat < 2 ^ 24
/-- VIEW.V: aligned and inside a register space of `size` bytes, with a count that R27 allows. -/
def viewVFits (v : DWord) (size : Nat) : Bool :=
  bitsAt v.toNat 0 16 % 128 == 0 && bitsAt v.toNat 0 16 + 384 * bitsAt v.toNat 16 8 ≤ size
/-- VIEW.T: no reserved bit, and a number of rows that R28 allows. -/
def viewTFields (v : DWord) : Bool :=
  v.toNat < 2 ^ 32 && bitsAt v.toNat 16 8 ≤ 128 && (bitsAt v.toNat 16 8 != 0 || bitsAt v.toNat 24 8 == 0)
/-- VIEW.T: aligned and inside the register space. -/
def viewTFits (v : DWord) (size : Nat) : Bool :=
  bitsAt v.toNat 0 16 % 128 == 0 && bitsAt v.toNat 0 16 + 128 * bitsAt v.toNat 16 8 * bitsAt v.toNat 24 8 ≤ size
/-- VIEW.A: no reserved bit. -/
def viewAFields (v : DWord) : Bool := v.toNat < 2 ^ 32
/-- VIEW.A: aligned, inside the register space and inside the accumulator space (R29, R30). -/
def viewAFits (v : DWord) (size : Nat) : Bool :=
  bitsAt v.toNat 0 16 % 1024 == 0 && bitsAt v.toNat 16 7 ≤ 64 && bitsAt v.toNat 0 16 + 1024 * bitsAt v.toNat 16 7 ≤ size
    && bitsAt v.toNat 23 9 + bitsAt v.toNat 16 7 ≤ 512

/-- The places of a team's groups (R15): whether on the follower, and the quadrant. -/
def teamPlaces (groups : Nat) (pair : Bool) : List (Bool × Nat) :=
  (List.range groups).map fun g => (pair && g / 4 % 2 == 1, g % 4)

/-- The greatest number of groups that a team puts on one quadrant. -/
def quadLoad (groups : Nat) (pair : Bool) : Nat :=
  let ps := teamPlaces groups pair
  [(false, 0), (false, 1), (false, 2), (false, 3), (true, 0), (true, 1), (true, 2), (true, 3)].foldl
    (fun m p => max m (ps.filter fun x => x == p).length) 0

/-- Bytes of register SRAM of a quadrant (R13). -/
def quadSram : Nat := 262144

/-- Is the logical core there (R12)? -/
def State.present (s : State) (core : Nat) : Bool := core < Config.cores && !s.absent.contains core

/-- The units that can take a team: cores, or pairs by their leader, with every member present (R12). -/
def State.units (s : State) (pair : Bool) : List Nat :=
  if pair then ((List.range 128).map fun p => 2 * p).filter fun c => s.present c && s.present (c + 1)
  else (List.range Config.cores).filter s.present

/-- A descriptor from its 64 bytes (R304). -/
def KDesc.ofBytes (v : Nat) : KDesc :=
  { regs := field v 0 4, scratch := field v 4 4, viewV := BitVec.ofNat 64 (field v 8 8)
    viewT := BitVec.ofNat 64 (field v 0x10 8), viewA := BitVec.ofNat 64 (field v 0x18 8)
    trapb := BitVec.ofNat 64 (field v 0x20 8), slane := field v 0x28 4, ckregs := field v 0x2C 1
    super := v.testBit (8 * 0x30), strload := v.testBit (8 * 0x30 + 1) }

/-- A task with the fields of its TCB's 128 bytes (R301). -/
def Task.withTcb (t : Task) (v : Nat) : Task :=
  { t with
    restart := v.testBit 19, det := v.testBit 20, cores := v.testBit 21, pair := v.testBit 22
    entry := BitVec.ofNat 64 (field v 0x10 8), gx := BitVec.ofNat 32 (field v 0x20 4), gy := BitVec.ofNat 32 (field v 0x24 4)
    gz := BitVec.ofNat 32 (field v 0x28 4), groups := field v 0x2C 4, param := BitVec.ofNat 64 (field v 0x30 8)
    seed := BitVec.ofNat 64 (field v 0x38 8), done := BitVec.ofNat 64 (field v 0x48 8) }

/-- Teams of a grid (R18). -/
def Task.teams (t : Task) : Nat := t.gx.toNat * t.gy.toNat * t.gz.toNat

/-- Bytes of a group's three initial stack parts (R195, R305): lane, join and checkpoint. -/
def KDesc.laneBytes (k : KDesc) : Nat := 384 * k.slane / 4
/-- CLIM at placement (R305). -/
def KDesc.ckBytes (k : KDesc) : Nat := 2 * (2688 + 768 * k.ckregs)

/-- Bytes of scratchpad that an allocation takes: what the descriptor asks for, in whole words (R16, R39, log entry 58). -/
def scratchUnits (n : Nat) : Nat := (n + 3) / 4 * 4

/-- Teams that one empty unit holds at once. -/
def Task.perUnit (t : Task) : Nat :=
  let k := quadLoad t.groups t.pair
  let n := min (Config.slots / k) (quadSram / (k * t.kd.regs))
  if t.kd.scratch = 0 then n else min n (Config.scratchBytes / scratchUnits t.kd.scratch)

/-- The successors' ids read from the SUCC list: the list, or the first entry's address that cannot be read. -/
def State.readSucc (s : State) (asid : BitVec 16) (va : DWord) : Nat → Except DWord (List Nat)
  | 0 => .ok []
  | n + 1 => match s.lxRead asid va 4 with
    | none => .error va
    | some i => match State.readSucc s asid (va + 4) n with
      | .ok l => .ok (i :: l)
      | .error a => .error a

/-- WHY of a refusal (R305), 0 for none, for a task with its TCB's word 0, NSUCC, SUCC, and its descriptor's bytes. -/
def State.whyNot (s : State) (t : Task) (w0 nsucc : Nat) (succ : DWord) (kd : Nat) : Nat :=
  let k := t.kd
  let c := s.ctx t.asid
  let load := quadLoad t.groups t.pair
  if !(1024 ≤ k.regs && k.regs ≤ 65536 && k.regs % 1024 == 0 && viewVFields k.viewV && viewVFits k.viewV k.regs
      && bitsAt k.viewV.toNat 16 8 ≤ 170 && viewTFields k.viewT && viewTFits k.viewT k.regs && viewAFields k.viewA
      && viewAFits k.viewA k.regs) then 1
  else if !(if t.pair then 2 ≤ t.groups && t.groups ≤ 64 else 1 ≤ t.groups && t.groups ≤ 32)
      || Config.slots < load || quadSram < load * k.regs || Config.scratchBytes < k.scratch then 2
  else if c.homeSize < k.laneBytes + 768 + k.ckBytes then 3
  else if bitsAt w0 23 9 != 0 || 4096 < nsucc || field kd 0x2D 3 != 0 || field kd 0x30 8 / 4 != 0 || field kd 0x38 8 != 0
      || (k.super && !c.priv) || t.entry.toNat % 4 != 0 || succ.toNat % 4 != 0 || k.slane % 16 != 0 || 170 < k.ckregs
      || t.teams == 0 || 2 ^ 32 < t.teams then 4
  else if t.pair && s.units true == [] then 5
  else if t.cores && t.perUnit * (s.units t.pair).length < t.teams then 6
  else if t.succ.any fun i => if t.parent = 0 then (s.graph t.graph).ntask ≤ i
      else (s.lxLoc t.asid true (s.baseOf t + BitVec.ofNat 64 (128 * i))).isNone then 7
  else 0

/-- The check at the head of the ready queue (R305): the task with everything its placement needs, or the code, the WHY and
the unreadable address of its refusal. -/
def State.checkTask (s : State) (t0 : Task) : Except (BitVec 8 × BitVec 8 × DWord) Task :=
  match s.lxRead t0.asid t0.va 128 with
  | none => .error (7, 0, t0.va)
  | some v =>
    let kva : DWord := BitVec.ofNat 64 (field v 0x18 8)
    let sva : DWord := BitVec.ofNat 64 (field v 8 8)
    let nsucc := field v 4 4
    if kva.toNat % 64 != 0 then .error (3, 4, 0)
    else match s.lxRead t0.asid kva 64 with
      | none => .error (7, 0, kva)
      | some kd =>
        match if sva.toNat % 4 != 0 || 4096 < nsucc then .ok [] else s.readSucc t0.asid sva nsucc with
        | .error a => .error (7, 0, a)
        | .ok l =>
          let t := { t0.withTcb v with kd := KDesc.ofBytes kd, succ := l, checked := true }
          match s.whyNot t v nsucc sva kd with
          | 0 => .ok t
          | w => .error (3, BitVec.ofNat 8 w, 0)

/-- The pages that the check of a task reads (R305): its TCB's, its kernel descriptor's, and those of its SUCC list. -/
def State.checkVas (s : State) (t : Task) : List DWord :=
  match s.lxRead t.asid t.va 128 with
  | none => [t.va]
  | some v =>
    let succ : DWord := BitVec.ofNat 64 (field v 8 8)
    let n := field v 4 4
    let off := succ.toNat % 4096
    let list := if n = 0 || 4096 < n then [] else (List.range ((off + 4 * n + 4095) / 4096)).map fun k =>
      if k = 0 then succ else succ + BitVec.ofNat 64 (4096 * k - off)
    t.va :: BitVec.ofNat 64 (field v 0x18 8) :: list

/-- A launch refused (R305): STATUS faulted, the graph marked, a fault record; no successor's count falls. -/
def State.refuse (s : State) (tk : Nat) (code why : BitVec 8) (addr : DWord) : State :=
  let t := { s.task tk with state := 4, fault := some (code, why) }
  let s1 := ((s.closeTask tk t).putStatus t).graphFault t.graph code.toNat t.id
  let s2 := s1.emit (s1.agentOf t) 0x0A (some t.asid) (faultPayload code.toNat 0 0 addr (why.setWidth 64) false false false)
  (s2.bump (ctrTask 1)).announce t

/-! ### Placement (R14 to R18, R306) -/

/-- Is a context switched out of a core, or on its way (R318)? -/
def State.switchedOut (s : State) (core : Nat) (asid : BitVec 16) : Bool :=
  s.saved.any (fun x => x.core == core && x.asid == asid) || s.switches.any fun x => x.core == core && x.outgoing == asid

/-- Scratchpad ranges allocated on a core (R16): first byte and length. -/
def State.allocs (s : State) (core : Nat) : List (Nat × Nat) :=
  (s.teams.filter fun p => p.2.live && p.2.scratch != 0 && p.2.coreList.contains core
    && !(s.saved.any fun x => x.teams.contains p.1)).map fun p => (p.2.base, scratchUnits p.2.scratch)

/-- The lowest of some places where `len` bytes lie beside ranges. -/
def lowestFree (al : List (Nat × Nat)) (len : Nat) (places : List Nat) : Option Nat :=
  match places.filter fun b => b + len ≤ Config.scratchBytes && al.all fun a => a.1 + a.2 ≤ b || b + len ≤ a.1 with
  | [] => none
  | b :: bs => some (bs.foldl min b)

/-- The lowest place for `n` bytes among ranges: one that begins a 128-byte granule, else right behind a range (R16, log entry 58). -/
def freeBase (al : List (Nat × Nat)) (n : Nat) : Option Nat :=
  let ends := 0 :: al.map fun a => a.1 + a.2
  (lowestFree al (scratchUnits n) (ends.map fun b => (b + 127) / 128 * 128)).or (lowestFree al (scratchUnits n) ends)

/-- The slots that groups occupy in a quadrant. -/
def State.freeSlots (s : State) (core quad : Nat) : List Nat :=
  (List.range Config.slots).filter fun i => !(s.group (groupKey core quad i)).resident

/-- Register SRAM that groups occupy in a quadrant. -/
def State.sramUsed (s : State) (core quad : Nat) : Nat := (s.quadGroups core quad).foldl (fun n p => n + p.2.size) 0

/-- Do the groups of a team fit on a unit (R16)? -/
def State.groupsFit (s : State) (t : Task) (core : Nat) : Bool :=
  let ps := teamPlaces t.groups t.pair
  ps.all fun p =>
    let c := if p.1 then core + 1 else core
    let k := (ps.filter fun x => x == p).length
    k ≤ (s.freeSlots c p.2).length && s.sramUsed c p.2 + k * t.kd.regs ≤ quadSram

/-- The scratchpad place of a team on a unit: the same in both halves of a pair (R17). -/
def State.scratchFit (s : State) (t : Task) (core : Nat) : Option Nat :=
  if t.kd.scratch = 0 then some 0
  else freeBase (s.allocs core ++ if t.pair then s.allocs (core + 1) else []) t.kd.scratch

/-- The team that a task places next: one lost with its core first (R310), else the next index. -/
def Task.nextLin (t : Task) : Option Nat :=
  match t.again with
  | l :: _ => some l
  | [] => if t.next < t.teams then some t.next else none

/-- Does a team of a task run, or not yet retire, on a die? -/
def State.runsOn (s : State) (tk die : Nat) : Bool :=
  s.teams.any fun p => p.2.task == tk && p.2.groups != 0 && !p.2.done && p.2.core / 64 == die

/-- Does a task hold a die for its Stratus load phase: from the time it reaches the head of the ready queue until all its teams there
have retired (R309)? -/
def State.holdsDie (s : State) (tk : Nat) (t : Task) (die : Nat) : Bool :=
  t.held != 0 && t.dies.contains die && ((t.live && t.fault == none && t.nextLin.isSome) || s.runsOn tk die)

/-- The dies that the teams of a task of the load phase will occupy: those of the lowest units that hold the whole grid (R309, log
entry 85). -/
def State.loadDies (s : State) (t : Task) : List Nat :=
  (((s.units t.pair).take ((t.teams + t.perUnit - 1) / max 1 t.perUnit)).map fun c => c / 64).eraseDups

/-- A task of the load phase that reaches the head of the ready queue takes its dies. -/
def State.holdDies (s : State) (t : Task) : Task :=
  if t.kd.strload && t.held = 0 then
    { t with dies := s.loadDies t, held := s.tasks.foldl (fun m p => max m p.2.held) 0 + 1 }
  else t

/-- May a team of a task be placed on a unit: it is there, the context is not switched out of it, no other task has taken its die
before for a load phase, and, for a task of the load phase, the die is one of its own and no team of another task runs on any of
them (R309)? -/
def State.unitOpen (s : State) (tk : Nat) (t : Task) (core : Nat) : Bool :=
  (s.units t.pair).contains core && !s.switchedOut core t.asid && !(t.pair && s.switchedOut (core + 1) t.asid)
    && (s.tasks.all fun p => p.1 == tk || (t.held != 0 && t.held < p.2.held) || !s.holdsDie p.1 p.2 (core / 64))
    && (!t.kd.strload || (t.dies.contains (core / 64)
        && s.teams.all fun p => !p.2.live || p.2.task == tk || !t.dies.contains (p.2.core / 64)))

/-- The scratchpad place of a team on a unit where it fits (R16). -/
def State.fitsOn (s : State) (tk : Nat) (t : Task) (core : Nat) : Option Nat :=
  if s.unitOpen tk t core && s.groupsFit t core then s.scratchFit t core else none

/-- Home area of a group slot in its context's stack region (R197). -/
def Ctx.homeAt (c : Ctx) (key : Nat) : Nat := c.home.toNat + key * c.homeSize

/-- A group of a task at its launch state (R25, R36, R195, R305, R309). -/
def State.newGroup (s : State) (t : Task) (team index core quad slot : Nat) : Group :=
  let c := s.ctx t.asid
  let base := c.homeAt (groupKey core quad slot)
  let k := t.kd
  { Group.launch with
    asid := t.asid, team := team, index := index, core := core, quad := quad, slot := slot, size := k.regs
    viewV := k.viewV, viewT := k.viewT, viewA := k.viewA
    scal := Store.set TVal.zero (Store.set TVal.zero [] 2 ⟨t.id.setWidth 64, 0⟩) 1 ⟨t.param, 0⟩
    pc := t.entry, trapBase := k.trapb, mode := k.super || k.strload, dbg := c.debug
    lbase := BitVec.ofNat 64 base, slane := BitVec.ofNat 64 k.slane
    jbase := BitVec.ofNat 64 (base + k.laneBytes), jlim := 768
    cbase := BitVec.ofNat 64 (base + k.laneBytes + 768), clim := BitVec.ofNat 64 k.ckBytes
    age := s.teamCtr, ckAt := s.clock
    active := decide (((s.quadGroups core quad).filter fun p => p.2.active).length < Config.activeMax) }

/-- A group enters the lowest free slot of its quadrant; its checkpoint slots are marked as never written (R314). -/
def State.placeGroup (s : State) (t : Task) (team index core quad : Nat) : State :=
  match s.freeSlots core quad with
  | [] => s
  | slot :: _ =>
    let g := s.newGroup t team index core quad slot
    let s1 := s.putGroup (groupKey core quad slot) g
    { s1 with hbm := (s1.hbm.write (g.slotBase 0 + 8) 8 0).write (g.slotBase 1 + 8) 8 0 }

/-- Payload of a team record (R386). -/
def teamPayload (id : Word) (lin core : Nat) : BitVec 96 :=
  BitVec.ofNat 96 (id.toNat + 2 ^ 32 * (lin % 2 ^ 32) + 2 ^ 64 * (core % 256))

/-- A team record: 4 start, 5 end. -/
def State.teamRecord (s : State) (code : Nat) (t : Team) : State :=
  s.emit (engLauncher (t.core / 64)) code (some t.asid) (teamPayload (s.taskOf t).id t.lin t.core)

/-- The physical core behind a logical one, numbered within its die (R10). -/
def State.physical (s : State) (core : Nat) : Nat :=
  match Store.get 0 s.phys core with
  | 0 => core % 64
  | n + 1 => n

/-- The islands of a core on which a team is placed run (R428, R429). -/
def State.wakeCore (s : State) (core : Nat) : State :=
  { s with islands := s.islands.map fun p =>
    (p.1, if p.1 / 3 == core / 64 * 68 + s.physical core then { p.2 with st := 0 } else p.2) }

/-- The next team of a task placed on a unit, its scratchpad at `base` (R18). -/
def State.placeTeam (s : State) (tk core base lin : Nat) : State :=
  let t := s.task tk
  let k := s.teamCtr + 1
  let x := t.gx.toNat
  let y := t.gy.toNat
  let tm : Team :=
    { Team.empty with live := true, asid := t.asid, task := tk, lin := lin, x := BitVec.ofNat 32 (lin % x)
                      y := BitVec.ofNat 32 (lin / x % y), z := BitVec.ofNat 32 (lin / (x * y)), groups := t.groups
                      pair := t.pair, core := core, base := base, scratch := t.kd.scratch }
  let s0 := tm.coreList.foldl State.wakeCore s
  let s1 := { s0 with teamCtr := k }.putTeam k tm
  let s2 := (teamPlaces t.groups t.pair).zipIdx.foldl
    (fun st p => st.placeGroup t k p.2 (if p.1.1 then core + 1 else core) p.1.2) s1
  let t1 := { t with state := 2, placed := t.placed + 1
                     again := t.again.drop 1, next := if t.again = [] then t.next + 1 else t.next }
  let s3 := s2.putTask tk t1
  let s4 := if t.state = 1 then (s3.putStatus t1).taskRecord 2 t1 else s3
  let s5 := (s4.teamRecord 4 tm).bump (ctrTask 3)
  if t1.nextLin.isSome then s5 else { s5 with ready := s5.ready.filter fun e => e.2 != tk }

/-- The lowest unit on which the next team of a task fits. -/
def State.findUnit (s : State) (tk : Nat) (t : Task) : Option (Nat × Nat) :=
  (s.units t.pair).findSome? fun c => (s.fitsOn tk t c).map fun b => (c, b)

/-- `n` teams of a task placed, each on the lowest unit where it fits; none when one does not fit (R306, CORES). -/
def State.placeAll (s : State) (tk : Nat) : Nat → Option State
  | 0 => some s
  | n + 1 =>
    let t := s.task tk
    match s.findUnit tk t, t.nextLin with
    | some u, some lin => State.placeAll (s.placeTeam tk u.1 u.2 lin) tk n
    | _, _ => none

/-- A checked head task places: with CORES its first teams all at once, else its next team on the core's unit. -/
def State.placeNext (s : State) (tk core : Nat) : State :=
  let t := s.task tk
  let unit := if t.pair then core / 2 * 2 else core
  if t.cores && t.state == 1 then (s.placeAll tk t.teams).getD s
  else match s.fitsOn tk t unit, t.nextLin with
    | some base, some lin => s.placeTeam tk unit base lin
    | _, _ => s

/-- TEAM_PLACEMENT (R305, R306): the head task is checked and its next team placed on a core where it fits. -/
def execTeamPlacement (core : Nat) (s : State) : Host.Outcome State Fault Refusal :=
  .next (s.lxStep (2 ^ 20 + core) fun s => match s.headTask with
    | none => s
    | some tk =>
      let t := s.task tk
      if t.checked then s.placeNext tk core
      else
        let u := s.noteVas 0 t.asid (s.checkVas t)
        match s.checkTask t with
        | .error e => u.refuse tk e.1 e.2.1 e.2.2
        | .ok t' => (u.putTask tk (s.holdDies t')).placeNext tk core)

/-- READY_OVERFLOW_MOVE (R307). -/
def execReadyOverflowMove (s : State) : Host.Outcome State Fault Refusal := .next s.overflowMove

/-! ### The end of a team (R308, R320) -/

/-- Is a deferred entry before another in the order of R216: team index, then group? -/
def DeferEntry.before (a b : DeferEntry) : Bool := a.lin < b.lin || (a.lin == b.lin && a.group < b.group)

/-- An entry put behind every entry that it does not precede. -/
def insertEntry (e : DeferEntry) : List DeferEntry → List DeferEntry
  | [] => [e]
  | x :: l => if e.before x then e :: x :: l else x :: insertEntry e l

/-- Entries in the order of R216; those of one group stay in program and lane order, in which they were made. -/
def sortEntries (l : List DeferEntry) : List DeferEntry := l.foldl (fun acc e => insertEntry e acc) []

/-- One deferred atomic applied at its home. -/
def State.applyEntry (s : State) (e : DeferEntry) : State :=
  let o : AtomOp := { fn := e.fn, ty := e.ty, b := e.data.toNat, cmp := 0, mode := e.mode, draw := e.draw.toNat, daz := e.daz, ftz := e.ftz }
  let l := homeLoc e.mt e.pa
  let m := leValue ((List.range e.ty.size).map (s.homeByte l))
  if !s.lxFree l e.ty.size true then s else s.writeHomeBytes l 0 (leBytes e.ty.size (o.apply m))

/-- The code with which the application of a deferred atomic faults: uncorrectable data at its home (R207, R426), a host that has
failed, whose outcome is unknown (R419). -/
def State.entryFault (s : State) (e : DeferEntry) : Option FCode :=
  let l := homeLoc e.mt e.pa
  if (List.range e.ty.size).any (s.isBad l) then some .dataLost
  else match l with
    | .host pa => if s.hostDown.contains (hostPortOf pa) then some .outcomeUnknown else none
    | _ => none

/-- Deferred atomics applied in order; one that faults stops them, and the task faults with its code (R320). -/
def State.applyEntries (s : State) (tk : Nat) : List DeferEntry → State
  | [] => s
  | e :: l => match s.entryFault e with
    | some c =>
      let t := s.task tk
      (s.graphFault t.graph c.num t.id).putTask tk { t with fault := t.fault.or (some (BitVec.ofNat 8 c.num, 0)) }
    | none => State.applyEntries (s.applyEntry e) tk l

/-- The deferred atomics of a task applied when its grid's last team ends (R320). -/
def State.applyDeferred (s : State) (tk : Nat) : State :=
  let mine := sortEntries (s.deferred.filter fun e => e.task == tk)
  let s1 := { s with deferred := s.deferred.filter fun e => e.task != tk }
  if (s.task tk).det then s1.applyEntries tk mine else s1

/-- Has every group of a team ended with its counters at zero? -/
def Team.allEnded (t : Team) : Bool := (List.range t.groups).all fun i => t.ended.getLsbD i

/-- What an ended team leaves behind: its scratchpad allocation with the records armed in it, and its reservation (R278). -/
def State.releaseTeam (s : State) (k : Nat) : State :=
  let t := s.team k
  let s1 := if t.pair then s.mxRelease (t.core / 2) k else s
  let t1 := s1.team k
  let rs := s1.rings.filter fun r => r.cmd.team == k
  { (rs.foldl (fun st r => st.disown r.tile) s1).putTeam k { t1 with live := false } with
    armed := s1.armed.filter fun a => a.team != k, rings := s1.rings.filter fun r => r.cmd.team != k }

/-- A team ends (R308). -/
def State.endTeam (s : State) (k : Nat) : State :=
  let t := s.team k
  let s1 := (s.releaseTeam k).teamRecord 5 t
  let x := s1.task t.task
  let x1 := { x with placed := x.placed - 1 }
  let s2 := s1.putTask t.task x1
  let s3 := if x1.placed = 0 && (x1.nextLin.isNone || x1.fault != none) then s2.applyDeferred t.task else s2
  (s3.settle 12 k).graphCheck x.graph

/-- TEAM_END (R308). -/
def execTeamEnd (team : Nat) (s : State) : Host.Outcome State Fault Refusal :=
  .next (s.lxStep (2 ^ 21 + team) fun s => if (s.team team).live && (s.team team).allEnded then s.endTeam team else s)

/-! ### The retirement of a task (R308, R309) -/

/-- Payload of a fault record of the launcher for a decrement (R394). -/
def countPayload (code from_ to_ finfo : Nat) : BitVec 96 :=
  BitVec.ofNat 96 (code + 2 ^ 6 * 0x7F + 2 ^ 19 * (from_ % 2 ^ 24) + 2 ^ 43 * (to_ % 2 ^ 24) + 2 ^ 79 * (finfo % 2 ^ 17))

/-- What a decrement found. -/
inductive DecResult where
  | done
  | under
  | unread
deriving DecidableEq, Repr

/-- Would a decrement of the count at a TCB make a registered idle task ready? -/
def State.decReadies (s : State) (asid : BitVec 16) (va : DWord) : Bool :=
  let t := s.task (taskKey asid va)
  t.live && t.state == 0 && ((s.lxRead asid va 2) == some 1)

/-- A count decremented at the launcher (R308, R309, R325): the successor may become ready. -/
def State.decrement (s : State) (asid : BitVec 16) (va : DWord) : State × DecResult :=
  match s.lxRead asid va 2, s.lxLoc asid true va with
  | some n, some _ =>
    if n = 0 then (s, .under)
    else
      let k := taskKey asid va
      let s1 := s.lxWrite asid va 2 (n - 1)
      let t := s1.task k
      (if n = 1 && t.live && t.state == 0 then s1.makeReady k else s1, .done)
  | _, _ => (s, .unread)

/-- A decrement of task `t`'s retirement, with the records and marks of R308 and R309. -/
def State.decFor (s : State) (t : Task) (id : Nat) : State :=
  let va := s.baseOf t + BitVec.ofNat 64 (128 * id)
  let r := s.decrement t.asid va
  match r.2 with
  | .done => r.1
  | .under =>
    ((r.1.emit (r.1.agentOf t) 0x0A (some t.asid) (countPayload 0x0E t.id.toNat id 0)).graphFault t.graph 0x0E t.id).bump (ctrTask 4)
  | .unread => (r.1.emit (r.1.agentOf t) 0x0A (some t.asid) (countPayload 0x07 t.id.toNat id 0)).graphFault t.graph 0x07 t.id

/-- The decrements of a retirement from successor number `i` on; one that would make a task ready while the ready queue and
its overflow are full stops them (R307). The number reached. -/
def State.decAll (s : State) (t : Task) : List Nat → Nat → State × Nat
  | [], i => (s, i)
  | id :: l, i =>
    if s.readyRoom = 0 && s.decReadies t.asid (s.baseOf t + BitVec.ofNat 64 (128 * id)) then (s, i)
    else State.decAll (s.decFor t id) t l (i + 1)

/-- May the task retire: every team of its grid has retired, no fault is recorded, and it is not yet over? -/
def State.retireDue (s : State) (tk : Nat) : Bool :=
  let t := s.task tk
  t.live && t.state == 2 && t.fault == none && t.placed == 0 && t.nextLin.isNone && t.retired.length == t.teams

/-- Steps 1 and 2 of a retirement (R308): the record, STATUS, RTAG and DONE. -/
def State.retireHead (s : State) (tk : Nat) : State :=
  let t := { s.task tk with state := 3, retiring := true }
  let s1 := ((s.putTask tk t).taskRecord 3 t).bump (ctrTask 2)
  let s2 := (s1.putStatus t).lxWrite t.asid (t.va + 0x50) 8 (s1.tagOf (s.agentOf t)).toNat
  if t.done = 0 then s2 else s2.lxWrite t.asid t.done 8 t.status

/-- The decrements of a retirement, and its end when all are made. The SUCC list is the one that the check of R305 has read: DESIGN
CHOICE, log entry 110 (R308 does not say whether it is read again). -/
def State.retireTail (s : State) (tk : Nat) : State :=
  let t := s.task tk
  let r := s.decAll t (t.succ.drop t.succAt) t.succAt
  let t1 := { r.1.task tk with succAt := r.2 }
  if r.2 < t.succ.length then r.1.putTask tk t1 else (r.1.closeTask tk t1).announce t1

/-- The task whose retirement has begun and waits. -/
def State.retiringTask (s : State) : Option Nat := (s.tasks.find? fun p => p.2.retiring).map fun p => p.1

/-- What orders the retirements that are due (R308, log entry 86): the time, in issued instructions, at which the last team retired, the
graph base, the id. -/
def State.retireKey (s : State) (tk : Nat) : List Nat :=
  let t := s.task tk
  [t.endedAt, (s.baseOf t).toNat, t.id.toNat]

/-- Lexicographic order of number lists. -/
def lexLt : List Nat → List Nat → Bool
  | a :: l, b :: m => a < b || (a == b && lexLt l m)
  | [], _ :: _ => true
  | _, [] => false

/-- Is no other due retirement before that of a task? -/
def State.retiresFirst (s : State) (tk : Nat) : Bool :=
  s.tasks.all fun p => !s.retireDue p.1 || !lexLt (s.retireKey p.1) (s.retireKey tk)

/-- TASK_RETIRE (R308): retirements are applied one after another, those of one time in ascending id. -/
def execTaskRetire (task : Nat) (s : State) : Host.Outcome State Fault Refusal :=
  .next (s.lxStep (2 ^ 64 + task) fun s => match s.retiringTask with
    | some k => if k = task then s.retireTail task else s
    | none => if s.retireDue task && s.retiresFirst task then (s.retireHead task).retireTail task else s)

end Sys2Proof.Machine
end

