-- ==== Sys2Proof/Machine/Tasks.lean ====
section
/-! DEFINITION. Task, launch and region instructions (R322 to R331), and the events of the schedule and of checkpoints (R83,
R101, R315, R327). -/

namespace Sys2Proof.Machine

/-! ### rgn (R323) -/

/-- RGN (R315, R323): a checkpoint of the state after `rgn` has retired; inside a handler it retires as a `nop`. -/
def execRgn (f : VForm) (s : State) : Host.Outcome State Fault Refusal :=
  let g := s.g
  let rs := rgnRanges f
  s.finish (.rgn f) do
    require (g.rangesOk f) s.operand
    if !g.groupExec f.g || g.inHandler then .ok (.go s)
    else if g.pendCk.isSome then .ok (.wait s 20)
    else if s.slotOwned s.cur rs then s.waitOn 17
    else
      let t ← (s.setG { g with retired := if g.mode then g.retired else g.retired + 1 }).checkpoint s.cur (g.pc + 12) rs
      .ok (.go (t.setG { t.g with retired := g.retired }))

/-! ### launch and tcbd (R324, R325) -/

/-- The address of a TCB checked (R324). -/
def State.tcbLoc (s : State) (f : VForm) (ea : DWord) : Except Stop Loc :=
  if !canonical ea then .error (s.recStop f .aperture 0 0xE 7 ea)
  else if ea.toNat % 128 != 0 then .error (s.recStop f .align (s.winOf ea) 0xD 7 ea)
  else match (steer (s.ctxCore s.g.core s.g.asid) ea).1 with
    | .global => match s.resolveGlobal s.g.core s.g.asid { acc := 0, size := 128, write := true, user := !s.g.mode } ea with
      | .ok l => .ok l
      | .error (.model e) => .error (.fault e)
      | .error (.err e) => .error (.trap e.code e.faddr (.raw (e.finfo s.g.asid)) (s.g.execLanes f.g))
    | _ => .error (s.recStop f .protect (s.winOf ea) 6 7 ea)

/-- The address of a TCB shown to the antennae (R376). -/
def tcbObs (ea : DWord) : Obs := { addrs := [(none, ea.toNat)] }

/-- A TCB registered as a child of the issuing team (R312, R324). -/
def State.addChild (s : State) (ea : DWord) (tcb : Nat) : State :=
  let p := s.taskOf s.t
  let k := taskKey s.g.asid ea
  let s1 := s.register s.g.asid ea tcb (BitVec.ofNat 32 (field tcb 0x40 4)) p.graph s.g.team (p.depth + 1)
  let s2 := s1.putTeam s.g.team { s1.t with children := k :: s1.t.children.filter fun x => x != k }
  if bitsAt tcb 0 16 = 0 then s2.makeReady k else s2

/-- LAUNCH (R307, R312, R324). -/
def execLaunch (f : VForm) (s : State) : Host.Outcome State Fault Refusal :=
  let e := s.g.execLanes f.g
  s.finish (.launch f) do
    if !s.g.groupExec f.g then .ok (.go s)
    else
      let ea := s.s64 f.a
      let l ← s.tcbLoc f ea
      if s.isOwned l 128 true then s.waitOn 17
      else if s.readyRoom = 0 then .ok (.wait s 17)
      else
        s.recordLost f 128 ea l
        let v := s.homeValue l 128
        require (field v 0x44 1 == 0) (trapGen .operand 0x51 e)
        require ((s.taskOf s.t).depth < 10) (.trap .depth ea (.generic 0) e)
        .ok (.go ((s.noteVas s.g.core s.g.asid [ea]).addChild ea v) (tcbObs ea))

/-- What the launcher does when a `tcbd` finds the count at 0 (R309, R394): its record, its counter, the mark of the owning graph as
long as that graph runs, be the task itself over or not (R325). -/
def State.tcbdUnder (s : State) (ea : DWord) (id : Nat) : State :=
  let k := taskKey s.g.asid ea
  let s1 := s.emit (engLauncher (s.homeDie s.g.asid ea)) 0x0A (some s.g.asid)
    (countPayload 0x0E 0xFFFFFF id (s.g.core + 256 * s.g.index))
  (if (s.graph (s.task k).graph).live then s1.graphFault (s.task k).graph 0x0E 0xFFFFFFFF else s1).bump (ctrTask 4)

/-- The check, the wait and the decrement of `tcbd` (R307, R325). -/
def State.tcbdBody (s : State) (f : VForm) : Body := do
  if !s.g.groupExec f.g then .ok (.go s)
  else
    let ea := s.s64 f.a
    let l ← s.tcbLoc f ea
    if s.isOwned l 128 true then s.waitOn 17
    else if s.readyRoom = 0 then .ok (.wait s 17)
    else
      s.recordLost f 128 ea l
      require (field (s.homeValue l 128) 0 2 != 0) (.trap .countUnder ea (.generic 0) (s.g.execLanes f.g))
      .ok (.go ((s.noteVas s.g.core s.g.asid [ea]).decrement s.g.asid ea).1 (tcbObs ea))

/-- The state in which a `tcbd` ends: one that faults COUNT_UNDER has first reached the launcher. -/
def State.tcbdBase (s : State) (f : VForm) : State :=
  match s.tcbdBody f, s.tcbLoc f (s.s64 f.a) with
  | .error (.trap .countUnder ea _ _), .ok l => s.tcbdUnder ea (field (s.homeValue l 128) 0x40 4)
  | _, _ => s

/-- TCBD (R325). -/
def execTcbd (f : VForm) (s : State) : Host.Outcome State Fault Refusal := (s.tcbdBase f).finish (.tcbd f) (s.tcbdBody f)

/-! ### qpush (R326) -/

/-- The result of a push and the state it leaves. A ring slot that cannot be written stops the queue with ERR 3 (log entry
22). -/
def State.push64 (s : State) (q : Nat) (record : Nat) : State × Nat :=
  let x := s.queue q
  let a := x.recAddr x.tail
  if !x.en || x.err != 0 then (s, 2)
  else if (x.tail - x.head).toNat = 2 ^ x.log2n.toNat then (s, 0)
  else match s.lxLoc x.asid true a with
    | none => (s.stopQueue q 3 a, 2)
    | some _ =>
      let s1 := s.lxWrite x.asid a 64 record
      (s1.putQueue q { s1.queue q with tail := x.tail + 1 }, 1)

/-- What the copy of a pushed record into its slot waits for (R234, R271). -/
def State.pushWait (s : State) (q : Nat) : Option Nat :=
  let x := s.queue q
  if !x.en || x.err != 0 || (x.tail - x.head).toNat = 2 ^ x.log2n.toNat then none
  else match s.lxLoc x.asid true (x.recAddr x.tail) with
    | some l => s.locWait l 64 true
    | none => none

/-- QPUSH (R326). A record on a peer page is asked for as a load is; one that never comes is told to the reader of s[D] (R339, log entry
111). -/
def execQpush (f : VForm) (s : State) : Host.Outcome State Fault Refusal :=
  let e := s.g.execLanes f.g
  s.finish (.qpush f) do
    if !s.g.groupExec f.g then .ok (.go s)
    else
      let q := s.n32 f.a
      let ea := s.s64 f.b
      require (q < 2048) (trapGen .operand 0 e)
      let ls ← s.checkLanes s.g { acc := 0, size := 64, user := !s.g.mode } true (firstLane e) (some e) noExtra [(96, ea)]
      match ls with
      | [] => .ok (.go s)
      | l :: _ =>
        require (s.winOf ea < 2) (s.recStop f .protect (s.winOf ea) 6 6 ea)
        require ((s.queue q).asid == s.g.asid) (s.recStop f .protect (s.winOf ea) 6 6 ea)
        match (s.locWait l.loc 64 false).or (s.pushWait q) with
        | some r => s.waitOn r
        | none =>
          s.recordLost f 64 ea l.loc
          let r := (s.noteLanes ls).push64 q (s.readHome s.g l.loc 64)
          let v : TVal := ⟨BitVec.ofNat 64 r.2, 0⟩
          .ok (.go ((r.1.heldRead f.g 0 64 ls none (.scal f.d.scalNum v)).setS f.d.scalNum v) (tcbObs ea))

/-! ### poll (R327) -/

/-- The comparison of `poll`, unsigned. -/
def pollMet (fn : BitVec 4) (m b : Nat) : Bool :=
  match fn.toNat with
  | 0 => m == b | 1 => m != b | 2 => b ≤ m | _ => m < b

/-- The answer of `poll` and its back-off. -/
def State.pollAnswer (s : State) (f : MForm) (met : Bool) : State :=
  let e := s.g.execLanes f.g
  let s1 := match f.d with
    | .pred n => s.setG (s.g.setPred n.val e (if met then allLanes else 0))
    | d => s.setS d.scalNum ⟨if met then 1 else 0, 0⟩
  if met then (s1.setG { s1.g with pollTries := 0, pollStep := 0 }).acquireIf f.order f.scope true
  else
    let n := s1.g.pollTries + 1
    (s1.setG { s1.g with pollTries := n, pollStep := min n 7, waiting := .poll }).bump (ctrPoll s.g.core)

/-- DETERMINISM of a `poll` of global or stack-window memory (R320). -/
def State.pollDet (s : State) (f : MForm) (ls : List LaneLoc) : Option (Nat × Stop) :=
  if s.det then (ls.find? fun l => l.translated s s.g || match l.loc with | .stack .. => true | _ => false).map fun l =>
    (l.lane, .trap .determinism l.ea (.generic 0) (s.g.execLanes f.g))
  else none

/-- What a `poll` loses when its data is lost: its destination (R207, R339). -/
def pollDst (f : MForm) (met : Bool) : LoadDst :=
  match f.d with
  | .pred n => .pred n.val
  | d => .scal d.scalNum ⟨if met then 1 else 0, 0⟩

/-- POLL (R327). -/
def execPoll (f : MForm) (s : State) : Host.Outcome State Fault Refusal :=
  let n := f.ty.size
  s.finish (.poll f) do
    if !s.g.groupExec f.g then .ok (.go s)
    else
      let ls ← s.memCheck f { acc := 0, size := n, user := !s.g.mode } false (s.pollDet f)
      match ls with
      | [] => .ok (.go s)
      | l :: _ =>
        match s.locWait l.loc n false with
        | some r => s.waitOn r
        | none =>
          if s.requestsFull then .ok (.wait s 17)
          else
            let met := pollMet f.fn (s.readHome s.g l.loc n) ((s.rdSrc f.ty f.b 96).val.toNat % 2 ^ (8 * n))
            let t := (s.noteLanes ls).heldRead f.g 0 n ls (s.badAccess s.g 0 n ls) (pollDst f met)
            .ok (.go ((t.sawHome s.cur l.loc n).pollAnswer f met) { addrs := [(none, l.ea.toNat)] })

/-! ### dwait, cwait, clk (R328, R329) -/

/-- DWAIT (R328). -/
def execDwait (f : VForm) (s : State) : Host.Outcome State Fault Refusal :=
  s.finish (.dwait f) do
    if !s.g.groupExec f.g then .ok (.go s)
    else
      let j := s.n32 f.a
      let t := s.taskOf s.t
      require (j < s.t.lin && j < t.teams) (trapGen .operand 0 (s.g.execLanes f.g))
      if t.retired.contains j then .ok (.go (s.acquireL1 s.cur .device)) else .ok (.wait s 25)

/-- CWAIT (R328): a child that has faulted is neither registered nor retired. -/
def execCwait (f : VForm) (s : State) : Host.Outcome State Fault Refusal :=
  s.finish (.cwait f) do
    if !s.g.groupExec f.g then .ok (.go s)
    else match f.a with
      | .scal n =>
        let k := taskKey s.g.asid (s.g.sval n.val)
        let c := s.task k
        require (s.t.children.contains k && (c.live || c.state == 3)) (trapGen .operand 0 (s.g.execLanes f.g))
        if c.live then .ok (.wait s 25) else .ok (.go (s.acquireL1 s.cur .device) (tcbObs (s.g.sval n.val)))
      | _ => if s.childrenOver s.t then .ok (.go (s.acquireL1 s.cur .device)) else .ok (.wait s 25)

/-- CLK (R329): RETIRED as it stands before `clk` retires. -/
def execClk (f : VForm) (s : State) : Host.Outcome State Fault Refusal :=
  s.finish (.clk f) (.ok (.go (if s.g.groupExec f.g then s.setS f.d.scalNum ⟨s.g.retired, 0⟩ else s)))

/-! ### Events of the schedule and of checkpoints -/

/-- A group that waits for a count of cycles goes on. -/
def State.expire (s : State) (k : Nat) (w : Waiting) : State :=
  let g := s.group k
  if g.waiting == w then s.putGroup k { g with waiting := .no, stall := 0 } else s

/-- SLEEP_EXPIRY (R101). -/
def execSleepExpiry (k : Nat) (s : State) : Host.Outcome State Fault Refusal := .next ((s.expire k (.sleep false)).expire k (.sleep true))

/-- POLL_BACKOFF_EXPIRY (R327). -/
def execPollBackoffExpiry (k : Nat) (s : State) : Host.Outcome State Fault Refusal := .next (s.expire k .poll)

/-- CHECKPOINT_COMPLETE (R315): the slot being written becomes current. -/
def execCheckpointComplete (k : Nat) (s : State) : Host.Outcome State Fault Refusal :=
  let g := s.group k
  .next (if g.pendCk.isSome then s.putGroup k { g with pendCk := none } else s)

end Sys2Proof.Machine
end

