-- ==== Sys2Proof/Machine/Switch.lean ====
section
/-! DEFINITION. Pre-emption, restart, context switch and the loss of a core (R10 to R12, R49, R50, R310, R316 to R319, R368,
R384). -/

namespace Sys2Proof.Machine

/-! ### Pre-emption (R317) -/

/-- The group at key k is pre-empted: an arrival at the team barrier is withdrawn (R108), other waits are discarded (R236,
R319), and it waits for its counters (R316). -/
def State.preemptNow (s : State) (k : Nat) : State :=
  let g := s.group k
  let t := s.team g.team
  let s1 := if g.waiting == .barrier then
      s.putTeam g.team { t with bar := { t.bar with
        arrived := t.bar.arrived &&& ~~~((1 : BitVec 64) <<< g.index), waits := t.bar.waits.filter fun w => w.1 != g.index } }
    else s
  (s1.unwait k).putGroup k { g with waiting := .preempted, stall := 23, preempt := true, barDone := none }

/-- The resident groups that a switch of a context on a core takes: those of its teams that occupy the core. A pair team goes
whole (log entry 23). -/
def State.switchKeys (s : State) (core : Nat) (asid : BitVec 16) : List Nat :=
  (s.groups.filter fun p => p.2.resident && p.2.asid == asid && (s.team p.2.team).coreList.contains core).map fun p => p.1

/-- A group that is to be pre-empted is, unless that is deferred. -/
def State.askPreempt (s : State) (k : Nat) : State :=
  let g := s.group k
  if g.ended || g.waiting == .preempted then s
  else if g.deferring then s.putGroup k { g with preempt := true }
  else s.preemptNow k

/-- The switch that takes the group at key k is marked LATE (R317): of a pair team's group, the one in progress on either core. -/
def State.markLate (s : State) (k : Nat) : State :=
  let g := s.group k
  { s with switches := s.switches.map fun x =>
      if x.outgoing == g.asid && (s.team g.team).coreList.contains x.core then { x with late := true } else x }

/-- A deferred pre-emption is forced. -/
def State.forcePreempt (s : State) (k : Nat) : State :=
  let g := s.group k
  ((s.putGroup k { g with deferred := false, late := true }).preemptNow k).markLate k

/-- PREEMPTION_LATE (R317): a pre-emption deferred after a non-idempotent instruction takes place all the same. -/
def execPreemptionLate (k : Nat) (s : State) : Host.Outcome State Fault Refusal :=
  let g := s.group k
  .next (if g.resident && g.preempt && g.deferred && !g.mode && g.pendCk.isNone && g.atBoundary && !g.chrysalis
    && g.waiting != .preempted then s.forcePreempt k else s)

/-- HANDLER_DEFERRAL_EXPIRY (R368): a group in supervisor mode is pre-empted all the same; its trap state is discarded at the
restart. -/
def execHandlerDeferralExpiry (k : Nat) (s : State) : Host.Outcome State Fault Refusal :=
  let g := s.group k
  .next (if g.resident && g.preempt && g.mode && g.pendCk.isNone && g.atBoundary && !g.chrysalis
    && g.waiting != .preempted then s.forcePreempt k else s)

/-! ### Restart (R316) -/

/-- The words of a named vector register put back from its image, except those of the accumulator window (R316). -/
def Group.loadReg (m : Memory) (at_ n : Nat) (g : Group) : Group :=
  { g with regs := (List.range 96).foldl (fun r i =>
      let b := g.vByte n i
      if g.inWindow b then r else Store.set TWord.zero r (b / 4) (TWord.ofImage (m.bytes (at_ + 8 * i) 8))) g.regs }

/-- The ranges of a slot (R314). -/
def slotRanges (m : Memory) (base : Nat) : List (Nat × Nat) :=
  [0x54, 0x58, 0x5C].map fun o => (m.read (base + o) 1, m.read (base + o + 1) 1)

/-- A group restored from a checkpoint slot (R49, R314, R316): what a slot does not hold is as at launch, but for DBG,
TRAPBASE, the stack record and the place. -/
def Group.fromSlot (m : Memory) (base : Nat) (g : Group) : Group :=
  let depth := m.read (base + 0x50) 2
  let held := min (m.read (base + 0x52) 2) 16
  let mask : Lanes := BitVec.ofNat 96 (m.read (base + 0x38) 12)
  let ex : Lanes := BitVec.ofNat 96 (m.read (base + 0x44) 12)
  let q (o : Nat) : DWord := BitVec.ofNat 64 (m.read (base + o) 8)
  let g0 : Group :=
    { g with
      regs := [], pc := q 0, retired := q 0x10, dix := q 0x18, viewV := q 0x20, viewT := q 0x28, viewA := q 0x30
      exited := ex, held := 0, full := mask &&& ~~~ex, mask := mask &&& ~~~ex
      mode := m.read (base + 0x60) 1 % 2 == 1
      scal := (List.range 61).foldl (fun r n => if n = 0 then r else
        Store.set TVal.zero r n (TVal.ofImage (m.bytes (base + 0x80 + 16 * n) 16))) []
      preds := (List.range 32).foldl (fun r n => if n = 0 then r else
        Store.set 0 r n (BitVec.ofNat 96 (m.read (base + 0x480 + 12 * n) 12))) []
      fpc := (List.range 96).foldl (fun r i => Store.set 0 r i (BitVec.ofNat 32 (m.read (base + 0x600 + 4 * i) 4))) []
      stack := ((List.range held).map fun i => JoinEntry.ofImage (m.bytes (base + 0x780 + 48 * i) 48)).reverse
      spilled := depth - held, ranges := slotRanges m base }
  (rangeRegs (slotRanges m base)).zipIdx.foldl (fun h p => h.loadReg m (base + 0xA80 + 768 * p.2) p.1) g0

/-- A group whose slots were never written restarts at ENTRY in its launch state (R316). -/
def State.relaunched (s : State) (g : Group) : Group :=
  let t := s.taskOf (s.team g.team)
  { g with
    regs := [], pc := t.entry, retired := 0, dix := 0, viewV := t.kd.viewV, viewT := t.kd.viewT, viewA := t.kd.viewA
    exited := 0, held := 0, full := allLanes, mask := allLanes, mode := t.kd.super || t.kd.strload
    scal := Store.set TVal.zero (Store.set TVal.zero [] 2 ⟨t.id.setWidth 64, 0⟩) 1 ⟨t.param, 0⟩
    preds := [], fpc := [], stack := [], spilled := 0, ranges := [], trapBase := t.kd.trapb }

/-- What a restart discards besides: the trap state, poll state, deferrals and losses (R316, R319, R368). -/
def Group.cleared (g : Group) : Group :=
  { g with
    cause := 0, epc := 0, ema := 0, emb := 0, emc := 0, faddr := 0, finfo := 0, inHandler := false, pollStep := 0
    pollTries := 0, passed := 0, waiting := .no, stall := 0, preempt := false, deferred := false, late := false
    chrysalis := false, chCause := 0, chAnt := 0, chStall := 0, restWait := false, pendCk := none, barDone := none, cluBar := false, lost := [], ownWait := false }

/-- DATA_LOST of a byte of a checkpoint part, which a restart reads as `rgn` writes it: ACC 6 (R205, R426, log entry 80). -/
def Group.slotErr (byte : Nat) : AccErr := ⟨.dataLost, 7, 2, 0xC, BitVec.ofNat 64 byte, 6, 7⟩

/-- The first uncorrectable byte of `n` bytes of a slot. -/
def State.slotBad (s : State) (base off n : Nat) : Option Nat := ((List.range n).find? (s.isBad (.hbm (base + off)))).map fun k => base + off + k

/-- Where a slot holds the registers that a restart loads from it (R314): the register, its offset and its size. -/
def Group.slotParts (g : Group) : List (RegName × Nat × Nat) :=
  ((List.range 61).drop 1).map (fun n => (.scal n, 0x80 + 16 * n, 16))
    ++ ((List.range 32).drop 1).map (fun n => (.pred n, 0x480 + 12 * n, 12))
    ++ (List.range g.stack.length).map (fun i => (.join, 0x780 + 48 * i, 48))
    ++ (rangeRegs g.ranges).zipIdx.flatMap fun p => ((List.range 96).filter fun i => !g.inWindow (g.vByte p.1 i)).map fun i =>
      (.word (g.place (g.vByte p.1 i)), 0xA80 + 768 * p.2 + 8 * i, 8)

/-- A group loaded from a slot with uncorrectable bytes: the registers that they hold are lost (R207, R426); where they hold what every
instruction reads, the rest of the slot's head and FPC, the next one takes the fault (log entry 80). -/
def State.slotLosses (s : State) (base : Nat) (g : Group) : Group :=
  if s.poison == [] then g
  else
    let lost := g.slotParts.filterMap fun p => (s.slotBad base p.2.1 p.2.2).map fun b =>
      let e := Group.slotErr b
      (⟨p.1, e.code, e.faddr, e.finfo g.asid⟩ : Loss)
    let traps := (((s.slotBad base 0 0x68).or (s.slotBad base 0x600 384)).map fun b =>
      let e := Group.slotErr b
      (⟨e.code, e.faddr, e.finfo g.asid, g.mask, false, false⟩ : TrapInfo)).toList
    { g with lost := lost, asyncTraps := g.asyncTraps ++ traps }

/-- The group restored from its current slot (R314, R316). -/
def State.restored (s : State) (g : Group) : Group :=
  let base := g.slotBase (s.currentSlot g)
  if s.slotSeq g 0 = 0 && s.slotSeq g 1 = 0 then (s.relaunched g).cleared else s.slotLosses base (g.fromSlot s.hbm base).cleared

/-- Is nothing of the group in flight but rings between two tiles, which keep their counts of COPY over a switch (R258, R274, R318, log
entry 23)? -/
def State.idle (s : State) (k : Nat) : Bool :=
  let g := s.group k
  let rs := s.rings.filter fun r => r.cmd.grp == k
  g.inflight == ⟨0, 0, rs.length + g.copyLate.length, 0, 0, 0⟩ && (rs != [] || g.copyLate == []) && rs.all (fun r => r.cmd.stopped.isNone && r.tile == 0)
    && g.loads == [] && g.acks == [] && !s.quarterHeld k

/-- Does the group wait to restart with every counter at 0, those that its rings hold among them (R261, R296, R316)? -/
def State.restartDue (s : State) (k : Nat) : Bool :=
  let g := s.group k
  g.resident && !g.ended && g.waiting == .preempted && !g.preempt && g.quiet && s.idle k

/-- Does the slot that the group at key k loads lie in a line that an engine owns (R234)? -/
def State.slotHeld (s : State) (k : Nat) : Bool :=
  let g := s.group k
  let base := g.slotBase (s.currentSlot g)
  s.isOwned (.hbm base) (ckBytes (slotRanges s.hbm base)) false

/-- The group at key k restarts; deferred atomics made after its checkpoint are discarded (R319). -/
def State.restart (s : State) (k : Nat) : State :=
  let g := s.group k
  let h := s.restored g
  let t := s.team g.team
  let s1 := { s with deferred := s.deferred.filter fun e =>
    !(e.task == t.task && e.lin == t.lin && e.group == g.index && g.ckAt ≤ e.serial) }
  (s1.putGroup k h).bump (ctrTask 8)

/-- GROUP_RESTART (R316): once nothing is in flight the group loads its current slot, with stall reason 20; then it restarts. -/
def execGroupRestart (k : Nat) (s : State) : Host.Outcome State Fault Refusal :=
  .next (if (s.group k).waiting == .restore then (if s.slotHeld k then s.noteWait (k / 4096) 3 k else s.restart k)
    else if s.restartDue k then s.putGroup k { s.group k with waiting := .restore, stall := 20 }
    else s)

/-! ### Context switch (R318) -/

/-- The switch in progress on a core. -/
def State.switchOf (s : State) (core : Nat) : Option Switch := s.switches.find? fun x => x.core == core

/-- Do two lists share an element? -/
def meetLists (a b : List Nat) : Bool := a.any fun x => b.contains x

/-- The live teams of a context that occupy a core. -/
def State.switchTeams (s : State) (core : Nat) (asid : BitVec 16) : List Nat :=
  (s.teams.filter fun p => p.2.live && p.2.asid == asid && p.2.coreList.contains core
    && !(s.saved.any fun x => x.teams.contains p.1)).map fun p => p.1

/-- Step 3 is done (R318): every group of the context is pre-empted, or has ended, with nothing in flight, and its teams' engines are
idle. -/
def State.drained (s : State) (core : Nat) (asid : BitVec 16) : Bool :=
  let ts := s.switchTeams core asid
  (s.switchKeys core asid).all (fun k => ((s.group k).ended || (s.group k).waiting == .preempted) && s.idle k)
    && !(s.copies.any fun c => ts.contains c.team) && !(s.mx.any fun p => p.2.ops.any fun o => ts.contains o.team)

/-- The scratchpad words of a team: keys by core. -/
def Team.ownsWord (t : Team) (key : Nat) : Bool :=
  t.coreList.contains (key / 131072) && t.base ≤ key % 131072 * 4 && key % 131072 * 4 < t.base + scratchUnits t.scratch

/-- The state of a context on a core saved and taken off it (R50, R318 step 4). -/
def State.saveCtx (s : State) (core : Nat) (asid : BitVec 16) : State :=
  let ts := s.switchTeams core asid
  let ks := s.switchKeys core asid
  let pair := core / 2
  let held := match (s.mxPair pair).holder with | some tk => ts.contains tk | none => false
  let isOwn (k : Nat) : Bool := ts.any fun t => (s.team t).ownsWord k
  let rs := s.rings.filter fun r => ts.contains r.cmd.team
  let isBad (c : BadCell) : Bool := match c with | .scratch k => isOwn k | .accum k => held && k / 131072 == pair | _ => false
  let x : SavedCtx :=
    { bad := s.poison.filter isBad, core := core, asid := asid, groups := s.groups.filter fun p => ks.contains p.1, teams := ts
      scratch := s.scratch.filter fun p => isOwn p.1
      armed := s.armed.filter fun a => ts.contains a.team, rings := rs
      mx := if held then some (pair, s.mxPair pair) else none
      accum := if held then s.accum.filter fun p => p.1 / 131072 == pair else [] }
  let s1 := if held then (s.putMx pair { MxPair.empty with reset := (s.mxPair pair).reset }).zeroAccum pair else s
  ({ s1 with
    poison := s1.poison.filter fun c => !isBad c
    groups := s1.groups.filter fun p => !ks.contains p.1, scratch := s1.scratch.filter fun p => !isOwn p.1
    armed := s1.armed.filter fun a => !ts.contains a.team, rings := s1.rings.filter fun r => !ts.contains r.cmd.team
    saved := x :: s1.saved }).l1InvalidateCtx core asid

/-- Is there room on the core for what was saved there: its slots, register SRAM, scratchpad ranges and its pair's engine,
the outgoing context's share left out? -/
def State.roomFor (s : State) (x : SavedCtx) : Bool :=
  x.groups.all (fun p => !(s.group p.1).resident)
    && x.groups.all (fun p => s.sramUsed p.2.core p.2.quad
        + (x.groups.filter fun q => q.2.core == p.2.core && q.2.quad == p.2.quad).foldl (fun n q => n + q.2.size) 0 ≤ quadSram)
    && x.teams.all (fun tk =>
        let t := s.team tk
        t.coreList.all fun c => (s.allocs c).all fun a => !meets a.1 a.2 t.base (t.base + scratchUnits t.scratch))
    && match x.mx with
      | some m => (s.mxPair m.1).holder == none && !(s.mxPair m.1).reset
      | none => true

/-- A saved store put back. -/
def putBack {α : Type} (d : Sparse α) (l : Sparse α) : Sparse α := l.foldl (fun m p => Store.put p.1 p.2 m) d

/-- A group that returns, its age that of its first placement (log entry 104): it restarts once nothing holds it (R316); one that has ended
only waits for its slot to be freed. -/
def State.returnGroup (s : State) (k : Nat) (g : Group) : State :=
  s.putGroup k (if g.ended then g else { g with
    preempt := false, waiting := .preempted
    active := decide (((s.quadGroups g.core g.quad).filter fun p => p.2.active).length < Config.activeMax) })

/-- Is a word of scratchpad, or of a pair's accumulators, one that the saved context gets back? -/
def State.ownsScratch (s : State) (x : SavedCtx) (key : Nat) : Bool := x.teams.any fun t => (s.team t).ownsWord key
/-- Do the accumulators of a word's pair come back with the saved context? -/
def SavedCtx.ownsAccum (x : SavedCtx) (key : Nat) : Bool := match x.mx with | some m => key / 131072 == m.1 | none => false

/-- The saved state of a context loaded on its core, words that were zero among it (R318 step 5). -/
def State.loadCtx (s : State) (x : SavedCtx) : State :=
  let own (c : BadCell) : Bool := match c with | .scratch k => s.ownsScratch x k | .accum k => x.ownsAccum k | _ => false
  let s1 := { s with
    saved := s.saved.filter fun y => !(y.core == x.core && y.asid == x.asid)
    scratch := putBack (s.scratch.filter fun p => !s.ownsScratch x p.1) x.scratch, armed := x.armed ++ s.armed, rings := s.rings ++ x.rings
    poison := x.bad ++ s.poison.filter fun c => !own c
    accum := putBack (s.accum.filter fun p => !x.ownsAccum p.1) x.accum }
  let s2 := match x.mx with | some m => s1.putMx m.1 m.2 | none => s1
  x.rings.foldl (fun st r => st.ringBegin r) (x.groups.foldl (fun st p => st.returnGroup p.1 p.2) s2)

/-- The saved entry of a context on a core. -/
def State.savedOf (s : State) (core : Nat) (asid : BitVec 16) : Option SavedCtx :=
  s.saved.find? fun x => x.core == core && x.asid == asid

/-- Payload of a context-switch record (R386). -/
def switchPayload (x : Switch) : BitVec 96 :=
  BitVec.ofNat 96 (x.outgoing.toNat + 2 ^ 16 * x.incoming.toNat + 2 ^ 32 * x.cycles.toNat + 2 ^ 64 * anyNat x.late)

/-- Steps 4 and 5 of a switch whose engines have drained (R318). -/
def State.finishSwitch (s : State) (x : Switch) : State :=
  let s1 := s.saveCtx x.core x.outgoing
  let fits := match s1.savedOf x.core x.incoming with | some y => s1.roomFor y | none => true
  if !fits then s
  else
    let s2 := match s1.savedOf x.core x.incoming with | some y => s1.loadCtx y | none => s1
    let s3 := { s2 with switches := s2.switches.filter fun y => y.core != x.core }
    ((s3.emit (engSched x.core 0) 0x10 none (switchPayload x)).bump (ctrTask 9)).bump (ctrTask 10) x.cycles.toNat

/-- A switch goes on as far as it can: groups whose pre-emption is no longer deferred are taken, and when everything has
drained the contexts change. -/
def State.advanceSwitch (s : State) (core : Nat) : State :=
  match s.switchOf core with
  | none => s
  | some x =>
    let s1 := (s.switchKeys core x.outgoing).foldl (fun st k => st.askPreempt k) s
    match s1.switchOf core with
    | some y => if s1.drained core y.outgoing then s1.finishSwitch y else s1
    | none => s1

/-- A switch begun on a core on which none is in progress. -/
def State.beginSwitch (s : State) (core : Nat) (outgoing incoming : BitVec 16) (cycles : Word) : State :=
  if (s.switchOf core).isSome then s
  else { s with switches := ⟨core, outgoing, incoming, cycles, false⟩ :: s.switches }

/-- QUANTUM_EXPIRY (R318): a switch begins, or one in progress goes on (log entry 23). -/
def execQuantumExpiry (core : Nat) (outgoing incoming : BitVec 16) (cycles : Word) (s : State) : Host.Outcome State Fault Refusal :=
  .next (if core < Config.cores then (s.beginSwitch core outgoing incoming cycles).advanceSwitch core else s)

/-- FORCED_CHRYSALIS_SWITCH (R384): the context's groups in chrysalis on the core leave it and are pre-empted, and the switch
goes on. -/
def execForcedChrysalisSwitch (core : Nat) (asid incoming : BitVec 16) (cycles : Word) (s : State) :
    Host.Outcome State Fault Refusal :=
  let s0 := s.beginSwitch core asid incoming cycles
  let ks := (s0.switchKeys core asid).filter fun k => (s0.group k).chrysalis && !(s0.group k).ended
  let s1 := ks.foldl (fun st k =>
    let t := st.leaveChrysalis k
    (t.putGroup k { t.group k with held := 0, deferred := false }).preemptNow k) s0
  .next (if core < Config.cores then s1.advanceSwitch core else s)

/-! ### CORE_LOST (R11, R12, R310) -/

/-- Spares of a die that have been mapped in. -/
def State.sparesUsed (s : State) (die : Nat) : Nat := (s.spares.filter fun c => c / 64 == die).length

/-- A spare of the same die takes the logical number, or the core is marked absent (R11, R12). Which of the free spares it is the
spec leaves open; here the lowest physical number from 64 on, in the order of the failures (log entry 24, DESIGN CHOICE). -/
def State.remap (s : State) (core : Nat) : State :=
  let n := s.sparesUsed (core / 64)
  if n < 4 then { s with spares := core :: s.spares, phys := Store.put core (65 + n) s.phys }
  else { s with absent := core :: s.absent }

/-- The fault record of a lost core, with its logical number in EPC [7:0] and its physical number in EPC [15:8] (R11, R427;
log entry 24). -/
def State.coreRecord (s : State) (core : Nat) : State :=
  s.emit engMgmt 0x0A none
    (faultPayload FCode.coreLost.num 0 0 (BitVec.ofNat 64 (core + 256 * s.physical core)) 0 false true false)

/-- What a failed core held is gone: caches, scratchpad, its antennae. -/
def State.clearCore (s : State) (core : Nat) : State :=
  { s with
    l1 := s.l1.filter fun p => p.1 / 1024 != core, icache := s.icache.filter fun p => p.1 != core
    poison := s.poison.filter fun c => match c with | .scratch k => k / 131072 != core | .l1 n _ _ => n != core | _ => true
    l1tlb := s.l1tlb.filter fun e => e.unit != core
    scratch := s.scratch.filter fun p => p.1 / 131072 != core, ants := s.ants.filter fun p => p.1 / 16 != core }

/-- Does a team have a group on a core? -/
def Team.hasGroupOn (t : Team) (core : Nat) : Bool :=
  (teamPlaces t.groups t.pair).any fun p => (if p.1 then t.core + 1 else t.core) == core

/-- The slots of a team's groups are freed at once, and what its engines still had to do for them is dropped. -/
def State.killTeam (s : State) (k : Nat) : State :=
  let ks := (s.teamGroups k).map fun p => p.1
  let ids := (s.copies.filter fun c => c.team == k).map (fun c => c.id)
    ++ (s.rings.filter fun r => r.cmd.team == k).map (fun r => r.tile) ++ s.mx.flatMap fun p => (p.2.ops.filter fun o => o.team == k).map fun o => o.id
  { s with
    groups := s.groups.map fun p => (p.1, if ks.contains p.1 then { p.2 with
      resident := false, ended := true, active := false, regs := [], loads := [], acks := [], inflight := ⟨0, 0, 0, 0, 0, 0⟩ } else p.2)
    copies := s.copies.filter fun c => c.team != k
    mx := s.mx.map fun p => (p.1, { p.2 with ops := p.2.ops.filter fun o => o.team != k })
    owned := s.owned.filter fun o => !ids.contains o.cmd
    tlbis := s.tlbis.filter fun c => !ks.contains c.grp, ggens := s.ggens.filter fun c => !ks.contains c.grp }

/-- The task of a lost team (R310): with RESTART the team is to be placed again, ahead of the tasks of its level; else the task
faults with CORE_LOST. -/
def State.taskOfLost (s : State) (k : Nat) : State :=
  let tm := s.team k
  let tk := tm.task
  let t := { s.task tk with placed := (s.task tk).placed - 1 }
  if t.fault != none || !t.live then (s.putTask tk t).settle 12 k
  else if t.restart then
    { s.putTask tk { t with again := t.again ++ [tm.lin] } with
      ready := if s.ready.any fun e => e.2 == tk then s.ready else (t.prio, tk) :: s.ready
      deferred := s.deferred.filter fun e => !(e.task == tk && e.lin == tm.lin) }
  else
    let t1 := { t with state := 4, fault := some (BitVec.ofNat 8 FCode.coreLost.num, 0) }
    (((s.closeTask tk t1).putStatus t1).graphFault t.graph FCode.coreLost.num t.id).announce t1

/-- A team ends with its core (R310). -/
def State.loseTeam (s : State) (k : Nat) : State :=
  let s1 := (((s.killTeam k).releaseTeam k).teamRecord 5 (s.team k))
  (s1.putTeam k { s1.team k with done := true }).taskOfLost k

/-- CORE_LOST (R11, R310). -/
def execCoreLost (core : Nat) (s : State) : Host.Outcome State Fault Refusal :=
  .next (if !s.present core then s
    else
      let ts := (s.teams.filter fun p => p.2.live && p.2.hasGroupOn core
        && !(s.saved.any fun x => x.teams.contains p.1)).map fun p => p.1
      let s1 := (((s.remap core).coreRecord core).clearCore core).deviceIrq
      ts.foldl (fun st k => st.loseTeam k) s1)

end Sys2Proof.Machine
end

