-- ==== Sys2Proof/Machine/Collective.lean ====
section
/-! DEFINITION. Communicators, templates, collectives and awaited-party records: the instructions of chapter 14 (R343 to R358)
and what they share with the Skippers' steps. -/

namespace Sys2Proof.Machine

/-! ### Communicators, templates, collectives -/

/-- A communicator record (R343). -/
def State.comm (s : State) (c : Nat) : Comm := Store.get Comm.empty s.comms c
/-- A communicator record replaced. -/
def State.putComm (s : State) (c : Nat) (x : Comm) : State := { s with comms := Store.put c x s.comms }
/-- A template slot (R356). -/
def State.tpl (s : State) (n : Nat) : Template := Store.get Template.empty s.tpls n
/-- The collective of a sequence, where one is recorded. -/
def State.coll (s : State) (comm : Nat) (seq : Word) : Option Coll := s.colls.find? fun c => c.comm == comm && c.seq == seq
/-- A collective replaced. -/
def State.putColl (s : State) (c : Coll) : State :=
  { s with colls := s.colls.map fun x => if x.comm == c.comm && x.seq == c.seq then c else x }

/-- FINFO of R340 for a collective. -/
def collFinfo (comm : Nat) (seq : Word) (rank : Nat) : DWord :=
  BitVec.ofNat 64 (7 + 8 + 2 ^ 4 * (comm % 4096) + 2 ^ 16 * seq.toNat + 2 ^ 48 * (rank % 65536))

/-- The element type of a TY code that R347 lists. -/
def collTy (n : Nat) : Option Ty :=
  match n with
  | 0 => some .i32 | 1 => some .n32 | 2 => some .i64 | 3 => some .n64
  | 8 => some .f32 | 9 => some .f64 | 0xA => some .f16 | 0xB => some .bf16 | _ => none

/-- Does R347 list the pair of TY and OP? -/
def collOpOk (ty op : Nat) : Bool := (collTy ty).isSome && (if ty < 4 then op ≤ 5 else op ≤ 2)

/-- dst OP src for one element (R347). -/
def combineElem (ty op old src : Nat) : Nat :=
  AtomOp.apply { fn := if ty < 4 then op else 9 + op, ty := (collTy ty).getD .i32, b := src, cmp := 0, mode := 0, draw := 0
                 daz := false, ftz := false } old

/-- Bytes of an element. -/
def Coll.esize (c : Coll) : Nat := ((collTy c.ty).getD .i32).size
/-- The signature (R349). -/
def Coll.sig (c : Coll) : Sig := ⟨c.tplid, BitVec.ofNat 32 c.count, BitVec.ofNat 4 c.ty, BitVec.ofNat 3 c.op⟩
/-- A node of the template. -/
def Coll.node (c : Coll) (i : Nat) : TplNode := c.nodes.getD i ⟨2, 0, 0, false, 0, 0, 0, 0, []⟩
/-- The progress of a node. -/
def Coll.state (c : Coll) (i : Nat) : NodeSt := c.st.getD i NodeSt.start
/-- The peer rank of a node (R344). -/
def Coll.peer (c : Coll) (n : TplNode) : Nat := (c.myrank + n.peer) % c.nrank
/-- The rank that a step awaits: its peer, or of a COPY this member. -/
def Coll.awaited (c : Coll) (i : Nat) : Nat := if (c.node i).kind = 2 then c.myrank else c.peer (c.node i)
/-- First element and length of the chunk of a node (R344, R345). -/
def Coll.chunk (c : Coll) (n : TplNode) : Nat × Nat :=
  let k := (((n.cadd : Int) + n.cmul.toInt * c.myrank) % c.nchunk).toNat
  let lo := k * c.count / c.nchunk
  (lo, (k + 1) * c.count / c.nchunk - lo)

/-- Node ids of a kind whose peer is a rank, ascending (R346). -/
def Coll.matching (c : Coll) (kind rank : Nat) : List Nat :=
  (List.range c.nodes.length).filter fun i => (c.node i).kind == kind && c.peer (c.node i) == rank
/-- The RECV that matches the k-th SEND of a rank (R346). -/
def Coll.recvOf (c : Coll) (rank k : Nat) : Option Nat := (c.matching 1 rank)[k]?
/-- k of a SEND or RECV node (R346). -/
def Coll.ordinal (c : Coll) (i : Nat) : Nat :=
  ((c.matching (c.node i).kind (c.peer (c.node i))).takeWhile fun j => j != i).length

/-- The device of a rank (R343). -/
def Coll.devOf (c : Coll) (rank : Nat) : BitVec 16 := c.rmap.getD rank 0

/-- Is a node ready and not complete? -/
def NodeSt.pending (n : NodeSt) : Bool := n.ready && !n.done
/-- The pending steps (R357, R358): the gate as 65,535, then nodes in order. -/
def Coll.pending (c : Coll) : List Nat :=
  if c.status != 0 then []
  else if !c.running then (if c.gate.isSome then [65535] else [])
  else (List.range c.nodes.length).filter fun i => (c.state i).pending

/-- The Skipper of a node (R351). -/
def State.nodePort (s : State) (c : Coll) (i : Nat) : Nat :=
  if (c.node i).kind = 2 then s.lowPort else s.skipPort (c.devOf (c.peer (c.node i)))

/-! ### Memory of the Skippers (R350) -/

/-- Why a Skipper does not go on: a line that another command owns or a bank in its refresh window; a fault; a host that has failed
(R419); a stop of the model. -/
inductive CollErr where
  | wait (owned : Bool)
  | bad (t : TrapInfo)
  | unknown
  | model (f : Fault)
deriving DecidableEq, Repr

/-- A fault that a Skipper meets. -/
def collBad (asid : BitVec 16) (e : AccErr) : CollErr := .bad ⟨e.code, e.faddr, e.finfo asid, 0, true, false⟩

/-- `n` bytes at an address that a Skipper accesses for a collective. -/
def State.collLoc (s : State) (c : Coll) (write : Bool) (n : Nat) (va : DWord) : Except CollErr Loc :=
  let a : Access := { acc := if write then 1 else 0, size := n, write := write, user := c.user }
  if !canonical va then .error (collBad c.asid ⟨.aperture, 7, 0, 0xE, va, a.acc, log2Size n⟩)
  else match s.resolveGlobal c.core c.asid a va with
    | .error (.model f) => .error (.model f)
    | .error (.err e) => .error (collBad c.asid e)
    | .ok l =>
      if s.inRefresh l then .error (.wait false)
      else if s.ownedBefore c.cmd l n write then .error (.wait true)
      else if write && (s.deadHost [⟨0, va, l⟩]).isSome then .error .unknown
      else match if write && l != .lost then none else s.badByte n [⟨0, va, l⟩] with
        | some b => .error (collBad c.asid (s.lossErr c.core c.asid a.acc n b.2))
        | none => .ok l

/-- Address of element e of a buffer: 0 IN, 1 OUT, 2 SCR. -/
def Coll.addr (c : Coll) (b e : Nat) : DWord := c.bufs.getD b 0 + BitVec.ofNat 64 (e * c.esize)

/-- An element read. -/
def State.collGet (s : State) (c : Coll) (b e : Nat) : Except CollErr Nat := do
  let l ← s.collLoc c false c.esize (c.addr b e)
  .ok (s.homeValue l c.esize)

/-- Do two of the buffers overlap without being the same (R350)? -/
def Coll.overlaps (c : Coll) : Bool :=
  let n := c.count * c.esize
  let meet (i j : Nat) : Bool :=
    let a := (c.bufs.getD i 0).toNat
    let b := (c.bufs.getD j 0).toNat
    a != 0 && b != 0 && a != b && a < b + n && b < a + n
  meet 0 1 || meet 0 2 || meet 1 2

/-- An element replaced, or combined with the destination (R347); where buffers overlap in part the result is a free value
(R350, log entry 77). -/
def State.collPut (s : State) (c : Coll) (red : Bool) (b e v : Nat) : Except CollErr State := do
  let l ← s.collLoc c true c.esize (c.addr b e)
  if red then let _ ← s.collLoc c false c.esize (c.addr b e)
  if c.overlaps then .ok (s.useFresh.writeHomeBytes l 0 (leBytes c.esize (s.fresh (8 * c.esize)).toNat))
  else
    let x := if red then combineElem c.ty c.op (s.homeValue l c.esize) v else v
    .ok (s.writeHomeBytes l 0 (leBytes c.esize x))

/-- `n` elements of a buffer from `e` on become free values; what cannot be reached stays. -/
def State.collFree (c : Coll) (b : Nat) : Nat → Nat → State → State
  | 0, _, s => s
  | n + 1, e, s => State.collFree c b n (e + 1) (match s.collLoc c true c.esize (c.addr b e) with
      | .ok l => s.useFresh.writeHomeBytes l 0 (leBytes c.esize (s.fresh (8 * c.esize)).toNat)
      | .error _ => s)

/-- What a mismatch leaves in OUT and SCR once a chunk of a matched packet has been written (R349, log entry 77): free values. -/
def State.collSpoil (s : State) (c : Coll) : State :=
  if (c.nodes.zip c.st).any fun p => p.1.kind == 1 && (p.2.done || p.2.got != 0) then
    let free (b : Nat) (t : State) : State := if c.bufs.getD b 0 = 0 then t else State.collFree c b c.count 0 t
    free 2 (free 1 s)
  else s

/-- Elements of a buffer read. -/
def State.collRead (s : State) (c : Coll) (b lo n : Nat) : Except CollErr (List Nat) :=
  (List.range n).mapM fun k => s.collGet c b (lo + k)

/-- Values put into elements of a buffer from `e` on, in increasing order (R347). -/
def State.collWrite (c : Coll) (red : Bool) (b : Nat) : Nat → List Nat → State → Except CollErr State
  | _, [], s => .ok s
  | e, v :: vs, s => do
    let t ← s.collPut c red b e v
    State.collWrite c red b (e + 1) vs t

/-- `n` elements moved from a buffer to another in increasing order (R347). -/
def State.collMove (c : Coll) (red : Bool) (src sb dst db : Nat) : Nat → State → Except CollErr State
  | 0, s => .ok s
  | n + 1, s => do
    let v ← s.collGet c src sb
    let t ← s.collPut c red dst db v
    State.collMove c red src (sb + 1) dst (db + 1) n t

/-- Pieces of a range of addresses that stay inside 4 KiB pages: address and length. -/
def pieces (va : DWord) (n : Nat) : List (DWord × Nat) :=
  let off := va.toNat % 4096
  (List.range ((off + n + 4095) / 4096)).map fun k =>
    if k = 0 then (va, min n (4096 - off))
    else (va + BitVec.ofNat 64 (4096 * k - off), min (n - (4096 * k - off)) 4096)

/-- The lines of a buffer that the Skippers own (R234, R350), as far as its pages are mapped. -/
def State.bufOwned (s : State) (c : Coll) (b : Nat) : List Owned :=
  let n := c.count * c.esize
  if c.bufs.getD b 0 = 0 || n = 0 then []
  else (pieces (c.bufs.getD b 0) n).filterMap fun p =>
    match s.resolveGlobal c.core c.asid { acc := 1, size := 1, write := true, user := c.user } p.1 with
    | .ok (.hbm pa) => some { cmd := c.cmd, src := false, core := none, lo := pa / 128 * 128, hi := (pa + p.2 + 127) / 128 * 128 }
    | _ => none

/-- The Skippers own the lines of OUT and SCR: from the issue on, and anew when a missing page has been mapped (R234, R350). -/
def State.ownBuffers (s : State) (c : Coll) : State :=
  { s with owned := (s.owned.filter fun o => o.cmd != c.cmd) ++ s.bufOwned c 1 ++ s.bufOwned c 2 }

/-! ### Records, packets and the end of a collective -/

/-- Payload of a collective-step record (R386): 0 start, 1 end, 2 receive. -/
def stepPayload (cause : DWord) (comm node what : Nat) : BitVec 96 :=
  BitVec.ofNat 96 (cause.toNat + 2 ^ 64 * (comm % 4096) + 2 ^ 76 * (node % 65536) + 2 ^ 92 * what)

/-- A collective-step record of a Skipper (R363). -/
def State.stepRecord (s : State) (port : Nat) (c : Coll) (node what : Nat) (cause : DWord) : State :=
  s.emit (engSkipper port) 0x08 (some c.asid) (stepPayload cause c.comm node what)

/-- A packet of a collective sent to a rank by the Skipper that serves it, with this member's signature (R349). -/
def State.sendRank (s : State) (c : Coll) (rank : Nat) (pkt : Packet) (n : Nat) : State :=
  let p := s.skipPort (c.devOf rank)
  s.sendHead (engSkipper p) { port := p, dev := c.devOf rank, tag := 0, pkt := pkt, sig := some c.sig } n

/-- FAB is lowered for the collectives of a group that are over, in issue order, after the writes on FAB that were issued before them
(R261, R350). -/
def State.lowerFab (s : State) (grp team : Nat) : State :=
  let closed := (s.colls.filter fun c => c.grp == grp && c.team == team && !c.lowered).takeWhile fun c =>
    c.status != 0 && !((s.group grp).team == team && (s.group grp).ackBefore .fab c.serial)
  let s1 := { s with colls := s.colls.map fun c => if closed.contains c then { c with lowered := true } else c }
  let g := s1.group grp
  if g.resident && g.team == team && closed != [] then
    (s1.putGroup grp { g with
      inflight := g.inflight.lower (List.replicate closed.length .fab) }).tryFree grp
  else s1

/-- DONESEQ of a communicator (R343): the oldest sequence in progress, or NEXTSEQ. -/
def State.doneSeq (s : State) (comm : Nat) : Word :=
  let x := s.comm comm
  (s.colls.filter fun c => c.comm == comm && c.status == 0).foldl
    (fun m c => if (c.seq - x.doneseq).toNat < (m - x.doneseq).toNat then c.seq else m) x.nextseq

/-- Which counter of a Skipper an end raises. -/
def endCounter (c : Coll) : Nat :=
  if c.status = 1 then 1 else if c.code == some .collMismatch then 3 else 2

/-- A collective is over (R350, R354): its lines are free, the end is recorded, FAB falls in issue order. -/
def State.endColl (s : State) (c : Coll) (status : Nat) (code : Option FCode) (rank : Nat) : State :=
  let c1 := { c with status := status, code := code, finfo := collFinfo c.comm c.seq rank, walks := [], stopped := none, closing := [] }
  let s0 := { s.putColl c1 with owned := s.owned.filter fun o => o.cmd != c.cmd
                                offers := s.offers.filter fun p => !(p.comm == c.comm && p.seq == c.seq)
                                credits := s.credits.filter fun p => !(p.comm == c.comm && p.seq == c.seq) }
  let s1 := if c.stopped.isSome then s0.unpark c.grp else s0
  let s2 := (s1.stepRecord s1.lowPort c 0xFFFF 1 c.cause).bump (ctrSkip s1.lowPort (endCounter c1))
  (s2.putComm c.comm { s2.comm c.comm with doneseq := s2.doneSeq c.comm }).lowerFab c.grp c.team

/-- Payload of the fault record of a mismatch (R363): the ranks stand in EPC. R386 gives the payload no room for the signatures, which the
sequence's `clash` keeps (log entry 28). -/
def mismatchPayload (c : Coll) (a b : Nat) : BitVec 96 :=
  faultPayload FCode.collMismatch.num 0 0 (BitVec.ofNat 64 (a % 65536 + 65536 * (b % 65536))) (collFinfo c.comm c.seq b) false
    false false

/-- An ending takes hold of a collective in progress (R349, R355, R360). -/
def State.applyEnding (s : State) (c : Coll) (what : Ending) : State :=
  if c.status != 0 then s
  else match what with
    | .mismatch a b _ _ =>
      ((s.endColl { c with clash := some what } 3 (some .collMismatch) b).collSpoil c).emit (engSkipper s.lowPort) 0x0A (some c.asid)
        (mismatchPayload c a b)
    | .aborted => s.endColl c 2 none 0xFFFF
    | .watchdog r => s.endColl c 3 (some .watchdog) r

/-- An ending begins here: every other rank is told (R349, R355). -/
def State.stopColl (s : State) (c : Coll) (what : Ending) : State :=
  if c.status != 0 then s
  else
    let others := (List.range c.nrank).filter fun r => r != c.myrank
    others.foldl (fun st r => st.sendRank c r (.ending c.comm c.seq what) 0) (s.applyEnding c what)

/-- A fault of the Skippers that cannot be repaired ends the collective; its record shows that it was abandoned (R256, R350). -/
def State.failColl (s : State) (c : Coll) (code : FCode) : State :=
  let s1 := s.endColl c 3 (some code) 0xFFFF
  s1.emit (engSkipper s1.lowPort) 0x0A (some c.asid)
    (faultPayload code.num 0 0 0 (collFinfo c.comm c.seq 0xFFFF) false false true)

/-- A Skipper's record of a replayable fault that a collective meets (R256, R350). -/
def State.collRecord (s : State) (c : Coll) (port : Nat) (t : TrapInfo) (replayed : Bool) : State :=
  s.emit (engSkipper port) 0x0A (some c.asid) (faultPayload t.code.num 0 0 0 t.finfo false replayed false)

/-- A collective stops at a fault, and the group that issued it, if it still runs, is descheduled (R256, R350). -/
def State.haltColl (s : State) (c : Coll) (port : Nat) (t : TrapInfo) : State :=
  if c.stopped.isSome then s
  else
    let s1 := s.putColl { c with stopped := some t }
    let g := s1.group c.grp
    (if g.resident && g.team == c.team then s1.putGroup c.grp { g with parked := true } else s1).collRecord c port t false

/-- The fault of a stopped collective serviced (R256, R350): its page is mapped and it goes on, or it completes with the fault. -/
def State.serviceColl (s : State) (c : Coll) (port : Nat) (t : TrapInfo) : State :=
  match s.repair c.asid t with
  | some u => (((u.putColl { c with stopped := none }).ownBuffers c).unpark c.grp).collRecord c port t true
  | none => s.failColl c t.code

/-! ### Nodes become ready and complete (R345) -/

/-- Nodes become ready: the tag is kept, and a RECV grants its credit (R346, R357). -/
def State.readyNodes (s : State) (comm : Nat) (seq : Word) : List Nat → State
  | [] => s
  | i :: is => State.readyNodes (match s.coll comm seq with
      | none => s
      | some c =>
        let t := s.tagOf (engSkipper (s.nodePort c i))
        let s1 := s.putColl { c with st := c.st.set i { c.state i with ready := true, tag := t } }
        if (c.node i).kind = 1 && c.peer (c.node i) != c.myrank then
          s1.sendRank c (c.peer (c.node i)) (.credit ⟨comm, seq, c.myrank, c.ordinal i, c.sig⟩) 0
        else s1) comm seq is

/-- A collective starts to run (R350). -/
def State.startColl (s : State) (c : Coll) : State :=
  (s.putColl { c with running := true }).readyNodes c.comm c.seq
    (if c.nrank = 1 then [] else (List.range c.nodes.length).filter fun i => (c.node i).dep == 0)

/-- One more completed predecessor of a node. -/
def countNode (st : List NodeSt) (j : Nat) : List NodeSt :=
  match st[j]? with
  | some n => st.set j { n with count := n.count + 1 }
  | none => st

/-- A node is complete and its successors count it. -/
def Coll.counted (c : Coll) (i : Nat) : Coll :=
  { c with st := ((c.node i).succ.eraseDups).foldl countNode (c.st.set i { c.state i with done := true, carry := Carry.none }) }

/-- A node completes and those it makes ready become so (R345). -/
def State.nodeDone (s : State) (c : Coll) (i : Nat) : State :=
  let c1 := c.counted i
  let next := ((c.node i).succ.eraseDups).filter fun j => (c1.state j).count == (c1.node j).dep && !(c1.state j).ready
  (((s.putColl c1).bump (ctrSkip (s.nodePort c i) 0))).readyNodes c.comm c.seq next

/-- What a packet of a collective in progress shows to be wrong by its sender's signature (R349). -/
def Coll.clashWith (c : Coll) (src : Sender) : Option Ending :=
  match src.sig with
  | some g => if g = c.sig then none else some (.mismatch c.myrank src.rank c.sig g)
  | none => none

/-- What a packet of chunk data finds wrong before any byte is applied (R346, R349). -/
def Coll.screen (c : Coll) (p : ChunkFlit) : Option Ending :=
  match c.clashWith ⟨p.src, some p.sig⟩ with
  | some what => some what
  | none => match c.recvOf p.src p.ordinal with
    | some i => if (c.chunk (c.node i)).2 = p.len then none else some (.mismatch c.myrank p.src c.sig p.sig)
    | none => none

/-! ### cl.go (R348 to R350, R353) -/

/-- What a call record asks for. -/
structure Call where
  bufs  : List DWord
  count : Nat
  ty    : Nat
  op    : Nat
  gph   : Bool
  slot  : Nat
  comm  : Nat
  bar   : DWord
  gate  : DWord
  flag  : DWord
  flagv : DWord
  rsvd  : Bool
deriving DecidableEq, Repr

/-- The call record of 64 bytes (R348). -/
def Call.ofBytes (v : Nat) : Call :=
  let q (k : Nat) : DWord := BitVec.ofNat 64 (field v (8 * k) 8)
  let w := field v 0x18 8
  { bufs := [q 0, q 1, q 2], count := bitsAt w 0 32, ty := bitsAt w 32 4, op := bitsAt w 36 3, gph := w.testBit 39
    slot := bitsAt w 40 6, comm := bitsAt w 48 12, bar := q 4, gate := q 5, flag := q 6, flagv := q 7
    rsvd := bitsAt w 46 2 != 0 || bitsAt w 60 4 != 0 }

/-- Is a communicator valid, enabled and owned by the issuing context (R343, R353)? -/
def State.commOpen (s : State) (x : Comm) : Bool :=
  x.en && x.asid == s.g.asid && 1 ≤ x.nrank.toNat && x.nrank.toNat ≤ 65536 && x.myrank.toNat < x.nrank.toNat

/-- DATA_LOST of what an instruction reads for itself as `ld` does (R207, R224). -/
def State.readsLost (s : State) (f : VForm) (n : Nat) (ls : List LaneLoc) : Except Stop Unit :=
  match s.badAccess s.g 0 n ls with
  | some b => .error (.trap b.1 b.2.1 (.raw b.2.2) (s.g.execLanes f.g))
  | none => .ok ()

/-- The addresses of the entries of RMAP (R343). -/
def Comm.entries (x : Comm) : List (Nat × DWord) := (List.range x.nrank.toNat).map fun k => (96, x.rmap + BitVec.ofNat 64 (2 * k))

/-- What a read of `n` bytes at each of some addresses waits for (R234, R271); addresses that fault wait for nothing. -/
def State.readsWait (s : State) (f : VForm) (n : Nat) (as : List (Nat × DWord)) : Option Nat :=
  let e := s.g.execLanes f.g
  match s.checkLanes s.g { acc := 0, size := n, user := !s.g.mode } true (firstLane e) (some e) noExtra as with
  | .ok ls => s.lanesWait ls n false
  | .error _ => none

/-- The entries of RMAP, read as `ld` reads (R343). -/
def State.readRmap (s : State) (f : VForm) (x : Comm) : Except Stop (List (BitVec 16)) := do
  let e := s.g.execLanes f.g
  let ls ← s.checkLanes s.g { acc := 0, size := 2, user := !s.g.mode } true (firstLane e) (some e) noExtra x.entries
  s.readsLost f 2 ls
  .ok (ls.map fun l => BitVec.ofNat 16 (s.readHome s.g l.loc 2))

/-- The buffers that a collective uses: those its template names, and IN and OUT for a single rank (R350, R353). -/
def usedBufs (nodes : List TplNode) (nrank : Nat) : List Nat :=
  (if nrank = 1 then [0, 1] else []) ++ nodes.flatMap fun n =>
    (if n.kind != 1 then [n.src] else []) ++ (if n.kind != 0 then [n.dst] else [])

/-- A barrier operand of a call record: none, or its record (R353). -/
def State.callBar (s : State) (f : VForm) (v : DWord) : Except Stop (Option (Nat × Nat)) :=
  if v = 0 then .ok none
  else match s.barOperand f v with
    | .ok r => .ok (some r)
    | .error _ => .error (trapGen .operand 0x65 (s.g.execLanes f.g))

/-- What reading RMAP for a call waits for. -/
def State.callWait (s : State) (f : VForm) (v : Call) : Option Nat :=
  if v.rsvd || !s.commOpen (s.comm v.comm) then none else s.readsWait f 2 (s.comm v.comm).entries

/-- The checks of R353 in their order: the collective that the record asks for. -/
def State.checkCall (s : State) (f : VForm) (v : Call) : Except Stop Coll := do
  let e := s.g.execLanes f.g
  let op (d : BitVec 8) : Stop := trapGen .operand d e
  let x := s.comm v.comm
  let t := s.tpl v.slot
  require (!v.rsvd) (trapGen .reserved 0 e)
  require (s.commOpen x) (op 0x60)
  let rmap ← s.readRmap f x
  require (rmap.getD x.myrank.toNat 0 == s.device) (op 0x60)
  require (t.nodes != [] && t.asid == s.g.asid) (op 0x61)
  require (collOpOk v.ty v.op) (op 0x62)
  let es := ((collTy v.ty).getD .i32).size
  require ((usedBufs t.nodes x.nrank.toNat).all fun b =>
    let a := v.bufs.getD b 0
    a != 0 && canonical a && a.toNat % es == 0) (op 0x63)
  let bar ← s.callBar f v.bar
  let gate ← s.callBar f v.gate
  .ok { comm := v.comm, seq := x.nextseq, cmd := s.cmdCtr + 1, grp := s.cur, team := s.g.team, core := s.g.core, asid := s.g.asid
        user := !s.g.mode, nrank := x.nrank.toNat, myrank := x.myrank.toNat, rmap := rmap, bufs := v.bufs, count := v.count
        ty := v.ty, op := v.op, gph := v.gph, slot := v.slot, bar := bar, gate := gate, flag := v.flag, flagv := v.flagv
        tplid := t.tplid, nchunk := t.nchunk, nodes := t.nodes, st := t.nodes.map fun _ => NodeSt.start
        running := false, tag := 0, gateTag := 0, cause := 0, status := 0, code := none, finfo := 0, clash := none, told := false
        lowered := false, stopped := none, serial := s.clock, tripped := [], irqSent := false, walks := []
        stage := 0, closing := [] }

/-- What the packets that waited for a sequence to be issued here show to be wrong: a credit's signature, a chunk's signature or length
(R346, R349). -/
def State.earlyClash (s : State) (c : Coll) : Option Ending :=
  ((s.credits.filter fun p => p.comm == c.comm && p.seq == c.seq).findSome? fun p => c.clashWith ⟨p.src, some p.sig⟩).or
    ((s.offers.filter fun p => p.comm == c.comm && p.seq == c.seq).findSome? c.screen)

/-- What waited for a sequence to be issued here takes hold: a notice, or a packet that differs (R346, R349). -/
def State.takeEarly (s : State) (c : Coll) : State :=
  let mine := s.notices.filter fun n => n.comm == c.comm && n.seq == c.seq
  let s1 := { s with notices := s.notices.filter fun n => !(n.comm == c.comm && n.seq == c.seq) }
  match s1.coll c.comm c.seq with
  | none => s1
  | some c1 => match mine with
    | n :: _ => match c1.clashWith n.src with
      | some what => s1.stopColl c1 what
      | none => s1.applyEnding c1 n.what
    | [] => match s1.earlyClash c1 with
      | some what => s1.stopColl c1 what
      | none => s1

/-- The collective is issued: its number is taken, the Skippers have its `cl.go`, OUT and SCR are theirs, FAB rises and the
ticket is written (R349, R350, R352). -/
def State.issueColl (s : State) (f : VForm) (c0 : Coll) : State :=
  let s1 := s.advance s.g.engine
  let tag := s1.tagOf s.g.engine
  let sk := engSkipper s.lowPort
  let s2 := s1.receive sk tag
  let c := { c0 with tag := tag, cause := tag, gateTag := s2.tagOf sk }
  let x := s2.comm c.comm
  let s3 := s2.putComm c.comm { x with nextseq := x.nextseq + 1 }
  let keep := s3.colls.filter fun y => y.comm != c.comm || y.status == 0 || (c.seq - y.seq).toNat < 4096
  let s4 := { s3 with cmdCtr := c.cmd, colls := keep ++ [c] }.ownBuffers c
  let s5 := s4.setG { s4.g with inflight := s4.g.inflight.raise [.fab] }
  let s6 := s5.setS f.d.scalNum ⟨BitVec.ofNat 64 (c.comm + 2 ^ 12 * c.seq.toNat), 0⟩
  let s7 := s6.stepRecord s6.lowPort c 0xFFFF 0 tag
  (if c.gate.isSome then s7 else s7.startColl c).takeEarly c

/-- The determinism check of this chapter's instructions (R352). -/
def State.clDet (s : State) (f : VForm) : Except Stop Unit :=
  require (!s.det) (trapGen .determinism 0 (s.g.execLanes f.g))

/-- A 64-byte record that an instruction reads as `ld` does: its location (R224), or what the access waits for. -/
def State.recordLoc (s : State) (f : VForm) (ea : DWord) : Except Stop (Loc × Option Nat) := do
  let e := s.g.execLanes f.g
  let ls ← s.checkLanes s.g { acc := 0, size := 64, user := !s.g.mode } true (firstLane e) (some e) noExtra [(96, ea)]
  match ls with
  | l :: _ => match s.locWait l.loc 64 false with
    | some w => .ok (l.loc, some w)
    | none => do
      s.readsLost f 64 [l]
      .ok (l.loc, none)
  | [] => .ok (.record 0, none)

/-- CL.GO (R348 to R350, R353). A record on a peer page is asked for as a load is (R335, log entry 111). -/
def execClGo (f : VForm) (s : State) : Host.Outcome State Fault Refusal :=
  s.finish (.clGo f) do
    if !s.g.groupExec f.g then .ok (.go s)
    else
      s.clDet f
      let ea := s.s64 f.a
      let r ← s.recordLoc f ea
      match r.2 with
      | some w => s.waitOn w
      | none =>
        let v := Call.ofBytes (s.readHome s.g r.1 64)
        match s.callWait f v with
        | some w => s.waitOn w
        | none =>
        let c ← s.checkCall f v
        if 256 ≤ (s.colls.filter fun x => x.core == s.g.core && x.status == 0).length then .ok (.wait s 17)
        else if s.g.counterFull [.fab] then .ok (.wait s 15)
        else
          let ticket : TVal := ⟨BitVec.ofNat 64 (c.comm + 2 ^ 12 * c.seq.toNat), 0⟩
          let t := s.heldRead f.g 0 64 [⟨96, ea, r.1⟩] none (.scal f.d.scalNum ticket)
          .ok (.go (t.issueColl f c) { addrs := [(none, ea.toNat)] })

/-! ### cl.ck and cl.abort (R354, R355) -/

/-- Does RMAP give this device's own id for MYRANK (R343)? -/
def State.rankHere (s : State) (x : Comm) : Bool :=
  match s.lxRead x.asid (x.rmap + BitVec.ofNat 64 (2 * x.myrank.toNat)) 2 with
  | some v => BitVec.ofNat 16 v == s.device
  | none => false

/-- What reading the member's own entry of RMAP for a ticket waits for (R234, R271). -/
def State.ticketWait (s : State) (f : VForm) : Option Nat :=
  let v := (s.s64 f.a).toNat
  let x := s.comm (bitsAt v 0 12)
  if 2 ^ 44 ≤ v || !s.commOpen x then none
  else match s.lxLoc x.asid false (x.rmap + BitVec.ofNat 64 (2 * x.myrank.toNat)) with
    | some l => s.locWait l 2 false
    | none => none

/-- A ticket checked (R352, R354): communicator and sequence. -/
def State.ticket (s : State) (f : VForm) (issued : Bool) : Except Stop (Nat × Word) := do
  let e := s.g.execLanes f.g
  let v := (s.s64 f.a).toNat
  let comm := bitsAt v 0 12
  let seq := bitsAt v 12 32
  let x := s.comm comm
  require (v < 2 ^ 44) (trapGen .reserved 0 e)
  require (s.commOpen x && s.rankHere x) (trapGen .operand 0x60 e)
  require (!issued || serialLt seq x.nextseq.toNat) (trapGen .operand 0x64 e)
  .ok (comm, BitVec.ofNat 32 seq)

/-- The result that `cl.ck` writes for a ticket (R354), or the error that it faults with. -/
def State.ckResult (s : State) (f : VForm) (t : Nat × Word) : Except Stop Nat :=
  match s.coll t.1 t.2 with
  | none => .ok 4
  | some c =>
    if 4096 < ((s.comm t.1).nextseq - t.2).toNat then .ok 4
    else match c.status, c.code with
      | 0, _ => .ok 0
      | 1, _ => .ok 1
      | 2, _ => .ok 2
      | _, code => if c.told then .ok 3
        else .error (.trap (code.getD .collMismatch) 0 (.raw c.finfo) (s.g.execLanes f.g))

/-- CL.CK (R354). -/
def execClCk (f : VForm) (s : State) : Host.Outcome State Fault Refusal :=
  s.finish (.clCk f) do
    if !s.g.groupExec f.g then .ok (.go s)
    else
      s.clDet f
      match s.ticketWait f with
      | some w => s.waitOn w
      | none => do
        let t ← s.ticket f true
        let r ← s.ckResult f t
        let s1 := s.setS f.d.scalNum ⟨BitVec.ofNat 64 r, 0⟩
        .ok (.go (if r = 1 || r = 2 then s1.acquireL1 s.cur .system else s1))

/-- CL.ABORT (R355): a sequence that is over is left as it is. -/
def execClAbort (f : VForm) (s : State) : Host.Outcome State Fault Refusal :=
  s.finish (.clAbort f) do
    if !s.g.groupExec f.g then .ok (.go s)
    else
      s.clDet f
      match s.ticketWait f with
      | some w => s.waitOn w
      | none => do
        let t ← s.ticket f true
        .ok (.go (match s.coll t.1 t.2 with
          | some c => s.stopColl c .aborted
          | none => s))

/-! ### Awaited-party records (R357, R358) -/

/-- W0 of a record. -/
def State.word0 (s : State) (kind obj : Nat) : DWord := s.device ++ BitVec.ofNat 4 kind ++ BitVec.ofNat 44 obj

/-- W1 of a record; DONE is set with VALID clear where the sequence is over and no step of it pends (log entry 88). -/
def word1 (done issued isLocal : Bool) (npend node gen : Nat) (valid : Bool := true) : DWord :=
  BitVec.ofNat 64 (bitNat valid + 2 * bitNat done + 4 * bitNat issued + 8 * bitNat isLocal + 2 ^ 8 * min npend 255 + 2 ^ 16 * (node % 65536)
    + 2 ^ 32 * (gen % 2 ^ 32))

/-- The record of a team barrier (R109). -/
def State.teamWords (s : State) (tk : Nat) : List DWord :=
  let t := s.team tk
  [s.word0 0 t.barObj, word1 false false true 0 0 t.bar.gen.toNat, s.aliveGroups tk, t.bar.arrived, oldestTag t.bar.waits, oldestTag t.bar.waits, 0, 0]

/-- Expected parties and arrived set of an asynchronous barrier (R270). -/
def State.barParties (s : State) (r : Nat × Nat) : DWord × DWord :=
  match s.armedAt r.1 r.2 with
  | some a => (a.await, a.await &&& ~~~(s.readBar r.1 r.2).await)
  | none => (0, 0)

/-- The record of an asynchronous barrier (R270); zero words when it is not armed. -/
def State.barWords (s : State) (r : Nat × Nat) : List DWord :=
  match s.armedAt r.1 r.2 with
  | some a =>
    let b := s.readBar r.1 r.2
    let p := s.barParties r
    [s.word0 1 (abarObj r.1 r.2), word1 false false true 0 0 b.gen, p.1, p.2, oldestTag a.waits, b.ftag, 0, 0]
  | none => List.replicate 8 0

/-- OBJ of a step (R357). -/
def stepObj (comm node : Nat) : Nat := (comm % 4096) * 2 ^ 32 + node % 65536

/-- The record of a pending step of a collective (R357). -/
def State.stepWords (s : State) (c : Coll) (i : Nat) : List DWord :=
  let n := c.pending.length
  if i = 65535 then
    let r := c.gate.getD (0, 0)
    let p := s.barParties r
    [s.word0 2 (stepObj c.comm i), word1 false true true n i c.seq.toNat, p.1, p.2, c.tag, (s.readBar r.1 r.2).ftag, 0, c.gateTag]
  else
    let q := c.awaited i
    [s.word0 2 (stepObj c.comm i), word1 false true false n i c.seq.toNat,
     BitVec.ofNat 64 (q + 2 ^ 32 * (c.devOf q).toNat),
     BitVec.ofNat 64 ((c.state i).got + 2 ^ 32 * ((c.chunk (c.node i)).2 * c.esize)),
     c.tag, 0, Store.get 0 s.lastk (c.comm * 65536 + q), (c.state i).tag]

/-- The record of step c of a ticket (R358); a number at or beyond the pending steps reads as eight zero words (R410). -/
def State.ticketWords (s : State) (t : Nat × Word) (n : Nat) : List DWord :=
  if !serialLt t.2.toNat (s.comm t.1).nextseq.toNat then
    [s.word0 2 (stepObj t.1 0), word1 false false false 0 0 t.2.toNat, 0, 0, 0, 0, 0, 0]
  else match s.coll t.1 t.2 with
    | none => List.replicate 8 0
    | some c => match c.pending[n]? with
      | some i => s.stepWords c i
      | none => List.replicate 8 0

/-- The record that a launch record of kind wait keeps, for the management window (R300, R357): its object is the queue. GEN holds the
record's number (log entry 88). -/
def State.queueWords (s : State) (q : Nat) : List DWord :=
  match (s.queue q).recs.find? fun r => r.kind == 2 with
  | some r => [s.word0 3 q, word1 false false false 0 0 r.index.toNat, 0, 0, r.tag, 0, 0, 0]
  | none => [s.word0 3 q, word1 true false false 0 0 0 false, 0, 0, 0, 0, 0, 0]

/-- The eight words that `awr` reads. -/
def State.awrWords (s : State) (f : VForm) : Except Stop (List DWord) :=
  let e := s.g.execLanes f.g
  match (s.s64 f.b).toNat with
  | 0 => do
    require (f.a.scalNum == 0) (trapGen .operand 0 e)
    .ok (s.teamWords s.g.team)
  | 1 => match s.barOperand f (s.s64 f.a) with
    | .ok r => .ok (s.barWords r)
    | .error _ => .error (trapGen .operand 0 e)
  | _ => do
    let t ← s.ticket f false
    .ok (s.ticketWords t (s.n32 f.c))

/-- Words written to consecutive scalars with tails 0. -/
def State.setWords (s : State) (n : Nat) : List DWord → State
  | [] => s
  | w :: ws => State.setWords (s.setS n ⟨w, 0⟩) (n + 1) ws

/-- AWR (R358). -/
def execAwr (f : VForm) (s : State) : Host.Outcome State Fault Refusal :=
  s.finish (.awr f) do
    if !s.g.groupExec f.g then .ok (.go s)
    else
      s.clDet f
      match if (s.s64 f.b).toNat < 2 then none else s.ticketWait f with
      | some w => s.waitOn w
      | none => do
        let ws ← s.awrWords f
        .ok (.go (s.setWords f.d.scalNum ws))

/-! ### cl.tpl (R344, R356) -/

/-- A node from its 32 bytes; none when a field is out of range or a reserved bit is set. -/
def TplNode.ofBytes (v nnode : Nat) : Option TplNode :=
  let n : TplNode :=
    { kind := bitsAt v 0 4, src := bitsAt v 4 2, dst := bitsAt v 6 2, red := v.testBit 8, peer := bitsAt v 16 16
      cadd := bitsAt v 32 8, cmul := BitVec.ofNat 8 (bitsAt v 40 8), dep := bitsAt v 48 8
      succ := (List.range (min (bitsAt v 56 4) 8)).map fun k => bitsAt v (64 + 16 * k) 16 }
  if n.kind ≤ 2 && n.src ≤ 2 && n.dst ≤ 2 && bitsAt v 9 7 == 0 && bitsAt v 60 4 == 0 && bitsAt v 192 64 == 0 && bitsAt v 56 4 ≤ 8
      && !(n.red && n.kind == 0) && n.succ.all (· < nnode) then some n else none

/-- How many nodes name node i as a successor. -/
def indegree (nodes : List TplNode) (i : Nat) : Nat := (nodes.filter fun n => n.succ.contains i).length

/-- The nodes left after those without a predecessor among them are taken away, `k` times. -/
def uncovered (nodes : List TplNode) : Nat → List Nat → List Nat
  | 0, l => l
  | k + 1, l => uncovered nodes k (l.filter fun i => l.any fun j => ((nodes.getD j ⟨2, 0, 0, false, 0, 0, 0, 0, []⟩).succ).contains i)

/-- The first node whose DEP differs from the number of nodes that name it, or that a cycle keeps from ever becoming ready
(R356). -/
def badNode (nodes : List TplNode) : Option Nat :=
  let all := List.range nodes.length
  match (all.zip nodes).find? fun p => p.2.dep != indegree nodes p.1 with
  | some p => some p.1
  | none => (uncovered nodes nodes.length all).head?

/-- Nodes read from their bytes: the list, or the first malformed one. -/
def nodesOf (nnode : Nat) : Nat → List Nat → Except Nat (List TplNode)
  | _, [] => .ok []
  | i, v :: vs => match TplNode.ofBytes v nnode with
    | none => .error i
    | some n => match nodesOf nnode (i + 1) vs with
      | .ok l => .ok (n :: l)
      | .error k => .error k

/-- Nodes of template storage that the other slots hold. -/
def State.tplUsed (s : State) (slot : Nat) : Nat :=
  (s.tpls.filter fun p => p.1 != slot).foldl (fun n p => n + p.2.nodes.length) 0

/-- STATUS 3 of `cl.tpl`: the slot belongs to another context, or a collective in flight uses it. -/
def State.slotBusy (s : State) (slot : Nat) : Bool :=
  ((s.tpl slot).nodes != [] && (s.tpl slot).asid != s.g.asid) || s.colls.any fun c => c.slot == slot && c.status == 0

/-- The status word of `cl.tpl`. -/
def tplStatus (status node : Nat) : DWord := BitVec.ofNat 64 (status + 65536 * node)

/-- The addresses of the nodes of a template (R344). -/
def nodeEntries (nn : Nat) (ea : DWord) : List (Nat × DWord) := (List.range nn).map fun k => (96, ea + BitVec.ofNat 64 (64 + 32 * k))

/-- Is a template's header well-formed (R344)? -/
def headOk (h : Nat) : Bool := 1 ≤ bitsAt h 0 16 && bitsAt h 0 16 ≤ 4096 && 1 ≤ bitsAt h 16 8 && bitsAt h 24 8 == 0 && h < 2 ^ 64

/-- What reading a template's nodes waits for. -/
def State.tplWait (s : State) (f : VForm) (h : Nat) (ea : DWord) : Option Nat :=
  if headOk h then s.readsWait f 32 (nodeEntries (bitsAt h 0 16) ea) else none

/-- A template at an address loaded into a slot: the status word and the state (R356). -/
def State.loadTpl (s : State) (f : VForm) (slot : Nat) (ea : DWord) (head : Loc) : Except Stop (DWord × State) := do
  let e := s.g.execLanes f.g
  let h := s.readHome s.g head 64
  let nn := bitsAt h 0 16
  let nch := bitsAt h 16 8
  if !headOk h then .ok (tplStatus 2 0xFFFF, s)
  else if 6144 < s.tplUsed slot + nn then .ok (tplStatus 1 0, s)
  else
    let ls ← s.checkLanes s.g { acc := 0, size := 32, user := !s.g.mode } true (firstLane e) (some e) noExtra
      (nodeEntries nn ea)
    s.readsLost f 32 ls
    match nodesOf nn 0 (ls.map fun l => s.readHome s.g l.loc 32) with
    | .error i => .ok (tplStatus 2 i, s)
    | .ok nodes => match badNode nodes with
      | some i => .ok (tplStatus 2 i, s)
      | none => .ok (0, { s with tpls := Store.put slot ⟨s.g.asid, BitVec.ofNat 32 (bitsAt h 32 32), nch, nodes⟩ s.tpls })

/-- CL.TPL (R356). -/
def execClTpl (f : VForm) (s : State) : Host.Outcome State Fault Refusal :=
  s.finish (.clTpl f) do
    if !s.g.groupExec f.g then .ok (.go s)
    else
      s.clDet f
      let slot := s.n32 f.b
      let ea := s.s64 f.a
      require (slot < 64) (trapGen .operand 0 (s.g.execLanes f.g))
      if ea = 0 then
        .ok (.go (if s.slotBusy slot then s.setS f.d.scalNum ⟨3, 0⟩
          else { s with tpls := Store.erase slot s.tpls }.setS f.d.scalNum ⟨0, 0⟩))
      else
        let r ← s.recordLoc f ea
        match r.2 with
        | some w => s.waitOn w
        | none =>
          if s.slotBusy slot then .ok (.go (s.setS f.d.scalNum ⟨3, 0⟩) { addrs := [(none, ea.toNat)] })
          else match s.tplWait f (s.readHome s.g r.1 64) ea with
          | some w => s.waitOn w
          | none =>
            let t ← s.loadTpl f slot ea r.1
            let u := t.2.heldRead f.g 0 64 [⟨96, ea, r.1⟩] none (.scal f.d.scalNum ⟨t.1, 0⟩)
            .ok (.go (u.setS f.d.scalNum ⟨t.1, 0⟩) { addrs := [(none, ea.toNat)] })

end Sys2Proof.Machine
end

