-- ==== Sys2Proof/Machine/Control.lean ====
section
/-! DEFINITION. Control-flow and predicate instructions (chapter 04, R93 to R109). -/

namespace Sys2Proof.Machine

/-! ### Branches -/

/-- JOIN_MISMATCH with its detail, in the active lanes (R94, R95, R98). -/
def State.joinMismatch (s : State) (detail : BitVec 8) : Stop := trapGen .joinMismatch detail s.g.mask

/-- ALIGN of a computed branch target (R95): FADDR is the target. -/
def State.targetAlign (s : State) (target : DWord) : Stop :=
  .trap .align target (.raw ((⟨.align, 7, 0, 0xD, target, 3, 2⟩ : AccErr).finfo s.g.asid)) s.g.mask

/-- The group after a divergent branch: the taken lanes wait on the top entry, the fall-through lanes run (R94). -/
def Group.diverge (g : Group) (top : JoinEntry) (rest : List JoinEntry) (taken : Lanes) (target : DWord) : Group :=
  { g with stack := { top with ppc := target, pmask := taken, pend := true } :: rest
           mask := g.mask &&& ~~~taken, full := g.full &&& ~~~taken }

/-- `bra` (R94). -/
def braBody (f : BForm) (s : State) : Body :=
  let g := s.g
  let target := g.pc + dispOf f
  let t := g.execLanes f.g
  if f.g.isNone then .ok (.to s target)
  else if t = 0 then .ok (.go s)
  else if t = g.mask then .ok (.to s target)
  else if f.uni then .error (s.joinMismatch 1)
  else match g.stack with
    | [] => .error (s.joinMismatch 2)
    | top :: rest => if top.pend then .error (s.joinMismatch 2) else .ok (.go (s.setG (g.diverge top rest t target)))

/-- BRA. -/
def execBra (f : BForm) (s : State) : Host.Outcome State Fault Refusal := s.finish (.bra f) (braBody f s)

/-- A branch that acts for the group (R95): taken without a guard or when the guard holds in every active lane; its
target must be a multiple of 4; `link` runs when it is taken. -/
def groupBranch (gd : Guard) (target : DWord) (link : State → State) (s : State) : Body :=
  let t := s.g.execLanes gd
  if gd.isNone || (t == s.g.mask && t != 0) then
    if target.toNat % 4 = 0 then .ok (.to (link s) target) else .error (s.targetAlign target)
  else if t = 0 then .ok (.go s)
  else .error (s.joinMismatch 4)

/-- The link register receives PC + 12 with tail zero (R93). -/
def State.link (s : State) (d : Dst) (pc : DWord) : State := s.setS d.scalNum ⟨pc + 12, 0⟩

/-- BRX. -/
def execBrx (f : BForm) (s : State) : Host.Outcome State Fault Refusal :=
  s.finish (.brx f) (groupBranch f.g (s.s64 f.a) id s)

/-- CALL. -/
def execCall (f : BForm) (s : State) : Host.Outcome State Fault Refusal :=
  s.finish (.call f) (groupBranch f.g (s.g.pc + dispOf f) (fun t => t.link f.d s.g.pc) s)

/-- CALLX: the target is read before the link is written. -/
def execCallx (f : BForm) (s : State) : Host.Outcome State Fault Refusal :=
  s.finish (.callx f) (groupBranch f.g (s.s64 f.a) (fun t => t.link f.d s.g.pc) s)

/-- RET. -/
def execRet (f : BForm) (s : State) : Host.Outcome State Fault Refusal :=
  s.finish (.ret f) (groupBranch f.g (s.s64 f.a) id s)

/-- `loop` (R96). -/
def loopBody (f : BForm) (s : State) : Body :=
  if !s.g.groupExec f.g then .ok (.go s)
  else
    let v := s.g.sval f.d.scalNum - 1
    let s1 := s.setS f.d.scalNum ⟨v, 0⟩
    if v = 0 then .ok (.go s1) else .ok (.to s1 (s.g.pc + dispOf f))

/-- LOOP. -/
def execLoop (f : BForm) (s : State) : Host.Outcome State Fault Refusal := s.finish (.loop f) (loopBody f s)

/-! ### mark, join, exit -/

/-- `mark` (R97): its never form pushes nothing. DESIGN CHOICE: PPC and PMASK of the entry, of which the manual says nothing before a
branch sets them, are 0 (log entry 94). -/
def markBody (f : BForm) (s : State) : Body :=
  if f.g.neg then .ok (.go s)
  else do
    if s.pushOwned then s.waitOn 17
    else
    let s1 ← s.push { lpc := s.g.pc + dispOf f, ppc := 0, smask := s.g.full, pmask := 0, pend := false }
    .ok (.go s1)

/-- MARK. -/
def execMark (f : BForm) (s : State) : Host.Outcome State Fault Refusal := s.finish (.mark f) (markBody f s)

/-- The action of `join` on a non-empty stack (R98): switch to the pending path, or reconverge, which orders the
memory accesses of both paths before later ones (R91) and ends the group when every lane has exited. -/
def joinAct (s : State) : Body :=
  let g := s.g
  match g.stack with
  | [] => .error (s.joinMismatch 3)
  | top :: rest =>
    if top.pend then
      .ok (.to (s.setG { g.restoreMask top.pmask with stack := { top with pend := false } :: rest }) top.ppc)
    else
      let s1 := s.setG { (g.pop).restoreMask top.smask with l1Floor := s.l1Ctr + 1 }
      .ok (.to (if g.exited = allLanes then s1.endGroup s.cur else s1) top.lpc)

/-- `join` (R98): its never form does nothing. -/
def joinBody (f : VForm) (s : State) : Body := if f.g.neg then .ok (.go s) else joinAct s

/-- JOIN. -/
def execJoin (f : VForm) (s : State) : Host.Outcome State Fault Refusal := s.finish (.join f) (joinBody f s)

/-- The group after its lanes `e` have exited (R99, R379). -/
def Group.exitLanes (g : Group) (e : Lanes) : Group :=
  { g with exited := g.exited ||| e, full := g.full &&& ~~~e, mask := (g.full &&& ~~~e) &&& ~~~g.held }

/-- `exit` (R99). -/
def exitBody (f : VForm) (s : State) : Body :=
  let e := s.g.execLanes f.g
  let s1 := s.setG (s.g.exitLanes e)
  if e = 0 then .ok (.go s)
  else if s1.g.mask != 0 then .ok (.go s1)
  else if s1.g.exited = allLanes then .ok (.go (s1.endGroup s.cur))
  else if s1.g.depth = 0 then .ok (.go s1)
  else joinAct s1

/-- EXIT. -/
def execExit (f : VForm) (s : State) : Host.Outcome State Fault Refusal := s.finish (.exit f) (exitBody f s)

/-! ### nop, sleep, yield -/

/-- NOP. -/
def execNop (f : VForm) (s : State) : Host.Outcome State Fault Refusal := s.finish (.nop f) (.ok (.go s))

/-- N of `sleep` (R101). -/
def sleepCount (f : IForm) (s : State) : Nat :=
  min (f.imm.toNat + (match f.a with | .scal n => (s.g.sval n.val).toNat | _ => 0)) 1048575

/-- `sleep` (R101): the count runs out at SLEEP_EXPIRY. -/
def sleepBody (f : IForm) (s : State) : Body :=
  let n := sleepCount f s
  if !s.g.groupExec f.g || n = 0 then .ok (.go s)
  else
    .ok (.go (s.setG { s.g with waiting := .sleep (64 ≤ n) }))

/-- SLEEP. -/
def execSleep (f : IForm) (s : State) : Host.Outcome State Fault Refusal := s.finish (.sleep f) (sleepBody f s)

/-! ### Predicates -/

/-- A destination predicate written in the executing lanes, or a destination scalar written by any guard but the
never form (R103, R104, R173). -/
def State.wrBit (s : State) (gd : Guard) (d : Dst) (lanes : Lanes) (scalar : DWord) : State :=
  match d with
  | .pred n => s.setG (s.g.setPred n.val (s.g.execLanes gd) lanes)
  | .scal n => if gd.isNever then s else s.setS n.val ⟨scalar, 0⟩
  | _ => s

/-- ELECT (R103). -/
def execElect (f : VForm) (s : State) : Host.Outcome State Fault Refusal :=
  let w := lowestLane (s.g.execLanes f.g)
  s.finish (.elect f) (.ok (.go (s.wrBit f.g f.d
    (match w with | some i => (1 : Lanes) <<< i | none => 0)
    (match w with | some i => BitVec.ofNat 64 i | none => BitVec.allOnes 64))))

/-- The result of `vote` over the executing lanes (R104). -/
def voteResult (fn : BitVec 4) (e q : Lanes) : Bool :=
  if fn = 0 then e &&& ~~~q == 0
  else if fn = 1 then e &&& q != 0
  else e &&& q == 0 || e &&& ~~~q == 0

/-- VOTE (R104). -/
def execVote (f : VForm) (s : State) : Host.Outcome State Fault Refusal :=
  let b := voteResult f.fn (s.g.execLanes f.g) (s.g.pred f.a.specialNum)
  s.finish (.vote f) (.ok (.go (s.wrBit f.g f.d (if b then allLanes else 0) (if b then 1 else 0))))

/-- f(a, b) of `plog` in every lane (R105). -/
def plogResult (fn : BitVec 4) (a b : Lanes) : Lanes :=
  if fn = 0 then a &&& b
  else if fn = 1 then a ||| b
  else if fn = 2 then a ^^^ b
  else if fn = 3 then a &&& ~~~b
  else if fn = 4 then a ||| ~~~b
  else if fn = 5 then ~~~(a &&& b)
  else if fn = 6 then ~~~(a ||| b)
  else ~~~(a ^^^ b)

/-- PLOG (R105). -/
def execPlog (f : VForm) (s : State) : Host.Outcome State Fault Refusal :=
  s.finish (.plog f) (.ok (.go (s.setG (s.g.setPred f.d.predNum (s.g.execLanes f.g)
    (plogResult f.fn (s.g.pred f.a.specialNum) (s.g.pred f.b.specialNum))))))

/-- PMOV.PV (R106). -/
def execPmovPv (f : VForm) (s : State) : Host.Outcome State Fault Refusal :=
  let e := s.g.execLanes f.g
  s.finish (.pmovPv f) do
    s.checkVecs e (f.a.vecOp f.ty.is64)
    .ok (.go (s.setG (s.g.setPred f.d.predNum e (laneSet fun i => f.ty.toInt (s.rdSrc f.ty f.a i).val != 0))))

/-- PMOV.VP (R106). -/
def execPmovVp (f : VForm) (s : State) : Host.Outcome State Fault Refusal :=
  let e := s.g.execLanes f.g
  s.finish (.pmovVp f) do
    s.checkVecs e (f.d.vecOp f.ty.is64)
    .ok (.go (s.wrDst f.g f.ty f.d fun i => ⟨if (s.g.pred f.a.specialNum).getLsbD i then 1 else 0, 0⟩))

/-- PMOV.PM (R106): acts for the group on all lanes. -/
def execPmovPm (f : VForm) (s : State) : Host.Outcome State Fault Refusal :=
  s.finish (.pmovPm f) (.ok (.go (if s.g.groupExec f.g then s.setG (s.g.setPred f.d.predNum allLanes s.g.mask) else s)))

/-- PMOV.MP (R106): a mask restore. -/
def execPmovMp (f : VForm) (s : State) : Host.Outcome State Fault Refusal :=
  s.finish (.pmovMp f) (.ok (.go (if s.g.groupExec f.g then s.setG (s.g.restoreMask (s.g.pred f.a.specialNum)) else s)))

/-! ### The team barrier -/

/-- The arrival of the issuing group, in some executing lanes, at its team's barrier (R107, R109, R342). -/
def State.arrive (s : State) (e : Lanes) : State :=
  let g := s.g
  let s1 := s.advance g.engine
  let t := s1.team g.team
  let b := t.bar
  let tag := s1.tagOf g.engine
  let bar : TeamBar :=
    { b with arrived := b.arrived ||| ((1 : BitVec 64) <<< g.index)
             waits := (b.waits.filter fun w => w.1 != g.index) ++ [(g.index, tag)] }
  (s1.putTeam g.team { t with bar := bar }).setG { s1.g with waiting := .barrier, stall := 10, barLanes := e }

/-- `tbar` (R107): the group arrives and is held until the barrier completes, at once when it is the last. The checkpoint that its
completion takes (R108, R323) must fit its slot, which is seen before the group arrives (log entry 75). -/
def tbarBody (f : VForm) (s : State) : Body :=
  if !s.g.groupExec f.g then .ok (.go s)
  else do
    if !s.g.inHandler then s.slotFits s.cur s.g.ranges
    if !s.g.inHandler && s.slotOwned s.cur s.g.ranges then s.waitOn 17
    else
    let s1 := (s.arrive (s.g.execLanes f.g)).barrierCheck s.g.team s.g.index
    if s1.g.waiting = .barrier then .ok (.wait s1 10) else .ok (.held s1)

/-- TBAR. -/
def execTbar (f : VForm) (s : State) : Host.Outcome State Fault Refusal := s.finish (.tbar f) (tbarBody f s)

/-- UNASSIGNED_OPCODE: ILLEGAL in the active lanes (R65, R77). -/
def execUnassignedOpcode (w : BitVec 96) (s : State) : Host.Outcome State Fault Refusal :=
  s.finish (.unassignedOpcode w) (.error (trapGen .illegal 0 s.g.mask))

end Sys2Proof.Machine
end

