-- ==== Sys2Proof/Machine/Fabric.lean ====
section
/-! DEFINITION. What the Skippers and the Cirrus ports do by themselves or with what arrives on the fabric (chapter 14, R332 to
R339, R345 to R350, R355, R360, R361, R363). -/

namespace Sys2Proof

/-- Do two packets belong to one chunk? -/
def ChunkFlit.same (p q : ChunkFlit) : Bool := p.comm == q.comm && p.seq == q.seq && p.src == q.src && p.ordinal == q.ordinal

/-- The greatest size of an access of a kind: images of 16 bytes for loads and stores (R217, R335), 8 for atomics. -/
def PeerOp.maxSize (op : PeerOp) : Nat := match op with | .atomic .. => 8 | _ => 16

end Sys2Proof

namespace Sys2Proof.Machine

/-- A step that may stop the model. -/
def outcomeOf (r : Except Fault State) : Host.Outcome State Fault Refusal :=
  match r with
  | .ok s => .next s
  | .error f => .fault f

/-! ### Packets of a collective -/

/-- The Skipper that a packet of a rank reaches. -/
def State.rankPort (s : State) (comm : Nat) (seq : Word) (rank : Nat) : Nat :=
  match s.coll comm seq with
  | some c => s.skipPort (c.devOf rank)
  | none => s.lowPort

/-- A packet of a rank received (R342, R357). -/
def State.gotPacket (s : State) (comm : Nat) (seq : Word) (rank : Nat) (tag : DWord) : State :=
  let s1 := s.receive (engSkipper (s.rankPort comm seq rank)) tag
  { s1 with lastk := Store.put (comm * 65536 + rank) tag s1.lastk }

/-- A packet of a collective in progress whose sender's signature differs stops it (R349, log entry 112); else `next`. -/
def State.compared (s : State) (comm : Nat) (seq : Word) (src : Sender) (tag : DWord) (next : State) : State :=
  match s.coll comm seq with
  | some c => match if c.status = 0 then c.clashWith src else none with
    | some what => s.stopColl { c with cause := tag } what
    | none => next
  | none => next

/-- Has this member issued the sequence? -/
def State.isIssued (s : State) (comm : Nat) (seq : Word) : Bool := serialLt seq.toNat (s.comm comm).nextseq.toNat

/-- Values of `n` bytes in a list of bytes. -/
def wordsOf (n : Nat) : Nat → List Byte → List Nat
  | 0, _ => []
  | k + 1, l => leValue (l.take n) :: wordsOf n k (l.drop n)

/-! ### Requests at their home (R336, R338) -/

/-- The response to a request of a peer. -/
def State.respond (s : State) (port src : Nat) (id : DWord) (value : BitVec 128) (n : Nat) : State :=
  s.send (engPort port) port (BitVec.ofNat 16 src) (.response id value) n

/-- The entry of a request in a port's filter. -/
def State.filterOf (s : State) (port src : Nat) (id : DWord) : Option FilterEntry :=
  s.filters.find? fun e => e.port == port && e.src == src && e.id == id

/-- Is a request's first transmission at most 1.95 ms old by the home's time (R338)? -/
def inTime (t : ReqTimes) : Bool := (t.now - t.first).toNat ≤ 1950000

/-- Does the home of a port withhold credit from requests that pass its filter (R338)? -/
def State.filterFull (s : State) (port : Nat) : Bool := 65536 ≤ (s.filters.filter fun e => e.port == port).length

/-- A write request performed: its response stands in the filter (R338). Id 0 bypasses it. -/
def State.keepResponse (s : State) (port src : Nat) (id value : DWord) : State :=
  if id = 0 then s else { s with filters := s.filters ++ [⟨port, src, id, value⟩] }

/-! ### What a node reads and writes, and what Cirrus carries of it (R335, R338, R345, log entry 111) -/

/-- Elements of a buffer (0 IN, 1 OUT, 2 SCR): the first one and how many. -/
structure Span where
  buf : Nat
  lo  : Nat
  n   : Nat
deriving DecidableEq, Repr

/-- The addresses of a span's elements. -/
def Coll.elems (c : Coll) (x : Span) : List DWord := (List.range x.n).map fun k => c.addr x.buf (x.lo + k)

/-- What a node reads: its source, and the destination that it combines with (R344, R347). -/
def Coll.reads (c : Coll) (i : Nat) : List Span :=
  let n := c.node i
  let ch := c.chunk n
  (if n.kind = 1 then [] else [⟨n.src, ch.1, ch.2⟩]) ++ (if n.red then [⟨n.dst, ch.1, ch.2⟩] else [])

/-- What a node writes (R344). -/
def Coll.writes (c : Coll) (i : Nat) : List Span :=
  let n := c.node i
  if n.kind = 0 then [] else [⟨n.dst, (c.chunk n).1, (c.chunk n).2⟩]

/-- The RECV of this member that a SEND to itself meets (R346). -/
def Coll.selfRecv (c : Coll) (i : Nat) : Option Nat :=
  if (c.node i).kind = 0 && c.peer (c.node i) = c.myrank then c.recvOf c.myrank (c.ordinal i) else none

/-- What a node reads, with what the RECV reads that a SEND to this member meets. -/
def Coll.readsOf (c : Coll) (i : Nat) : List Span := c.reads i ++ ((c.selfRecv i).map c.reads).getD []

/-- The elements of some spans that lie on pages of other devices. -/
def State.peerElems (s : State) (c : Coll) (write : Bool) (l : List Span) : List LaneLoc :=
  (l.flatMap c.elems).filterMap fun va => match s.collLoc c write c.esize va with
    | .ok p => if p.isPeer then some ⟨0, va, p⟩ else none
    | .error _ => none

/-- The elements of some spans are asked for where they lie on pages of other devices. -/
def State.askElems (s : State) (c : Coll) (l : List Span) : State × List Req := s.askPeers 7 c.esize askLoad (s.peerElems c false l)

/-- The elements written are sent where they lie on pages of other devices. -/
def State.tellElems (s : State) (c : Coll) (l : List Span) : State × List Req :=
  s.askPeers 7 c.esize (fun x => askStore (s.homeValue x.loc c.esize)) (s.peerElems c true l)

/-- The translations of the pages of some spans are kept and counted (R224). -/
def State.noteSpans (s : State) (c : Coll) (l : List Span) : State :=
  s.noteVas c.core c.asid (l.flatMap fun x => if x.n = 0 then [] else (pieces (c.addr x.buf x.lo) (x.n * c.esize)).map fun p => p.1)

/-- What Cirrus carries of a node replaced. -/
def Coll.carrying (c : Coll) (i : Nat) (k : Carry) : Coll := { c with st := c.st.set i { c.state i with carry := k } }

/-- Does a node read elements on pages of other devices that it has not asked for? -/
def State.mustAsk (s : State) (c : Coll) (i : Nat) : Bool :=
  !(c.state i).carry.asked && s.peerElems c false (c.readsOf i) != []

/-- A node completes: a RECV is recorded with the packet that caused it, and with a SEND to this member its RECV completes (R345,
R346, R363). -/
def State.nodeEnd (s : State) (c : Coll) (i : Nat) : State :=
  let p := s.nodePort c i
  match c.selfRecv i with
  | some j =>
    let t := (s.stepRecord p c j 2 (c.state j).cause).nodeDone c i
    match t.coll c.comm c.seq with
    | some c2 => t.nodeDone c2 j
    | none => t
  | none => (if (c.node i).kind = 1 then s.stepRecord p c i 2 (c.state i).cause else s).nodeDone c i

/-- A node's writes are performed: it completes, or once the devices have answered that hold some of its destination (R335, R345). -/
def State.nodeWrote (s : State) (c : Coll) (i : Nat) (l : List Span) : State :=
  let q := s.tellElems c l
  if q.2 = [] then q.1.nodeEnd c i else q.1.putColl (c.carrying i ⟨q.2, true, true⟩)

/-- A Skipper's work on a collective: it is done, waits, or stops at a fault (R256, R350); a write to a failed host leaves the outcome
unknown (R419). -/
def State.collStep (s : State) (c : Coll) (node port : Nat) (r : Except CollErr State) : Except Fault State :=
  match r with
  | .ok t => .ok t
  | .error (.wait owned) => .ok (if owned then s.noteWait (c.core / 64) 1 (c.cmd * 65536 + node) else s)
  | .error (.bad t) => .ok (s.haltColl c port t)
  | .error .unknown => .ok (s.endColl c 3 (some .outcomeUnknown) 0xFFFF)
  | .error (.model f) => .error f

/-- The next bytes of a chunk written or combined into the destination of its RECV (R345 to R347); the RECV completes with
the last of them. A packet that no chunk of this length is cut into is dropped; one that cannot be applied yet is kept. -/
def State.applyChunk (s : State) (c : Coll) (i : Nat) (p : ChunkFlit) : Except Fault State :=
  let n := c.node i
  let x := c.state i
  let es := c.esize
  let total := (c.chunk n).2 * es
  let got := x.got + p.data.length
  if p.data.length % es != 0 || total < got then .ok s
  else
    let part : Span := ⟨n.dst, (c.chunk n).1 + x.got / es, p.data.length / es⟩
    match State.collWrite c n.red n.dst part.lo (wordsOf es part.n p.data) s with
    | .ok t =>
      let c1 := { c with st := c.st.set i { x with got := got, cause := p.tag }, cause := p.tag }
      let t1 := t.noteSpans c [part]
      .ok (if got = total then t1.nodeWrote c1 i (c.writes i) else t1.putColl c1)
    | e => { s with offers := p :: s.offers }.collStep c i (s.nodePort c i) e

/-- A packet of a collective in progress: its signature and length are compared first (R346, R349); it is applied when its RECV
is ready, and kept until then. -/
def State.takeChunk (s : State) (c : Coll) (p : ChunkFlit) : Except Fault State :=
  match c.screen p with
  | some what => .ok (s.stopColl { c with cause := p.tag } what)
  | none => match c.recvOf p.src p.ordinal with
    | some i =>
      if c.running && c.stopped.isNone && (c.state i).pending && !(s.offers.any fun q => q.same p) && !s.mustAsk c i then
        s.applyChunk c i p
      else if (c.state i).done then .ok s
      else .ok { s with offers := s.offers ++ [p] }
    | none => .ok s

/-- A packet of chunk data delivered (R345 to R347, R349): to its collective, or kept until its sequence is issued. -/
def State.deliverChunk (s : State) (p : ChunkFlit) : Except Fault State :=
  match s.coll p.comm p.seq with
  | some c => if c.status = 0 then s.takeChunk c p else .ok s
  | none => .ok (if s.isIssued p.comm p.seq then s else { s with offers := s.offers ++ [p] })

/-- CHUNK_FLIT_RECEIVE (R338, R345 to R347, R349): a write request of a peer, delivered once and answered; answered again from the
filter; discarded when it is too old; while the filter is full it stays with its issuer for want of credit. -/
def execChunkFlitReceive (p : ChunkFlit) (s : State) : Host.Outcome State Fault Refusal :=
  let port := s.rankPort p.comm p.seq p.src
  let src := p.dev.toNat
  let s1 := s.gotPacket p.comm p.seq p.src p.tag
  if s.recovery then .next s
  else if p.reqId = 0 then outcomeOf (s1.deliverChunk p)
  else match s1.filterOf port src p.reqId with
    | some e => .next ((s1.respond port src p.reqId (e.value.setWidth 128) 0).bump (ctrPort port 7))
    | none =>
      if s1.filterFull port then .next (s.bump (ctrPort port 8))
      else if !inTime p.times then .next s1
      else outcomeOf (((s1.keepResponse port src p.reqId 0).respond port src p.reqId 0 0).deliverChunk p)

/-- A notice takes hold, or waits for its sequence to be issued here (R349, R355). -/
def State.takeNotice (s : State) (comm : Nat) (seq : Word) (src : Sender) (what : Ending) (tag : DWord) : State :=
  let s1 := s.gotPacket comm seq src.rank tag
  s1.compared comm seq src tag (match s1.coll comm seq with
    | some c => s1.applyEnding { c with cause := tag } what
    | none => if s1.isIssued comm seq then s1 else { s1 with notices := s1.notices ++ [⟨comm, seq, src, what⟩] })

/-- MISMATCH_NOTICE (R346, R349): `rankA` found the mismatch in a packet of `rankB`; a member that learns of it records the notice's
contents. -/
def execMismatchNotice (comm : Nat) (seq : Word) (rankA rankB : Nat) (sigA sigB : Sig) (tag : DWord) (s : State) :
    Host.Outcome State Fault Refusal :=
  .next (s.takeNotice comm seq ⟨rankA, none⟩ (.mismatch rankA rankB sigA sigB) tag)

/-- ABORT_NOTICE (R355): a notice of a watchdog names the late rank (R360). -/
def execAbortNotice (comm : Nat) (seq : Word) (src : Sender) (late : Option Nat) (tag : DWord) (s : State) :
    Host.Outcome State Fault Refusal :=
  .next (s.takeNotice comm seq src (match late with | some r => .watchdog r | none => .aborted) tag)

/-! ### Nodes -/

/-- A COPY runs (R345, R347). -/
def State.runCopy (s : State) (c : Coll) (i : Nat) : Except CollErr State := do
  let n := c.node i
  let ch := c.chunk n
  let t ← State.collMove c n.red n.src ch.1 n.dst ch.1 ch.2 s
  .ok ((t.noteSpans c (c.reads i ++ c.writes i)).nodeWrote c i (c.writes i))

/-- A SEND to another rank: its chunk leaves as a request with an id and the time of its first transmission (R338, R345). -/
def State.runSend (s : State) (c : Coll) (i : Nat) : Except CollErr State := do
  let n := c.node i
  let ch := c.chunk n
  let vs ← s.collRead c n.src ch.1 ch.2
  let data := vs.flatMap fun v => leBytes c.esize v
  let p := s.nodePort c i
  let id := s.nextReq p
  let first := Config.sendTime p id
  let k : ChunkFlit :=
    { comm := c.comm, seq := c.seq, src := c.myrank, ordinal := c.ordinal i, len := ch.2, sig := c.sig, data := data, tag := 0
      dev := s.device, reqId := id, times := ⟨first, 0⟩ }
  let r : Req := { port := p, id := id, ea := c.addr n.src ch.1, acc := 7, tries := 0, dev := c.devOf (c.peer n), size := data.length
                   first := first, op := .store, chunk := some k }
  let t := { s.noteSpans c (c.reads i) with reqIds := Store.put p id s.reqIds }.sendRequest r
  .ok (t.putColl (c.carrying i ⟨[r], true, true⟩))

/-- A SEND to this member meets its RECV (R346): both complete when the RECV is ready. -/
def State.runSelf (s : State) (c : Coll) (i j : Nat) : Except CollErr State :=
  let a := c.chunk (c.node i)
  let b := c.chunk (c.node j)
  if a.2 != b.2 then .ok (s.stopColl c (.mismatch c.myrank c.myrank c.sig c.sig))
  else do
    let t ← State.collMove c (c.node j).red (c.node i).src a.1 (c.node j).dst b.1 a.2 s
    let sk := engSkipper (t.nodePort c i)
    let t1 := t.advance sk
    let c1 := { c with st := c.st.set j { c.state j with got := b.2 * c.esize, cause := t1.tagOf sk } }
    .ok ((t1.noteSpans c (c.readsOf i ++ c.writes j)).nodeWrote c1 i (c.writes j))

/-- The oldest packet that waits for a RECV. -/
def State.offerFor (s : State) (c : Coll) (i : Nat) : Option ChunkFlit :=
  s.offers.find? fun p => p.comm == c.comm && p.seq == c.seq && c.recvOf p.src p.ordinal == some i

/-- Has the RECV that a SEND meets granted its credit (R346)? -/
def State.hasCredit (s : State) (c : Coll) (i : Nat) : Bool :=
  s.credits.any fun x => x.comm == c.comm && x.seq == c.seq && x.src == c.peer (c.node i) && x.ordinal == c.ordinal i

/-- Can a pending node go on? A COPY can; a RECV once a packet waits for it; a SEND to another rank once that rank has granted its
credit, to this member's own RECV once that one is ready (R345, R346). -/
def State.canRun (s : State) (c : Coll) (i : Nat) : Bool :=
  match (c.node i).kind with
  | 1 => (s.offerFor c i).isSome
  | 2 => true
  | _ => if c.peer (c.node i) = c.myrank then (c.selfRecv i).any fun j => (c.state j).pending else s.hasCredit c i

/-- A ready RECV takes the oldest packet that waits for it. -/
def State.runRecv (s : State) (c : Coll) (i : Nat) : Except Fault State :=
  match s.offerFor c i with
  | some p => { s with offers := s.offers.erase p }.applyChunk c i p
  | none => .ok s

/-- A ready node runs (R345): first it asks for what it reads on pages of other devices; once all of its packets have been accepted it
completes. -/
def State.runNode (s : State) (c : Coll) (i : Nat) : Except Fault State :=
  let port := s.nodePort c i
  if (c.state i).carry.sent then .ok (s.nodeEnd c i)
  else if !s.canRun c i then .ok s
  else if s.mustAsk c i then
    let q := s.askElems c (c.readsOf i)
    .ok (q.1.putColl (c.carrying i ⟨q.2, true, false⟩))
  else match (c.node i).kind with
    | 1 => s.runRecv c i
    | 2 => s.collStep c i port (s.runCopy c i)
    | _ => s.collStep c i port (match c.selfRecv i with
      | some j => s.runSelf c i j
      | none => s.runSend c i)

/-- COLLECTIVE_NODE (R345, R351): of a stopped collective, the control processor's service of its fault (R256, R350). -/
def execCollectiveNode (comm : Nat) (seq : Word) (node : Nat) (s : State) : Host.Outcome State Fault Refusal :=
  match s.coll comm seq with
  | some c =>
    if !(c.status = 0 && c.running && (c.state node).pending) then .next s
    else match c.stopped with
      | some t => .next (s.serviceColl c (s.nodePort c node) t)
      | none => outcomeOf (s.runNode c node)
  | none => .next s

/-! ### The end of a collective (R350) -/

/-- Is every node complete? -/
def Coll.allDone (c : Coll) : Bool := c.st.all fun n => n.done

/-- Does a lone member copy IN to OUT? -/
def Coll.alone (c : Coll) : Bool := c.nrank == 1 && c.bufs.getD 0 0 != c.bufs.getD 1 0

/-- The word that FLAG names. -/
def State.flagLoc (s : State) (c : Coll) : Except CollErr (Option Loc) :=
  if c.flag = 0 then .ok none
  else if c.flag.toNat % 8 != 0 then .error (collBad c.asid ⟨.align, 7, 0, 0xD, c.flag, 1, 3⟩)
  else match State.collLoc { s with hostDown := [] } c true 8 c.flag with
    | .ok l => .ok (some l)
    | .error e => .error e

/-- The end of a successful collective after its writes: one arrival on BAR, then FLAG, and status 1 once FLAG is written. -/
def State.finishTell (s : State) (c : Coll) : Except CollErr State := do
  let l ← s.flagLoc c
  if c.bar.any fun b => s.ownedBefore c.cmd (.scratch b.1 b.2) 64 true then .error (.wait true)
  else
    let sk := engSkipper s.lowPort
    let t := match c.bar with
      | some b =>
        let u := s.advance sk
        u.barApply b.1 b.2 1 0 (u.tagOf sk) none 0
      | none => s
    match l with
    | none => .ok (t.endColl c 1 none 0xFFFF)
    | some l =>
      if (t.deadHost [⟨0, c.flag, l⟩]).isSome then .ok (t.endColl c 3 (some .outcomeUnknown) 0xFFFF)
      else
        let u := (t.noteVas c.core c.asid [c.flag]).writeHomeBytes l 0 (leBytes 8 c.flagv.toNat)
        let q := u.askPeers 7 8 (fun _ => askStore c.flagv.toNat) [⟨0, c.flag, l⟩]
        .ok (if q.2 = [] then q.1.endColl c 1 none 0xFFFF else q.1.putColl { c with stage := 3, closing := q.2 })

/-- The copy of a lone member, then the rest of the end once its writes are performed. -/
def State.finishCopy (s : State) (c : Coll) : Except CollErr State :=
  if !c.alone then s.finishTell c
  else do
    let t ← State.collMove c false 0 0 1 0 c.count s
    let q := (t.noteSpans c [⟨0, 0, c.count⟩, ⟨1, 0, c.count⟩]).tellElems c [⟨1, 0, c.count⟩]
    if q.2 = [] then q.1.finishTell c else .ok (q.1.putColl { c with stage := 2, closing := q.2 })

/-- The end of a successful collective (R350): its writes, one arrival on BAR, FLAG, status 1. What Cirrus carries of it goes first or
is answered first. -/
def State.finishColl (s : State) (c : Coll) : Except CollErr State :=
  match c.stage with
  | 0 =>
    let q := if c.alone then s.askElems c [⟨0, 0, c.count⟩] else (s, [])
    if q.2 = [] then s.finishCopy c else .ok (q.1.putColl { c with stage := 1, closing := q.2 })
  | 1 => s.finishCopy c
  | 2 => s.finishTell c
  | _ => .ok (s.endColl c 1 none 0xFFFF)

/-- COLLECTIVE_COMPLETE (R350): of a stopped collective, the service of its fault; of one that is over, FAB falls once the older writes on
FAB have been acknowledged (R261). -/
def execCollectiveComplete (comm : Nat) (seq : Word) (s : State) : Host.Outcome State Fault Refusal :=
  match s.coll comm seq with
  | some c =>
    if c.status != 0 then .next (if c.lowered then s else s.lowerFab c.grp c.team)
    else if !(c.running && (c.nrank == 1 || c.allDone)) then .next s
    else match c.stopped with
      | some t => .next (s.serviceColl c s.lowPort t)
      | none => outcomeOf (s.collStep c 0xFFFF s.lowPort (s.finishColl c))
  | none => .next s

/-- Has the gate's phase completed (R350)? -/
def State.gateOpen (s : State) (c : Coll) : Bool :=
  match c.gate with
  | some r => (s.armedAt r.1 r.2).isSome && (s.readBar r.1 r.2).phase != c.gph
  | none => false

/-- COLLECTIVE_GATE_OPEN (R350). -/
def execCollectiveGateOpen (comm : Nat) (seq : Word) (s : State) : Host.Outcome State Fault Refusal :=
  .next (match s.coll comm seq with
    | some c => if c.status = 0 && !c.running && s.gateOpen c then s.startColl c else s
    | none => s)

/-- SWITCH_COLLECTIVE_ABORT (R361): a collective that outlasts the drain of its context's switch is aborted. -/
def execSwitchCollectiveAbort (comm : Nat) (seq : Word) (s : State) : Host.Outcome State Fault Refusal :=
  .next (match s.coll comm seq with
    | some c =>
      if c.status = 0 && s.switches.any fun x => x.core == c.core && x.outgoing == c.asid then s.stopColl c .aborted else s
    | none => s)

/-! ### Watchdogs (R360, R411) -/

/-- The lowest group expected and not arrived. -/
def lowestMissing (p : DWord × DWord) : Nat := ((List.range 64).find? fun i => (p.1 &&& ~~~p.2).getLsbD i).getD 0

/-- The answer to a probe (R360). -/
def State.answerOf (s : State) (comm : Nat) (seq : Word) : Answer :=
  match s.coll comm seq with
  | none => if s.isIssued comm seq then .done else .notIssued
  | some c =>
    if c.status != 0 then .done
    else if !c.running then
      let r := c.gate.getD (0, 0)
      .localParty (abarObj r.1 r.2) (lowestMissing (s.barParties r))
    else .blocked (((c.pending.filter fun i => (c.node i).kind != 2).map c.awaited).eraseDups.take 8)

/-- The device of a rank for an answer: from the sequence's copy of RMAP, else from RMAP as it stands. -/
def State.rankDev (s : State) (comm : Nat) (seq : Word) (rank : Nat) : BitVec 16 :=
  match s.coll comm seq with
  | some c => c.devOf rank
  | none =>
    let x := s.comm comm
    BitVec.ofNat 16 ((s.lxRead x.asid (x.rmap + BitVec.ofNat 64 (2 * rank)) 2).getD 0)

/-- PROBE (R360): its signature is compared (R349), and the state at this instant is sent back; a communicator that is not valid gives no
answer. -/
def execProbe (comm : Nat) (seq : Word) (fromRank : Sender) (tag : DWord) (s : State) : Host.Outcome State Fault Refusal :=
  let s1 := s.gotPacket comm seq fromRank.rank tag
  let d := s1.rankDev comm seq fromRank.rank
  let t := s1.compared comm seq fromRank tag s1
  let p := t.skipPort d
  let h : Sent := { port := p, dev := d, tag := 0, pkt := .answer comm seq (t.answerOf comm seq), sig := (t.coll comm seq).map Coll.sig }
  .next (if (s.comm comm).nrank = 0 then s1 else t.sendHead (engSkipper p) h 0)

/-- The code of an answer in a watchdog record (R411). -/
def answerCode (a : Option Answer) : Nat :=
  match a with
  | some (.blocked _) => 0 | some .notIssued => 1 | some (.localParty _ _) => 2 | _ => 3

/-- The group that an answer names. -/
def answerGroup (a : Option Answer) : Nat := match a with | some (.localParty _ g) => g | _ => 0

/-- The watchdog record of a step with what follows from it (R360, R411): one interrupt per collective, and with WDACT the end of
the sequence. -/
def State.report (s : State) (c : Coll) (node named : Nat) (a : Option Answer) : State :=
  let x := s.comm c.comm
  let port := if node = 65535 then s.lowPort else s.nodePort c node
  let payload := BitVec.ofNat 96 ((s.word0 2 (stepObj c.comm node)).toNat + 2 ^ 64 * (named % 65536)
    + 2 ^ 80 * (answerGroup a % 64) + 2 ^ 86 * answerCode a)
  let s1 := (s.emit (engSkipper port) 0x09 (some c.asid) payload).bump (ctrSkip port 4)
  let c1 := { c with irqSent := true, walks := c.walks.filter fun w => w.node != node }
  let s2 := s1.putColl c1
  let s3 := if c.irqSent then s2 else s2.irq x.port.toNat 62
  if x.wdact then s3.stopColl c1 (.watchdog named) else s3

/-- The latest tag known of a rank, by its sequence (R360). -/
def State.lastSeq (s : State) (c : Coll) (w : Walk) (rank : Nat) : Nat :=
  let a := match w.answers.find? fun x => x.1 == rank with
    | some x => (x.2.2.setWidth 36).toNat
    | none => 0
  max ((Store.get 0 s.lastk (c.comm * 65536 + rank)).setWidth 36).toNat a

/-- The rank of a list with the lowest known sequence, the lowest rank among several (R360). -/
def State.nameLate (s : State) (c : Coll) (w : Walk) : Nat :=
  let l := if w.late = [] then w.seen else w.late
  let less (a b : Nat) : Bool := s.lastSeq c w a < s.lastSeq c w b || (s.lastSeq c w a == s.lastSeq c w b && a < b)
  l.foldl (fun best r => if less r best then r else best) (l.headD c.myrank)

/-- A walk goes on: the next remote rank is probed, or the late one is named (R360). -/
def State.advanceWalk (s : State) (c : Coll) (w : Walk) : State :=
  let next := if w.seen.length < 64 then w.seen.find? fun r => r != c.myrank && !(w.answers.any fun a => a.1 == r) else none
  match next with
  | some q =>
    let c1 := { c with walks := { w with waiting := q } :: c.walks.filter fun x => x.node != w.node }
    (s.putColl c1).sendRank c1 q (.probe c.comm c.seq w.node) 0
  | none =>
    let named := s.nameLate c w
    let a := if named = c.myrank then some (s.answerOf c.comm c.seq)
      else match w.answers.find? fun x => x.1 == named with
        | some x => x.2.1
        | none => none
    s.report c w.node named a

/-- COLLECTIVE_WATCHDOG (R360): the deadline of a pending step has passed. -/
def execCollectiveWatchdog (comm : Nat) (seq : Word) (node : Nat) (s : State) : Host.Outcome State Fault Refusal :=
  .next (match s.coll comm seq with
    | none => s
    | some c =>
      if !c.pending.contains node || c.tripped.contains node || (s.comm comm).deadline = 0 then s
      else
        let c1 := { c with tripped := node :: c.tripped }
        let s1 := s.putColl c1
        if node = 65535 then s1.report c1 node c1.myrank (some (s1.answerOf comm seq))
        else s1.advanceWalk c1 { node := node, seen := [c1.awaited node], late := [], answers := [], waiting := 0 })

/-- What an answer, or its absence, adds to a walk (R360). -/
def Walk.add (w : Walk) (rank : Nat) (a : Option Answer) (tag : DWord) : Walk :=
  let w1 := { w with answers := w.answers ++ [(rank, a, tag)] }
  match a with
  | some (.blocked rs) => { w1 with seen := w1.seen ++ (rs.take 8).eraseDups.filter fun r => !w1.seen.contains r }
  | some .done => w1
  | _ => { w1 with late := w1.late ++ [rank] }

/-- The walk that waits for a rank's answer goes on. -/
def State.answered (s : State) (comm : Nat) (seq : Word) (node rank : Nat) (a : Option Answer) (tag : DWord) : State :=
  match s.coll comm seq with
  | none => s
  | some c => match c.walks.find? fun w => w.node == node && w.waiting == rank with
    | some w => if c.status = 0 then s.advanceWalk c (w.add rank a tag) else s
    | none => s

/-- PROBE_ANSWER (R360). -/
def execProbeAnswer (comm : Nat) (seq : Word) (node : Nat) (rank : Sender) (ans : Answer) (tag : DWord) (s : State) :
    Host.Outcome State Fault Refusal :=
  let s1 := s.gotPacket comm seq rank.rank tag
  .next (s1.compared comm seq rank tag (s1.answered comm seq node rank.rank (some ans) tag))

/-- PROBE_TIMEOUT (R360). -/
def execProbeTimeout (comm : Nat) (seq : Word) (node rank : Nat) (s : State) : Host.Outcome State Fault Refusal :=
  .next (s.answered comm seq node rank none 0)

/-! ### The link layer (R332 to R334) -/

/-- A link-level message: it is no packet of an engine and takes no tag of its own. -/
def State.sendLink (s : State) (port : Nat) (pkt : Packet) : State :=
  let p : Sent := { port := port, dev := s.device, tag := 0, pkt := pkt }
  { s with outbox := s.outbox ++ [p] }

/-- Does the peer of a port withhold credit (R338, log entry 87)? -/
def State.heardCredit (s : State) (port : Nat) (ack : BitVec 8) : State :=
  { s with noCredit := if ack = 0 then port :: s.noCredit.filter fun p => p != port else s.noCredit.filter fun p => p != port }

/-- A credit of a peer's RECV: its signature is compared (R349), and it is kept until its sequence is over (R346). -/
def State.takeCredit (s : State) (c : Credit) (tag : DWord) : State :=
  let s1 := s.gotPacket c.comm c.seq c.src tag
  s1.compared c.comm c.seq ⟨c.src, some c.sig⟩ tag
    (if s1.credits.contains c || (s1.coll c.comm c.seq).any (fun x => x.status != 0) then s1 else { s1 with credits := s1.credits ++ [c] })

/-- FLIT_RECEIVE (R332, R342, R346): a flit is delivered, or asked for again when its CRC fails; `fec` corrections were made below it
(R363). What a packet does is the step of its kind; a packet that carries a credit, `credit`, acts here (log entry 87). -/
def execFlitReceive (port : Nat) (crcOk : Bool) (fec : Nat) (h : FlitHead) (credit : Option Credit) (s : State) : Host.Outcome State Fault Refusal :=
  .next (if 16 ≤ port || s.recovery || s.portsDown.contains port then s
    else
      let s1 := s.bumpBy (ctrPort port 5) fec
      if !crcOk then (s1.bump (ctrPort port 3)).sendLink port (.resend h.linkSeq)
      else
        let s2 := (((s1.receive (engPort port) h.tag).bump (ctrPort port 1)).bump (ctrPort port 2) h.bytes.toNat).heardCredit port h.ack
        match credit with
        | some c => s2.takeCredit c h.tag
        | none => s2)

/-- LINK_REPLAY (R332): a flit that the other side asks for is sent again from the replay buffer, as it was. -/
def execLinkReplay (port : Nat) (linkSeq : BitVec 24) (s : State) : Host.Outcome State Fault Refusal :=
  .next (if 16 ≤ port || s.portsDown.contains port then s
    else match s.replayBuf.find? fun f => f.port == port && f.linkSeq == linkSeq with
      | some f => { s.bump (ctrPort port 4) with outbox := s.outbox ++ [f] }
      | none => s)

/-- The fault record of a part of a port (R333, R427): the part stands in EPC, with the replayed flag (log entry 24). Vector 63 tells the
hosts (R418). -/
def State.portRecord (s : State) (port part : Nat) : State :=
  (s.emit (engPort port) 0x0A none (faultPayload 0 0 0 (BitVec.ofNat 64 (part + 256 * port)) 0 false true false)).deviceIrq

/-- A port is down (R333, R334, R351): routes, requests that are sent again and COPY nodes fall to the ports that remain. -/
def State.downPort (s : State) (port : Nat) : State := { s with portsDown := port :: s.portsDown }.portRecord port 0xFF

/-- LANE_RETRAIN (R333): the spare lane takes over; a port has one, and is down when it loses a second lane. -/
def execLaneRetrain (port lane : Nat) (s : State) : Host.Outcome State Fault Refusal :=
  .next (if 16 ≤ port || 8 ≤ lane || s.portsDown.contains port then s
    else if s.lanesLost.contains port then s.downPort port
    else ({ s with lanesLost := port :: s.lanesLost }.portRecord port lane).bump (ctrPort port 6))

/-- PORT_DOWN (R333, R334, R351). -/
def execPortDown (port : Nat) (s : State) : Host.Outcome State Fault Refusal :=
  .next (if 16 ≤ port || s.portsDown.contains port then s else s.downPort port)

/-! ### Requests between devices (R335, R336, R338, R339) -/

/-- The bytes of HBM that a peer's request writes are good again when they replace the checked units whole (R426, log entry 80). -/
def State.mendHome (s : State) (pa n : Nat) : State :=
  let l : Loc := .hbm pa
  let written := l.cells n
  if (l.restOf n).any fun c => s.poison.contains c && !written.contains c then s
  else { s with poison := s.poison.filter fun c => !written.contains c }

/-- A request of a peer performed at its home (R335, R336): the state and the response. -/
def State.peerPerform (s : State) (op : PeerOp) (pa size : Nat) (data : BitVec 128) (cmp : DWord) : State × BitVec 128 :=
  let old := leValue (s.hbm.bytes pa size)
  let w (v : Nat) : State := { s with hbm := s.hbm.setBytes pa (leBytes size v) }
  match op with
  | .load => (s, BitVec.ofNat 128 old)
  | .store => ((w data.toNat).mendHome pa size, 0)
  | .atomic fn ty mode draw daz ftz =>
    let o : AtomOp := { fn := fn.toNat, ty := ty, b := data.toNat % 2 ^ (8 * size), cmp := cmp.toNat % 2 ^ (8 * size), mode := mode.val
                        draw := draw.toNat, daz := daz, ftz := ftz }
    (w (o.apply old), BitVec.ofNat 128 old)

/-- Does the request read data of this device that is uncorrectable? It gets no response then: its issuer is told by the lack of one
(R207, R339, R426, log entry 80). -/
def State.peerLost (s : State) (op : PeerOp) (pa size : Nat) : Bool :=
  (match op with | .store => false | _ => true) && (List.range size).any (s.isBad (.hbm pa))

/-- A request of a peer that nothing holds back: it is answered again from the filter, or performed and answered. -/
def State.servePeer (s : State) (port src : Nat) (reqId : DWord) (op : PeerOp) (pa size : Nat) (data : BitVec 128) (cmp : DWord) : State :=
  match if reqId = 0 then none else s.filterOf port src reqId with
  | some e => (s.respond port src reqId (e.value.setWidth 128) size).bump (ctrPort port 7)
  | none =>
    if s.peerLost op pa size then s
    else
      let r := s.peerPerform op pa size data cmp
      (r.1.keepResponse port src reqId (r.2.setWidth 64)).respond port src reqId r.2 size

/-! ### Inputs that wait on an owned line (R234, R235) -/

/-- Bytes written by a host (R235). -/
def State.hostBytes (s : State) (addr : Nat) (data : List Byte) : State :=
  { s with hbm := s.hbm.setBytes addr data }.mendHome addr data.length

/-- Is an input performed after another one that came before it: a host write in posted order, a request of the same device on the same
port (R235, log entry 113)? -/
def follows (i j : Instr) : Bool :=
  match i, j with
  | .hostWrite p _ _ relaxed, .hostWrite q _ _ _ => p == q && !relaxed
  | .peerRequest p a _ _ _ _ _ _ _ _, .peerRequest q b _ _ _ _ _ _ _ _ => p == q && a == b
  | _, _ => false

/-- The first byte of HBM of an input, when it meets an owned line. -/
def State.inputOwned (s : State) (i : Instr) : Option Nat :=
  match i with
  | .hostWrite _ addr data _ => if s.isOwned (.hbm addr) data.length true then some addr else none
  | .peerRequest _ _ _ _ op pa size _ _ _ => if s.isOwned (.hbm pa) size (!op.isLoad) then some pa else none
  | _ => none

/-- Must an input wait: for its line, or behind one of those that wait? -/
def State.mustHold (s : State) (held : List Instr) (i : Instr) : Bool := (s.inputOwned i).isSome || held.any (follows i)

/-- An input waits; one that waits for its line is counted (R243, log entry 101). -/
def State.holdInput (s : State) (i : Instr) : State :=
  let s1 := { s with inbox := s.inbox ++ [i] }
  match s.inputOwned i with
  | some pa => s1.bump (ctrOwned (Loc.die (.hbm pa)))
  | none => s1

/-- An input that waited is performed. -/
def State.performInput (s : State) (i : Instr) : State :=
  match i with
  | .hostWrite _ addr data _ => s.hostBytes addr data
  | .peerRequest port src reqId _ op pa size data cmp _ => s.servePeer port src reqId op pa size data cmp
  | _ => s

/-- The inputs that need not wait any more are performed in their order; the others, `held`, go on waiting. -/
def State.releaseInputs (held : List Instr) : List Instr → State → State
  | [], s => { s with inbox := held }
  | i :: is, s =>
    if s.mustHold held i then State.releaseInputs (held ++ [i]) is s else State.releaseInputs held is (s.performInput i)

/-- PEER_REQUEST (R335, R336, R338): performed once, answered again from the filter, discarded when it is
too old; while the filter is full it stays with its issuer for want of credit; one that meets an owned line waits until the line is
free (R234). -/
def execPeerRequest (port src : Nat) (reqId : DWord) (times : ReqTimes) (op : PeerOp) (pa size : Nat) (data : BitVec 128) (cmp tag : DWord)
    (s : State) : Host.Outcome State Fault Refusal :=
  let i : Instr := .peerRequest port src reqId times op pa size data cmp tag
  let s1 := s.receive (engPort port) tag
  let new := reqId != 0 && (s1.filterOf port src reqId).isNone
  .next (if 16 ≤ port || s.recovery || op.maxSize < size || Config.hbmBytes < pa + size then s
    else if new && s1.filterFull port then s.bump (ctrPort port 8)
    else if new && !inTime times then s1
    else if (new || reqId == 0) && s.mustHold s.inbox i then s1.holdInput i
    else s1.servePeer port src reqId op pa size data cmp)

/-- FILTER_ENTRY_EXPIRY (R338). -/
def execFilterEntryExpiry (port src : Nat) (reqId : DWord) (s : State) : Host.Outcome State Fault Refusal :=
  .next { s with filters := s.filters.filter fun e => !(e.port == port && e.src == src && e.id == reqId) }

/-- Is it the request? -/
def Req.named (r : Req) (port : Nat) (id : DWord) : Bool := r.port == port && r.id == id

/-- A request without response is sent once more, at most seven times. -/
def Req.again (port : Nat) (id : DWord) (r : Req) : Req :=
  if r.named port id && r.tries < 7 then { r with tries := r.tries + 1 } else r

/-- Does the request have a retransmission left? -/
def Req.due (port : Nat) (id : DWord) (r : Req) : Bool := r.named port id && r.tries < 7

/-- The requests that Cirrus carries for a collective in progress. -/
def Coll.reqs (c : Coll) : List Req := if c.status = 0 then (c.st.flatMap fun n => n.carry.reqs) ++ c.closing else []

/-- The requests of every group, collective, copy command and ring. -/
def State.allReqs (s : State) : List Req :=
  (s.groups.flatMap fun p => (p.2.acks.flatMap fun a => a.reqs) ++ p.2.loads.flatMap fun l => l.reqs)
    ++ s.colls.flatMap Coll.reqs ++ (s.copies.flatMap fun c => c.carry.reqs) ++ s.rings.flatMap fun r => r.cmd.carry.reqs

/-- Every request carried for an engine's work changed. -/
def Carry.map (f : Req → Req) (k : Carry) : Carry := { k with reqs := k.reqs.map f }

/-- Every request changed. -/
def State.mapReqs (s : State) (f : Req → Req) : State :=
  { s with
    groups := s.groups.map fun p => (p.1, { p.2 with
      acks := p.2.acks.map fun a => { a with reqs := a.reqs.map f }
      loads := p.2.loads.map fun l => { l with reqs := l.reqs.map f } })
    colls := s.colls.map fun c => { c with st := c.st.map fun n => { n with carry := n.carry.map f }, closing := c.closing.map f }
    copies := s.copies.map fun c => { c with carry := c.carry.map f }
    rings := s.rings.map fun r => { r with cmd := { r.cmd with carry := r.cmd.carry.map f } } }

/-- RETRANSMIT_TIMEOUT (R338) of a request by the port that numbered it: it leaves again, with its payload, on the port that its page or
its Skipper selects among those that are up (R333, R334, R351). Timers do not run while the peer withholds credit. Loads carry id 0 and
are not sent again. -/
def execRetransmitTimeout (port : Nat) (reqId : DWord) (s : State) : Host.Outcome State Fault Refusal :=
  .next (match if reqId = 0 then none else s.allReqs.find? (Req.due port reqId) with
    | some r => if s.noCredit.contains (s.reqPort r) then s else (s.mapReqs (Req.again port reqId)).sendRequest r
    | none => s)

/-- The fault record of a request whose outcome became unknown (R363). -/
def State.unknownRecord (s : State) (port : Nat) (ctx : Option (BitVec 16)) (gf : BitVec 6) (finfo : DWord) : State :=
  (s.emit (engPort port) 0x0A ctx (faultPayload FCode.outcomeUnknown.num 0 gf 0 finfo false false false)).bump (ctrPort port 9)

/-- The requests of a list that are not the named one. -/
def otherReqs (port : Nat) (id : DWord) (l : List Req) : List Req := l.filter fun r => !r.named port id

/-- A write of a group whose request is given up (R339): the fault goes with its acknowledgement to the wait whose return covers it,
and the write counts as acknowledged once none of its requests is left. -/
def State.loseAck (s : State) (k port : Nat) (id : DWord) : State :=
  let g := s.group k
  match (g.acks.flatMap fun a => (a.reqs.filter fun r => r.named port id).map fun r => (a, r)).head? with
  | none => s
  | some (a, r) =>
    let paths : List Path := if a.paths.contains .fab then [.stg, .fab] else [.stg]
    let left := otherReqs port id a.reqs
    let a1 := { a with
      reqs := left, home := a.home || left.isEmpty
      lose := a.lose ++ paths.map fun p => ⟨.path p, .outcomeUnknown, r.ea, reqFinfo r.acc id⟩ }
    let g1 := { g with acks := g.acks.map fun x => if x == a then a1 else x }
    let s1 := (s.putGroup k g1).unknownRecord port (some g.asid) g.gField (reqFinfo r.acc id)
    if left = [] && firstAck (s1.ackFree k) [] g1.acks == some a1 then s1.lowerAck k a1 else s1

/-- What a read of a group loses when its request is given up (R339): an `atom` OUTCOME_UNKNOWN, with its record; a load DATA_LOST, of
which no outcome is unknown. -/
def State.loseLoad (s : State) (k port : Nat) (id : DWord) : State :=
  let g := s.group k
  match (g.loads.flatMap fun l => (l.reqs.filter fun r => r.named port id).map fun r => (l, r)).head? with
  | none => s
  | some (l, r) =>
    let e := s.lossErr g.core g.asid r.acc r.size r.ea
    let bad : FCode × DWord × DWord := if id = 0 then (.dataLost, r.ea, e.finfo g.asid) else (.outcomeUnknown, r.ea, reqFinfo r.acc id)
    let l1 := { l with reqs := otherReqs port id l.reqs, bad := l.bad.or (some bad) }
    let s1 := s.putGroup k { g with loads := g.loads.map fun x => if x == l then l1 else x }
    if id = 0 then s1 else s1.unknownRecord port (some g.asid) g.gField (reqFinfo r.acc id)

/-- DATA_LOST of a load that Cirrus carried for an engine and that had no response (R339, R256). -/
def State.unansweredLoad (s : State) (core : Nat) (asid : BitVec 16) (r : Req) : TrapInfo :=
  let e := s.lossErr core asid 0 r.size r.ea
  ⟨e.code, e.faddr, e.finfo asid, 0, true, false⟩

/-- A collective whose data's outcome is unknown completes with that status (R339); one whose load has no response meets DATA_LOST. -/
def State.loseColl (s : State) (c : Coll) (port : Nat) (id : DWord) (r : Req) : State :=
  if id = 0 then s.haltColl c port (s.unansweredLoad c.core c.asid r)
  else (s.endColl c 3 (some .outcomeUnknown) 0xFFFF).unknownRecord port (some c.asid) 0 (collFinfo c.comm c.seq 0xFFFF)

/-- A copy command whose request is given up (log entry 111): a write is told to the wait on COPY that covers the command; a load stops it
with DATA_LOST. -/
def State.loseCopy (s : State) (c : CopyCmd) (port : Nat) (id : DWord) (r : Req) : State :=
  let t := s.unansweredLoad c.core c.asid r
  let left : CopyCmd := { c with carry := { c.carry with reqs := otherReqs port id c.carry.reqs } }
  let c1 := if id = 0 then { left with stopped := some t } else left
  let put (y : CopyCmd) : CopyCmd := if y.id == c.id then c1 else y
  let s1 := { s with copies := s.copies.map put, rings := s.rings.map fun (x : Ring) => { x with cmd := put x.cmd } }
  if id = 0 then s1.parkFor c t
  else
    let g := s1.group c.grp
    let lost : Nat × Loss := (c.id, ⟨.path .copy, .outcomeUnknown, r.ea, reqFinfo r.acc id⟩)
    (s1.putGroup c.grp { g with copyLost := g.copyLost ++ [lost] }).unknownRecord port (some c.asid) g.gField (reqFinfo r.acc id)

/-- OUTCOME_UNKNOWN (R339): of the group, the collective or the copy command that sent the request; with id 0 it is a load of the first
that has one outstanding on the port. -/
def execOutcomeUnknown (port : Nat) (reqId : DWord) (s : State) : Host.Outcome State Fault Refusal :=
  let has (l : List Req) : Bool := l.any fun r => r.named port reqId
  let first (l : List Req) : Option Req := l.find? fun r => r.named port reqId
  .next (match s.groups.find? fun p => has (p.2.acks.flatMap fun a => a.reqs) with
    | some p => s.loseAck p.1 port reqId
    | none => match s.groups.find? fun p => has (p.2.loads.flatMap fun l => l.reqs) with
      | some p => s.loseLoad p.1 port reqId
      | none => match s.colls.findSome? fun c => (first c.reqs).map fun r => (c, r) with
        | some x => s.loseColl x.1 port reqId x.2
        | none => match (s.copies ++ s.rings.map fun r => r.cmd).findSome? fun c => (first c.carry.reqs).map fun r => (c, r) with
          | some x => s.loseCopy x.1 port reqId x.2
          | none => s)

end Sys2Proof.Machine
end

