-- ==== Sys2Proof/Machine/System.lean ====
section
/-! DEFINITION. System, trap and debug instructions, and the events of PC sampling, Jetstream and core dumps (chapter 15,
R364 to R392, with R21, R41 to R47). -/

namespace Sys2Proof.Machine

/-! ### Privilege (R364) -/

/-- PRIVILEGE, decided at decode (R65 order 5): the trap mask is the active lanes. -/
def State.privStop (s : State) (detail : BitVec 8 := 0) : Stop := trapGen .privilege detail s.g.mask

/-- An instruction that user mode may not issue without debug privilege. -/
def State.needSuper (s : State) (dbgToo : Bool) : Except Stop Unit := require (s.g.mode || (dbgToo && s.g.dbg)) s.privStop

/-- An instruction that needs debug privilege. -/
def State.needDebug (s : State) : Except Stop Unit := require s.g.dbg s.privStop

/-- May the group name this context: is it on the attach list of its debug context (R374)? -/
def State.attached (s : State) (asid : BitVec 16) : Bool := (s.ctx s.g.asid).attach.contains asid

/-- The ASID of a handle. -/
def handleAsid (h : DWord) : BitVec 16 := h.extractLsb' 0 16

/-- The privilege that a target needs: debug privilege, and its context attached (R364, R374). -/
def State.needTarget (s : State) (h : DWord) : Except Stop Unit := do
  s.needDebug
  require (s.attached (handleAsid h)) (s.privStop 0x72)

/-- The key of the group slot that a handle names (R374). -/
def handleKey (h : DWord) : Nat := groupKey (bitsAt h.toNat 16 8) (bitsAt h.toNat 24 2) (bitsAt h.toNat 26 4)

/-- The resident group that a handle names (R374). -/
def State.targetOf (s : State) (h : DWord) (e : Lanes) : Except Stop Nat :=
  let k := handleKey h
  let g := s.group k
  if h.toNat < 2 ^ 30 && g.resident && !g.ended && g.asid == handleAsid h then .ok k
  else .error (trapGen .operand 0x70 e)

/-- The handle of a group. -/
def Group.handle (g : Group) : DWord :=
  BitVec.ofNat 64 (g.asid.toNat + 2 ^ 16 * (g.core % 256) + 2 ^ 24 * (g.quad % 4) + 2 ^ 26 * (g.slot % 16))

/-- A target in chrysalis (R381, R382). -/
def State.restingTarget (s : State) (h : DWord) (e : Lanes) : Except Stop Nat := do
  let k ← s.targetOf h e
  require (s.group k).chrysalis (trapGen .operand 0x71 e)
  .ok k

/-- The scalar value that a source names. -/
def State.sarg (s : State) (x : Src) (j : Nat := 0) : DWord := match x with | .scal n => s.g.sval (n.val + j) | _ => 0

/-- The register number of a scalar source. -/
def srcScal (x : Src) : Nat := match x with | .scal n => n.val | _ => 0

/-! ### trap and rfe -/

/-- TRAP (R371). -/
def execTrap (f : VForm) (s : State) : Host.Outcome State Fault Refusal :=
  let e := s.g.execLanes f.g
  let imm : BitVec 18 := match f.a with | .imm v => v | _ => 0
  s.finish (.trap f) (if e = 0 then .ok (.go s) else .error (.trap .swTrap 0 (.raw (imm.setWidth 64)) e))

/-- RFE (R370). -/
def execRfe (f : VForm) (s : State) : Host.Outcome State Fault Refusal :=
  s.finish (.rfe f) do
    s.needSuper false
    if !s.g.groupExec f.g then .ok (.go s) else .ok (.to (s.setG s.g.returned) s.g.returnPc)

/-! ### srd and swr (R41, R373) -/

/-- How many low bits of FINFO its layout under a fault code gives a meaning; the bits above read zero (R142, R205, R340, R366, R371). A
fault that R205 lays out has the layout of R340 when it comes from a collective, `coll` (R354). Under a code that names no layout, 0x00 and
0x18 to 0x3F, all bits are shown (log entry 103). -/
def finfoBits (code : Nat) (coll : Bool) : Nat :=
  if (5 ≤ code && code ≤ 0xA) || code = 0x15 then (if coll then 64 else 32)
  else if code = 0xC then 13
  else if code = 0x17 then 18
  else if code = 0 || code = 0x13 || code = 0x14 || code = 0x16 || 0x18 ≤ code then 64
  else 27

/-- A value of FINFO as it is read beside CAUSE.CODE; ACC 7 with COLL set shows a fault of a collective (R340). -/
def Group.finfoShown (g : Group) (v : DWord) : DWord :=
  v &&& BitVec.ofNat 64 (2 ^ finfoBits (bitsAt g.cause.toNat 0 6) (v.toNat % 16 == 15) - 1)

/-- FINFO as it is read. -/
def Group.shownFinfo (g : Group) : DWord := g.finfoShown g.finfo

/-- The value of a system register of the group at key k for a lane (R41 to R47, R366). -/
def State.sysReg (s : State) (k n lane : Nat) : DWord :=
  let g := s.group k
  let t := s.team g.team
  let task := s.taskOf t
  let c := s.ctxCore g.core g.asid
  let nat (x : Nat) : DWord := BitVec.ofNat 64 x
  match n with
  | 0x00 => nat lane
  | 0x01 => nat g.index
  | 0x02 => t.x.setWidth 64 | 0x03 => t.y.setWidth 64 | 0x04 => t.z.setWidth 64
  | 0x05 => nat (t.groups + 128 * bitNat t.pair)
  | 0x06 => task.gx.setWidth 64 | 0x07 => task.gy.setWidth 64 | 0x08 => task.gz.setWidth 64
  | 0x09 => nat (task.teams + 2 ^ 36 * task.depth)
  | 0x0A => nat g.core | 0x0B => nat (g.core / 64)
  | 0x10 => g.retired | 0x11 => g.dix | 0x12 => task.seed
  | 0x18 => g.trapBase | 0x19 => g.cause | 0x1A => g.epc | 0x1B => g.ema | 0x1C => g.emb | 0x1D => g.emc
  | 0x1E => g.faddr | 0x1F => g.shownFinfo
  | 0x20 => g.viewV | 0x21 => g.viewT | 0x22 => g.viewA
  | 0x28 => c.apscr | 0x29 => c.apstk | 0x2A => c.apstr
  | 0x30 => g.jsd
  | 0x31 => nat (bitNat g.mode + 2 * bitNat g.dbg)
  | 0x38 => c.ways.setWidth 64
  | 0x39 => nat (s.l1Occ g.core g.asid)
  | _ => 0

/-- SRD (R373). -/
def execSrd (f : VForm) (s : State) : Host.Outcome State Fault Refusal :=
  let n := f.a.specialNum
  let e := s.g.execLanes f.g
  let ops := f.d.vecOp (!narrowReg n)
  s.finish (.srd f) do
    require (ops.all s.g.vecOk && !(f.d.isScal && n == 0)) s.operand
    require (s.g.mode || !trapReg n) s.privStop
    s.checkVecs e ops
    match f.d with
    | .scal d => .ok (.go (if s.g.groupExec f.g then s.setS d.val ⟨s.sysReg s.cur n 0, 0⟩ else s))
    | d => .ok (.go (s.setLanes d.vecNum (!narrowReg n) ((lanesOf e).map fun i => (i, ⟨s.sysReg s.cur n i, 0⟩))))

/-- A write of a view register: RESERVED for a reserved bit, OPERAND for one that does not fit (R27 to R30). -/
def viewWrite (fields fits : Bool) (t : State) (e : Lanes) : Except Stop State :=
  if !fields then .error (trapGen .reserved 0 e)
  else if !fits then .error (trapGen .operand 0 e)
  else .ok t

/-- A write of a system register of the group at key k in supervisor mode or not (R41, R43 to R47, R192, R366); one that has
no effect leaves the state as it is. FINFO takes the value whatever CAUSE.CODE stands beside it, though R142, R205 and R340 mark the
fields of their layouts RO (log entry 102). -/
def State.writeSys (s : State) (k n : Nat) (v : DWord) (sup : Bool) (e : Lanes) : Except Stop State :=
  let g := s.group k
  let c := s.ctxCore g.core g.asid
  let bad : Except Stop State := .error (trapGen .reserved 0 e)
  let put (h : Group) : Except Stop State := .ok (s.putGroup k h)
  let low (x : DWord) : DWord := (x.setWidth 32).setWidth 64
  match n with
  | 0x11 => put { g with dix := v }
  | 0x20 => viewWrite (viewVFields v) (viewVFits v g.size) (s.putGroup k { g with viewV := v }) e
  | 0x21 => viewWrite (viewTFields v) (viewTFits v g.size) (s.putGroup k { g with viewT := v }) e
  | 0x22 => viewWrite (viewAFields v) (viewAFits v g.size) (s.putGroup k { g with viewA := v }) e
  | _ =>
    if !sup then .ok s
    else match n with
      | 0x10 => put { g with retired := v }
      | 0x18 => put { g with trapBase := v }
      | 0x19 => if v.toNat < 2 ^ 11 then put { g with cause := (v &&& ~~~(0x400 : DWord)) ||| (g.cause &&& 0x400) } else bad
      | 0x1A => put { g with epc := v }
      | 0x1B => put { g with ema := low v }
      | 0x1C => put { g with emb := low v }
      | 0x1D => put { g with emc := low v }
      | 0x1E => put { g with faddr := v }
      | 0x1F => put { g with finfo := v }
      | 0x28 => if v.toNat % 2 ^ 20 = 0 && canonical v then .ok (s.putCtxCore g.core g.asid { c with apscr := v }) else bad
      | 0x29 => if v.toNat % 2 ^ 12 = 0 && canonical v then .ok (s.putCtxCore g.core g.asid { c with apstk := v }) else bad
      | 0x2A => if v.toNat % 2 ^ 31 = 0 && canonical v then .ok (s.putCtxCore g.core g.asid { c with apstr := v }) else bad
      | 0x31 => if v.toNat < 4 then put { g with mode := v.getLsbD 0 } else bad
      | 0x38 => if v.toNat < 2 ^ 16 then .ok (s.putCtxCore g.core g.asid { c with ways := v.setWidth 16 }) else bad
      | _ => .ok s

/-- SWR (R373). -/
def execSwr (f : VForm) (s : State) : Host.Outcome State Fault Refusal :=
  let n := f.d.specialNum
  s.finish (.swr f) do
    require (s.g.mode || !trapReg n) s.privStop
    if !s.g.groupExec f.g then .ok (.go s)
    else
      let t ← s.writeSys s.cur n (s.s64 f.a) s.g.mode (s.g.execLanes f.g)
      .ok (.go t)

/-! ### Halting and resuming (R379, R380, R383) -/

/-- What happens after an instruction has retired. -/
def State.finishThen (s : State) (i : Instr) (b : Body) (after : State → State) : Host.Outcome State Fault Refusal :=
  match b, s.finish i b with
  | .ok _, .next t => .next (after t)
  | _, r => r

/-- The groups of a team enter chrysalis. -/
def State.haltTeam (s : State) (team : Nat) : State := (s.teamGroups team).foldl (fun st p => st.enterChrysalis p.1 3 0) s

/-- The group that a `halt` names: the issuing group for s0, else that of a handle. -/
def State.haltWho (s : State) (f : VForm) : Except Stop Nat :=
  if srcScal f.a = 0 then .ok s.cur
  else do
    s.needTarget (s.sarg f.a)
    if !s.g.groupExec f.g then .ok s.cur else s.targetOf (s.sarg f.a) (s.g.execLanes f.g)

/-- Cause 0 for the issuing group, 2 for a target (R386). -/
def haltCause (f : VForm) : BitVec 3 := if srcScal f.a = 0 then 0 else 2

/-- The effect of a `halt` once it has retired. -/
def State.halted (s : State) (f : VForm) (team : Bool) (t : State) : State :=
  match s.haltWho f with
  | .error _ => t
  | .ok k =>
    if !s.g.groupExec f.g then t
    else
      let u := t.enterChrysalis k (haltCause f) 0
      if team then u.haltTeam (s.group k).team else u

/-- HALT (R380). -/
def execHalt (f : VForm) (s : State) : Host.Outcome State Fault Refusal :=
  s.finishThen (.halt f) (do let _ ← s.haltWho f; .ok (.go s)) (s.halted f false)

/-- HALT.TEAM (R380). -/
def execHaltTeam (f : VForm) (s : State) : Host.Outcome State Fault Refusal :=
  s.finishThen (.haltTeam f) (do let _ ← s.haltWho f; .ok (.go s)) (s.halted f true)

/-- The group at key k is resumed (R383). -/
def State.resumeGroup (s : State) (k : Nat) (keep : Bool) : State :=
  let g := s.group k
  if !g.chrysalis then s
  else
    let s1 := if keep then s else s.putGroup k { g with held := 0, mask := g.full }
    (s1.leaveChrysalis k).heldCheck k

/-- RESUME (R383). -/
def execResume (f : VForm) (s : State) : Host.Outcome State Fault Refusal :=
  let h := s.sarg f.a
  s.finish (.resume f) do
    s.needTarget h
    if !s.g.groupExec f.g then .ok (.go s)
    else
      let e := s.g.execLanes f.g
      let k ← s.targetOf h e
      let b := s.s64 f.b
      require (b.toNat < 4) (trapGen .reserved 0x73 e)
      let s1 := s.resumeGroup k (b.getLsbD 0)
      .ok (.go (if b.getLsbD 1 then
        (s1.teamGroups (s.group k).team).foldl (fun st p => st.resumeGroup p.1 (b.getLsbD 0)) s1 else s1))

/-! ### Antennae (R375, R378) -/

/-- The antenna that five scalars describe, COUNT cleared. -/
def State.antGiven (s : State) (b : Nat) : Antenna :=
  { ctl := s.g.sval b, comp := s.g.sval (b + 1), cmask := s.g.sval (b + 2), lanea := s.g.sval (b + 3)
    laneb := s.g.sval (b + 4), count := 0 }

/-- No reserved code and no reserved bit (R375). -/
def Antenna.fieldsOk (a : Antenna) (n : Nat) : Bool :=
  a.field ≤ 4 && a.cmp ≤ 4 && a.action ≤ 4 && !(n == 15 && a.chain) && a.ctl.extractLsb' 12 4 == 0
    && a.ctl.extractLsb' 32 32 == 0 && a.laneb.extractLsb' 32 32 == 0

/-- CTL.ASID. -/
def Antenna.asid (a : Antenna) : BitVec 16 := a.ctl.extractLsb' 16 16

/-- May the issuing group watch a context (R378)? -/
def State.mayWatch (s : State) (asid : BitVec 16) : Bool := if s.g.dbg then s.attached asid else asid == s.g.asid

/-- The effect of an `ant.set` once it has retired: the setting applies to the instructions that follow it (R378). -/
def State.antSetDone (s : State) (f : VForm) (t : State) : State :=
  if s.g.groupExec f.g then
    { t with ants := Store.set Antenna.zero t.ants (s.g.core * 16 + (s.sarg f.a).toNat) (s.antGiven (srcScal f.b)) }
  else t

/-- ANT.SET (R378). -/
def execAntSet (f : VForm) (s : State) : Host.Outcome State Fault Refusal :=
  let n := (s.sarg f.a).toNat
  let a := s.antGiven (srcScal f.b)
  let e := s.g.execLanes f.g
  s.finishThen (.antSet f) (do
    s.needSuper true
    if !s.g.groupExec f.g then .ok (.go s)
    else
      require (n ≤ 15) (trapGen .operand 0x74 e)
      require (a.fieldsOk n) (trapGen .reserved 0x74 e)
      require (s.mayWatch a.asid) (trapGen .privilege 0x72 e)
      .ok (.go s)) (s.antSetDone f)

/-- The words of an antenna in the order of `ant.get`. -/
def Antenna.words (a : Antenna) : List DWord := [a.ctl, a.comp, a.cmask, a.lanea, a.laneb, a.count]

/-- Values written to scalars from a number upward, with tails 0. -/
def State.setScalars (s : State) (d : Nat) : List DWord → State
  | [] => s
  | v :: l => State.setScalars (s.setS d ⟨v, 0⟩) (d + 1) l

/-- ANT.GET (R378). -/
def execAntGet (f : VForm) (s : State) : Host.Outcome State Fault Refusal :=
  let n := (s.sarg f.a).toNat
  s.finish (.antGet f) do
    s.needSuper true
    if !s.g.groupExec f.g then .ok (.go s)
    else
      require (n ≤ 15) (trapGen .operand 0x74 (s.g.execLanes f.g))
      .ok (.go (s.setScalars f.d.scalNum (s.antenna s.g.core n).words))

/-! ### insp (R381) -/

/-- A selector. -/
structure Selector where
  cls  : Nat
  idx  : Nat
  lane : Nat
  off  : Nat
deriving DecidableEq, Repr

/-- The selector in a register. -/
def Selector.ofWord (v : DWord) : Selector := ⟨bitsAt v.toNat 0 4, bitsAt v.toNat 4 8, bitsAt v.toNat 12 7, bitsAt v.toNat 19 16⟩

/-- Does the selector name an item of the group? -/
def Selector.ok (x : Selector) (v : DWord) (g : Group) : Bool :=
  v.toNat < 2 ^ 35 && x.lane < 96 && match x.cls with
    | 0 => x.idx < g.vCount
    | 1 => x.idx < 64
    | 2 => x.idx < 32
    | 3 => true
    | 4 => x.idx < 3
    | 5 => x.idx < g.depth && x.lane < 6
    | 6 => sysRegAssigned x.idx
    | 7 => x.off % 4 == 0 && x.off < g.size
    | 8 => x.idx < 2
    | _ => false

/-- The status word of a target. -/
def Group.status (g : Group) : DWord :=
  BitVec.ofNat 64 (bitNat g.chrysalis + 2 * bitNat (g.held != 0) + 4 * bitNat g.mode + 8 * g.chStall.toNat
    + 2 ^ 8 * g.chAnt.toNat + 2 ^ 12 * g.chCause.toNat)

/-- The lanes of a bitmap that a selector names: 32·(LANE >> 5) to +31. -/
def Selector.part (x : Selector) : Nat := x.lane / 32

/-- The bitmap that CLASS 4 names. -/
def Group.laneSets (g : Group) (idx : Nat) : Lanes := match idx with | 0 => g.full | 1 => g.exited | _ => g.held

/-- The register-space byte of an item of CLASS 0 or 7. -/
def Selector.byte (x : Selector) (g : Group) : Nat := if x.cls = 0 then g.vByte x.idx x.lane else x.off

/-- HBM address of the spilled image of the join entry that is idx from the top. -/
def Group.spillAt (g : Group) (idx : Nat) : Nat := g.jbase.toNat + 48 * (g.depth - 1 - idx)

/-- The image of a join entry, held or spilled. -/
def State.joinImage (s : State) (g : Group) (idx : Nat) : List Byte :=
  match g.stack[idx]? with
  | some e => e.image
  | none => s.hbm.bytes (g.spillAt idx) 48

/-- The value of an item. -/
def State.inspRead (s : State) (k : Nat) (x : Selector) : TVal :=
  let g := s.group k
  match x.cls with
  | 0 | 7 => let w := s.rsWord g (x.byte g); ⟨w.val.setWidth 64, w.tail⟩
  | 1 => g.sreg x.idx
  | 2 => ⟨lanePart (g.pred x.idx) x.part, 0⟩
  | 3 => ⟨(g.fpcOf x.lane).setWidth 64, 0⟩
  | 4 => ⟨lanePart (g.laneSets x.idx) x.part, 0⟩
  | 5 => ⟨BitVec.ofNat 64 (leValue (((s.joinImage g x.idx).drop (8 * x.lane)).take 8)), 0⟩
  | 6 => ⟨s.sysReg k x.idx x.lane, 0⟩
  | _ => ⟨if x.idx = 0 then g.pc else g.status, 0⟩

/-- A word of an image replaced. -/
def imageWord (b : List Byte) (n : Nat) (v : DWord) : List Byte := b.take (8 * n) ++ leBytes 8 v.toNat ++ b.drop (8 * n + 8)

/-- Word n of a join entry written (R89, R381). -/
def State.writeJoin (s : State) (k idx n : Nat) (v : DWord) : State :=
  let g := s.group k
  let img := imageWord (s.joinImage g idx) n v
  if idx < g.stack.length then s.putGroup k { g with stack := g.stack.set idx (JoinEntry.ofImage img) }
  else { s with hbm := s.hbm.setBytes (g.spillAt idx) img }

/-- The group with another FULL or another HELD. -/
def Group.withFull (g : Group) (m : Lanes) : Group := g.restoreMask m
/-- The group with another HELD; the live mask follows (R379). -/
def Group.withHeld (g : Group) (h : Lanes) : Group := { g with held := h, mask := g.full &&& ~~~h }

/-- ALIGN of a misaligned PC (R381, R392). -/
def alignPc (asid : BitVec 16) (v : DWord) (e : Lanes) : Stop :=
  .trap .align v (.raw ((⟨.align, 7, 0, 0xD, v, 3, 2⟩ : AccErr).finfo asid)) e

/-- An item written. -/
def State.inspWrite (s : State) (k : Nat) (x : Selector) (v : DWord) (tail : Tail) (e : Lanes) : Except Stop State :=
  let g := s.group k
  let bad : Except Stop State := .error (trapGen .reserved 0x73 e)
  match x.cls with
  | 0 | 7 => .ok (s.setRsWord k (x.byte g) ⟨v.setWidth 32, tail⟩)
  | 1 => .ok (s.putGroup k (g.setSreg x.idx ⟨v, tail⟩))
  | 2 => .ok (s.putGroup k (g.setPred x.idx allLanes (setLanePart (g.pred x.idx) x.part v)))
  | 3 =>
    let w : Word := v.setWidth 32
    if w.toNat < 2 ^ 15 && w.toNat % 8 < 6 then .ok (s.putGroup k (g.setFpc x.lane w)) else .error (trapGen .reserved 0x46 e)
  | 4 => match x.idx with
    | 0 => .ok (s.putGroup k (g.withFull (setLanePart g.full x.part v)))
    | 2 => .ok (s.putGroup k (g.withHeld (setLanePart g.held x.part v)))
    | _ => bad
  | 5 => .ok (s.writeJoin k x.idx x.lane v)
  | 6 => s.writeSys k x.idx v true e
  | _ =>
    if x.idx = 0 then (if v.toNat % 4 = 0 then .ok (s.putGroup k { g with pc := v }) else .error (alignPc g.asid v e)) else bad

/-- An item behind the accumulator window waits for the pair's matrix operations (R31). -/
def State.inspWait (s : State) (k : Nat) (x : Selector) : Bool :=
  let g := s.group k
  (x.cls == 0 || x.cls == 7) && g.inWindow (x.byte g) && (s.mxPair (g.core / 2)).ops != []

/-- The faults of R30 for an item behind the accumulator window of a target, raised in the debug group: MATRIX_LOST, MATRIX_OWNER. -/
def State.inspWindow (s : State) (k : Nat) (x : Selector) (e : Lanes) : Except Stop Unit :=
  let g := s.group k
  let t := s.team g.team
  if !((x.cls == 0 || x.cls == 7) && g.inWindow (x.byte g)) then .ok ()
  else if t.mxLost then .error (trapGen .matrixLost 0 e)
  else require (t.pair && t.mxHolds) (trapGen .matrixOwner 0 e)

/-- The target and the selector of `insp.rd` and `insp.wr`, checked. -/
def State.inspArgs (s : State) (f : VForm) : Except Stop (Nat × Selector) := do
  let e := s.g.execLanes f.g
  let k ← s.restingTarget (s.sarg f.a) e
  let v := s.sarg f.b
  require ((Selector.ofWord v).ok v (s.group k)) (trapGen .reserved 0x73 e)
  s.inspWindow k (Selector.ofWord v) e
  .ok (k, Selector.ofWord v)

/-- The group that a handle names and that has ended with a double fault, while its slot is not used again (R369). -/
def State.doubledTarget (s : State) (h : DWord) : Option Nat :=
  let k := handleKey h
  let g := s.group k
  if h.toNat < 2 ^ 30 && g.doubled && g.asid == handleAsid h && (g.ended || !g.resident) then some k else none

/-- What `insp.rd` reads: an item of a target in chrysalis, or a trap register of a group that a double fault has ended (R369, R381). -/
def State.inspSource (s : State) (f : VForm) : Except Stop (Nat × Selector) :=
  let v := s.sarg f.b
  let x := Selector.ofWord v
  match s.doubledTarget (s.sarg f.a) with
  | some k =>
    if x.cls == 6 && trapReg x.idx && x.ok v (s.group k) then .ok (k, x) else s.inspArgs f
  | none => s.inspArgs f

/-- The register that an item lies in, for the losses that mark it (R207, R426). -/
def Selector.place (x : Selector) (g : Group) : Option RegName :=
  match x.cls with
  | 0 | 7 => some (.word (g.place (x.byte g)))
  | 1 => some (.scal x.idx)
  | 2 => some (.pred x.idx)
  | 5 => if x.idx < g.stack.length then some .join else none
  | _ => none

/-- The loss that reading an item meets: it is told to the debug group, and no lost value is shown (R207, R426). -/
def State.inspLost (s : State) (k : Nat) (x : Selector) (e : Lanes) : Except Stop Unit :=
  let g := s.group k
  let bad : Bool := match x.cls with
    | 0 | 7 => (match (g.place (x.byte g)).acc with | some a => s.poison.contains (.accum a) | none => false)
    | _ => false
  match (if g.lost == [] then none else (x.place g).bind fun r => g.lost.find? fun l => l.reg == r), bad with
  | some l, _ => .error (.trap l.code l.faddr (.raw l.finfo) e)
  | none, true => .error (.trap .dataLost 0 (.raw ((⟨.dataLost, 7, 0, 0xC, 0, 0, 2⟩ : AccErr).finfo s.g.asid)) e)
  | none, false => .ok ()

/-- A register that `insp.wr` has written is no longer lost (R207). -/
def State.inspMend (s : State) (k : Nat) (x : Selector) : State :=
  let g := s.group k
  if g.lost == [] then s
  else match x.place g with
    | some r => if x.cls == 2 || x.cls == 5 then s else s.putGroup k { g with lost := pathsOver (g.lost.filter fun l => l.reg != r) }
    | none => s

/-- INSP.RD (R381). -/
def execInspRd (f : VForm) (s : State) : Host.Outcome State Fault Refusal :=
  s.finish (.inspRd f) do
    s.needTarget (s.sarg f.a)
    if !s.g.groupExec f.g then .ok (.go s)
    else
      let x ← s.inspSource f
      if s.inspWait x.1 x.2 then .ok (.wait s 6)
      else
        s.inspLost x.1 x.2 (s.g.execLanes f.g)
        let v := s.inspRead x.1 x.2
        .ok (.go (s.setScalars f.d.scalNum [v.val, v.tail.setWidth 64]))

/-- INSP.WR (R381). -/
def execInspWr (f : VForm) (s : State) : Host.Outcome State Fault Refusal :=
  s.finish (.inspWr f) do
    s.needTarget (s.sarg f.a)
    if !s.g.groupExec f.g then .ok (.go s)
    else
      let x ← s.inspArgs f
      if s.inspWait x.1 x.2 then .ok (.wait s 6)
      else
        let t ← s.inspWrite x.1 x.2 (s.sarg f.c) ((s.sarg f.c 1).setWidth 3) (s.g.execLanes f.g)
        .ok (.go (t.inspMend x.1 x.2))

/-! ### step (R382) -/

/-- The lanes that two scalars name, and ONLY. -/
def State.stepLanes (s : State) (b : Src) : Lanes × Bool :=
  let hi := s.sarg b 1
  ((hi.setWidth 32 : BitVec 32) ++ s.sarg b, hi.getLsbD 32)

/-- The step that the issuing group has asked for with the instruction it is trying. -/
def State.myStep (s : State) (k : Nat) : Option StepReq :=
  s.steps.find? fun r => r.debugger == s.cur && r.pc == s.g.pc && r.target == k

/-- The result of a step, once it is known. -/
def State.stepResult (s : State) (r : StepReq) : Option Nat :=
  let g := s.group r.target
  match r.result with
  | some n => some n
  | none =>
    if !g.resident || g.ended then some 1
    else if r.begun && g.waiting == .no then some 0
    else none

/-- `step` ends with a result. -/
def State.stepDone (s : State) (f : VForm) (r : StepReq) (n : Nat) : State :=
  (({ s with steps := s.steps.erase r }).bump (ctrStep (r.target / 64))).setS f.d.scalNum ⟨BitVec.ofNat 64 n, 0⟩

/-- What a `step` does while its target's instruction has not ended: the request is made once and the debug group waits. -/
def State.stepAsk (s : State) (f : VForm) (k : Nat) : Body :=
  let x := s.stepLanes f.b
  match s.myStep k with
  | some r => match s.stepResult r with
    | some n => .ok (.go (s.stepDone f r n))
    | none => .ok (.wait s 17)
  | none =>
    if (s.group k).full &&& x.1 = 0 then .ok (.go ((s.bump (ctrStep (k / 64))).setS f.d.scalNum ⟨2, 0⟩))
    else .ok (.wait { s with steps := s.steps ++ [⟨s.cur, s.g.pc, k, x.1, x.2, false, none⟩] } 17)

/-- STEP (R382). -/
def execStep (f : VForm) (s : State) : Host.Outcome State Fault Refusal :=
  let h := s.sarg f.a
  let e := s.g.execLanes f.g
  s.finish (.step f) do
    s.needTarget h
    if !s.g.groupExec f.g then .ok (.go s)
    else if ((s.myStep (handleKey h)).bind s.stepResult).isSome then s.stepAsk f (handleKey h)
    else
      let k ← s.restingTarget h e
      require ((s.sarg f.b 1).toNat < 2 ^ 33) (trapGen .reserved 0x73 e)
      s.stepAsk f k

/-! ### evt (R387) -/

/-- EVT (R387): it waits while Jetstream is full (R21). -/
def execEvt (f : VForm) (s : State) : Host.Outcome State Fault Refusal :=
  s.finish (.evt f) (
    if !s.g.groupExec f.g then .ok (.go s)
    else if s.jetFull (engDie s.g.engine) then .ok (.wait s 29)
    else .ok (.go (s.emit s.g.engine 0x11 (some s.g.asid) ((s.sarg f.b).setWidth 32 ++ s.sarg f.a))))

/-! ### Core dumps (R389 to R391) -/

/-- A dump request as read. -/
structure DumpAsk where
  buf    : DWord
  len    : Nat
  team   : Bool
  stay   : Bool
  target : DWord
  list   : DWord
  nrange : Nat
  ok     : Bool
deriving DecidableEq, Repr

/-- The request of a 64-byte image (R389). -/
def DumpAsk.ofBytes (v : Nat) : DumpAsk :=
  { buf := BitVec.ofNat 64 (bitsAt v 0 64), len := bitsAt v 64 32, team := v.testBit 96, stay := v.testBit 97
    target := BitVec.ofNat 64 (bitsAt v 128 64), list := BitVec.ofNat 64 (bitsAt v 192 64), nrange := bitsAt v 256 16
    ok := bitsAt v 98 30 == 0 && bitsAt v 256 16 ≤ 256 && bitsAt v 272 240 == 0 }

/-- Addresses in every page of a span: its first byte and the first byte of each further page. -/
def spanPages (a : DWord) (n : Nat) : List DWord :=
  if n = 0 then []
  else a :: (List.range ((a.toNat % 4096 + n - 1) / 4096)).map fun k => BitVec.ofNat 64 ((a.toNat / 4096 + k + 1) * 4096)

/-- A group put in its place by handle. -/
def insertHandle (s : State) (k : Nat) : List Nat → List Nat
  | [] => [k]
  | j :: l => if (s.group k).handle.toNat ≤ (s.group j).handle.toNat then k :: j :: l else j :: insertHandle s k l

/-- The groups of a dump, in order of handle: the target, or every group of its team. -/
def State.dumpKeys (s : State) (k : Nat) (team : Bool) : List Nat :=
  if team then ((s.teamGroups (s.group k).team).filter fun p => !p.2.ended).foldl (fun l p => insertHandle s p.1 l) [] else [k]

/-- Bytes of a group's section (R390); no store waits in a core, so its pending list is empty (log entry 4). -/
def Group.sectionBytes (g : Group) : Nat := 128 + 0xA80 + 8 * (g.size / 4)

/-- The section of the group at key k, with trap registers of their own for the group whose fault is dumped (R390, R391). -/
def State.dumpSection (s : State) (k : Nat) : List Byte :=
  let g := s.group k
  let t := match g.dumpTrap with | some t => g.trapRegs t | none => g
  let words := [g.handle, g.pc, t.cause, t.epc, t.ema, t.emb, t.emc, t.faddr, t.shownFinfo].flatMap fun w => leBytes 8 w.toNat
  words ++ leBytes 12 g.held.toNat ++ List.replicate 4 0 ++ leBytes 8 0 ++ leBytes 8 g.sectionBytes ++ List.replicate 24 0
    ++ g.slotHead g.pc g.ckSeq.toNat []
    ++ (List.range (g.size / 4)).flatMap fun i => (s.rsWord g (4 * i)).image

/-- Bytes of the whole dump. -/
def State.dumpSize (s : State) (r : DumpReq) : Nat :=
  128 + r.keys.foldl (fun n k => n + (s.group k).sectionBytes) 0 + r.ranges.foldl (fun n x => n + x.2) 0

/-- Bytes that the dump writes, with bit 63 set when it is truncated. -/
def State.dumpWritten (s : State) (r : DumpReq) : Nat :=
  if r.len < s.dumpSize r then r.len + 2 ^ 63 else s.dumpSize r

/-- The header of the dump area (R390), with the time and tag of the dump instant. -/
def State.dumpHeader (s : State) (asid : BitVec 16) (r : DumpReq) (tag : DWord) : List Byte :=
  leBytes 8 1 ++ leBytes 2 s.device.toNat ++ leBytes 2 asid.toNat ++ leBytes 4 0
    ++ leBytes 8 (Store.get (0 : DWord) s.stamps 0).toNat ++ leBytes 8 tag.toNat
    ++ leBytes 8 r.keys.length ++ leBytes 8 (s.dumpWritten r) ++ List.replicate 80 0

/-- Bytes of a range as they stand at device scope; a byte that cannot be read is 0 (log entry 80). -/
def State.dumpRange (s : State) (asid : BitVec 16) (x : DWord × Nat) : List Byte :=
  (List.range x.2).map fun i => match s.lxLoc asid false (x.1 + BitVec.ofNat 64 i) with
    | some l => if s.isBad l 0 then 0 else s.homeByte l 0
    | none => 0

/-- The dump is written (R389 step 4). -/
def State.writeDump (s : State) (asid : BitVec 16) (r : DumpReq) : State :=
  let s1 := (s.advance engControl).stampOn 0
  let tag := s1.tagOf engControl
  let body := s1.dumpHeader asid r tag ++ r.keys.flatMap s1.dumpSection
  let room := r.len - body.length
  let bytes := (body ++ (r.ranges.foldl (fun l x => l ++ s1.dumpRange asid (x.1, min x.2 (room - l.length))) [])).take r.len
  s1.lxPut asid r.buf bytes

/-- The groups of a dump enter chrysalis with cause 4; those already there stay as they are (R380, R389 step 1). -/
def State.beginDump (s : State) (k : Nat) (r : DumpReq) : State :=
  let r1 := { r with entered := r.keys.filter fun j => !(s.group j).chrysalis }
  let s1 := r.keys.foldl (fun st j => st.enterChrysalis j 4 0) s
  (s1.putGroup k { s1.group k with dumpReq := some r1 }).bump (ctrDump (s.group k).core)

/-- Are the stores of the dumped groups acknowledged (R389 step 2)? -/
def State.dumpReady (s : State) (r : DumpReq) : Bool := r.keys.all fun k => (s.group k).acks == []

/-- The groups of a dump resume unless STAY is set (R389 step 5). -/
def State.endDump (s : State) (k : Nat) (r : DumpReq) : State :=
  let s1 := s.putGroup k { s.group k with dumpReq := none, waiting := .no, stall := 0 }
  if r.stay then s1 else r.entered.foldl (fun st j => st.leaveChrysalis j) s1

/-- The ranges that a list names. -/
def rangesFrom (vals : List Nat) : List (DWord × Nat) :=
  (List.range (vals.length / 2)).map fun i => (BitVec.ofNat 64 (vals.getD (2 * i) 0), vals.getD (2 * i + 1) 0)

/-- The target of a request: the issuing group for 0, else that of a handle, with the privilege this needs (R364, R374). -/
def State.dumpTarget (s : State) (a : DumpAsk) (e : Lanes) : Except Stop Nat :=
  if a.target = 0 then .ok s.cur
  else do
    s.needTarget a.target
    s.targetOf a.target e

/-- The request of `cdmp` checked (R389, R392): its reserved fields, its target, the dump area as `st` checks it, the list and
the ranges as `ld` does. -/
def State.dumpCheck (s : State) (f : VForm) (v : Nat) : Except Stop (DumpReq × Nat) := do
  let e := s.g.execLanes f.g
  let a := DumpAsk.ofBytes v
  let rd (n : Nat) : Access := { acc := 0, size := n, user := !s.g.mode }
  let wr (n : Nat) : Access := { acc := 1, size := n, write := true, user := !s.g.mode }
  let look (x : Access) (l : List DWord) : Except Stop (List LaneLoc) :=
    s.checkLanes s.g x true (firstLane e) (some e) noExtra (l.map fun p => (96, p))
  require a.ok (trapGen .reserved 0x73 e)
  let k ← s.dumpTarget a e
  let _ ← look (wr 128) [a.buf]
  require (s.winOf a.buf == 0) (s.recStop f .protect (s.winOf a.buf) 6 7 a.buf)
  let ls ← look (rd 8) ((List.range (2 * a.nrange)).map fun i => a.list + BitVec.ofNat 64 (8 * i))
  let r : DumpReq :=
    { buf := a.buf, len := a.len, ranges := rangesFrom (ls.map fun l => s.readHome s.g l.loc 8), keys := s.dumpKeys k a.team
      entered := [], stay := a.stay, dst := some f.d.scalNum }
  let _ ← look (wr 1) (spanPages a.buf (min a.len (s.dumpSize r)))
  let _ ← look (rd 1) (r.ranges.flatMap fun x => spanPages x.1 (min x.2 a.len))
  .ok (r, k)

/-- The request that a `cdmp` reads, with what the reading waits for. -/
def State.dumpAsked (s : State) (f : VForm) : Except Stop (Option (Nat × Option Nat)) := do
  s.needSuper true
  if !s.g.groupExec f.g then .ok none
  else
    let r ← s.recordLoc f (s.sarg f.a)
    .ok (some (s.readHome s.g r.1 64, r.2))

/-- The body of `cdmp`: it retires, and the group then waits until the dump is written. -/
def State.cdmpBody (s : State) (f : VForm) : Body := do
  match ← s.dumpAsked f with
  | none => .ok (.go s)
  | some (_, some w) => s.waitOn w
  | some (v, none) =>
    let _ ← s.dumpCheck f v
    .ok (.go (s.setG { s.g with waiting := .dump }) { addrs := [(none, (s.sarg f.a).toNat)] })

/-- What follows the retirement of `cdmp`: the groups enter chrysalis. -/
def State.cdmpAfter (s : State) (f : VForm) (t : State) : State :=
  match s.dumpAsked f with
  | .ok (some (v, none)) => match s.dumpCheck f v with
    | .ok (r, _) => (t.setG { t.g with stall := 17 }).beginDump s.cur r
    | .error _ => t
  | _ => t

/-- CDMP (R389). -/
def execCdmp (f : VForm) (s : State) : Host.Outcome State Fault Refusal :=
  s.finishThen (.cdmp f) (s.cdmpBody f) (s.cdmpAfter f)

/-- The dump that a context asks for on a fault of the group at key k (R391). -/
def State.faultDump (s : State) (k : Nat) : DumpReq :=
  let g := s.group k
  let a := DumpAsk.ofBytes (s.ctx g.asid).dumpReq.toNat
  let vals := (List.range (2 * a.nrange)).map fun i => (s.lxRead g.asid (a.list + BitVec.ofNat 64 (8 * i)) 8).getD 0
  { buf := a.buf, len := a.len, ranges := rangesFrom vals, keys := s.dumpKeys k a.team, entered := [], stay := a.stay
    dst := none }

/-- The dump of the group at key k is written, its waiters go on, and a fault that asked for it enters the handler (R389,
R391). -/
def State.finishDump (s : State) (k : Nat) (r : DumpReq) : State :=
  let s1 := s.writeDump (s.group k).asid r
  let n : DWord := BitVec.ofNat 64 (s1.dumpWritten r)
  match (s.group k).dumpTrap with
  | some t => ((s1.putGroup k { s1.group k with dumpTrap := none }).endDump k r).enterTrap k t
  | none =>
    let s2 := match r.dst with | some d => s1.putGroup k ((s1.group k).setSreg d ⟨n, 0⟩) | none => s1
    s2.endDump k r

/-- CORE_DUMP_COMPLETE of the dump that the group at key k waits for. A dump for a fault begins here. -/
def execCoreDumpComplete (k : Nat) (s : State) : Host.Outcome State Fault Refusal :=
  if (s.group k).waiting != .dump then .next s
  else
    let s1 := if (s.group k).dumpReq.isNone && (s.group k).dumpTrap.isSome then s.beginDump k (s.faultDump k) else s
    match (s1.group k).dumpReq with
    | some r => .next (if s1.dumpReady r then s1.lxStep (2 ^ 22 + k) (fun t => t.finishDump k r) (k / 4096) else s1)
    | none => .next s1

/-! ### PC sampling and Jetstream (R21, R388) -/

/-- Is PC sampling on for a die: EN, with k from 6 to 20? -/
def State.samplingOn (s : State) (die : Nat) : Bool :=
  let c : DWord := Store.get 0 s.sampling die
  c.getLsbD 0 && 6 ≤ bitsAt c.toNat 1 5 && bitsAt c.toNat 1 5 ≤ 20

/-- Payload of a PC sample (R386). -/
def samplePayload (g : Group) (x : Nat × Bool) : BitVec 96 :=
  (g.asid ++ g.gField ++ BitVec.ofBool x.2 ++ BitVec.ofNat 5 x.1 ++ g.pc.setWidth 57).setWidth 96

/-- The slot of a quadrant that is sampled next: the next resident one after the last, in slot order. -/
def State.sampleSlot (s : State) (core quad : Nat) : Option Nat :=
  let last := Store.get 0 s.sampled (core * 4 + quad)
  ((List.range 16).map fun i => (last + i) % 16).find? fun x => (s.group (groupKey core quad x)).resident

/-- JETSTREAM_DRAIN of a die: its oldest record moves to the store (R21). -/
def execJetstreamDrain (die : Nat) (s : State) : Host.Outcome State Fault Refusal := .next (s.drain die)

/-- DROP_SUMMARY of a die (R21): one record with the die's count of dropped records, when space has returned and records have
been dropped since the last summary. -/
def execDropSummary (die : Nat) (s : State) : Host.Outcome State Fault Refusal :=
  .next (if s.dropOf die = Store.get 0 s.summed die || s.jetFull die then s
    else { s with summed := Store.put die (s.dropOf die) s.summed }.emit (engLauncher die) 0x12 none
      ((s.dropOf die).setWidth 96))

end Sys2Proof.Machine
end

