-- ==== Sys2Proof/Machine/Device.lean ====
section
/-! DEFINITION. The host ports and the management window, time, boot, attestation, lifecycle and reset, reliability and power
(chapter 19, R417 to R432, with R235, R298, R334, R343, R374, R391). -/

namespace Sys2Proof.Machine

/-! ### Doorbells and queues (R298, R418, R419) -/

/-- Can a host port be reached: up, and the device not in recovery (R419, R421)? -/
def State.portServes (s : State) (port : Nat) : Bool := port < 2 && !s.hostDown.contains port && !s.recovery

/-- DOORBELL_WRITE (R418): TAIL is set; a write through the other port than the queue's is discarded and counted. -/
def execDoorbellWrite (port q : Nat) (tail : BitVec 32) (s : State) : Host.Outcome State Fault Refusal :=
  let x := s.queue q
  .next (if !s.portServes port || 2048 ≤ q then s
    else if x.port.toNat != port then s.bump (ctrTask 11)
    else s.putQueue q { x with tail := tail })

/-- A queue whose EN goes from 0 to 1: ERR clears, and intake resumes if its host port is up (R298, R419). -/
def State.enabled (s : State) (x : Queue) : Queue := { x with en := true, err := 0, halted := s.hostDown.contains x.port.toNat }

/-- QUEUE_ENABLE (R298): EN written 0 and then 1. -/
def execQueueEnable (q : Nat) (s : State) : Host.Outcome State Fault Refusal :=
  .next (if s.recovery || 2048 ≤ q then s else s.putQueue q (s.enabled (s.queue q)))

/-- HOST_PORT_FAILURE (R419, R427): the port's queues take no more records; a fault record carries the port, and the other port
hears of it (log entry 24). -/
def execHostPortFailure (port : Nat) (s : State) : Host.Outcome State Fault Refusal :=
  if 2 ≤ port || s.hostDown.contains port then .next s
  else
    let s1 : State :=
      { s with
        hostDown := port :: s.hostDown
        queues := s.queues.map fun p => (p.1, if p.2.port.toNat == port then { p.2 with halted := true } else p.2) }
    let s2 := { s1 with tstat := { s1.tstat with ptm := s1.tstat.ptm.filter fun p => p != port } }
    .next ((s2.emit engMgmt 0x0A none (faultPayload 0 0 0 (BitVec.ofNat 64 port) 0 false true false)).irq (1 - port) 63)

/-- HOST_LINK_RETRAIN (R419): the port is up; its queues wait until EN is set again. -/
def execHostLinkRetrain (port : Nat) (s : State) : Host.Outcome State Fault Refusal :=
  .next { s with hostDown := s.hostDown.filter fun p => p != port }

/-- HOST_WRITE (R235): bytes delivered to device memory at their home; a write to a line that an engine owns waits until it is free (R234),
and the port's later writes that are not relaxed wait behind it. -/
def execHostWrite (port addr : Nat) (data : List (BitVec 8)) (relaxed : Bool) (s : State) : Host.Outcome State Fault Refusal :=
  let i : Instr := .hostWrite port addr data relaxed
  if !s.portServes port then .next s
  else if Config.hbmBytes < addr + data.length then .fault .hbmAbsent
  else .next (if s.mustHold s.inbox i then s.holdInput i else s.hostBytes addr data)

/-! ### What a host reads (R298, R343, R385, R418, R420, R422): a function of the state, and no step -/

/-- The doorbell of a queue read (R418): HEAD in [31:0] and TAIL in [63:32]. -/
def State.doorbellRead (s : State) (q : Nat) : DWord := (s.queue q).tail ++ (s.queue q).head

/-- A descriptor word of a queue read (R298). -/
def Queue.read (x : Queue) (word : Nat) : DWord :=
  match word with
  | 0 => x.rbase
  | 1 => x.tail ++ x.head
  | 2 => (x.err ++ BitVec.ofBool x.en ++ BitVec.ofBool x.port ++ x.prio ++ x.log2n ++ x.asid).setWidth 64
  | _ => x.faddr

/-- A word of a communicator record read (R343). -/
def Comm.read (c : Comm) (word : Nat) : DWord :=
  match word with
  | 0 => c.myrank ++ c.nrank
  | 1 => c.rmap
  | 2 => c.deadline ++ ((BitVec.ofBool c.port ++ BitVec.ofBool c.wdact ++ BitVec.ofBool c.en ++ c.asid).setWidth 32 : BitVec 32)
  | _ => c.doneseq ++ c.nextseq

/-- TSTAT read (R420). -/
def TimeState.read (x : TimeState) : DWord := x.offset ++ ((BitVec.ofBool (x.ptm != []) ++ BitVec.ofBool x.pps ++ x.state).setWidth 32 : BitVec 32)

/-- The 32 bytes of a record in the Contrail window (R385). -/
def Record.image (r : Record) : List Byte :=
  leBytes 8 r.time.toNat ++ leBytes 8 r.tag.toNat ++ leBytes 4 (BitVec.ofBool r.isSealed ++ r.engine ++ r.code).toNat
    ++ leBytes 12 r.payload.toNat

/-- Bytes of the doorbell window BAR0 and of the Contrail window BAR4 (R417). -/
def bar0Bytes : Nat := 16 * 1024
/-- Bytes of the Contrail window BAR4 (R417). -/
def bar4Bytes : Nat := 32 * 2 ^ 30

/-- A read at an offset of BAR0 (R417, R418): doorbell q lies at 8q; in recovery none answers (R421). -/
def State.bar0Read (s : State) (off : Nat) : Option DWord :=
  if off < bar0Bytes && off % 8 == 0 && !s.recovery then some (s.doorbellRead (off / 8)) else none

/-- TSTAT as BAR2 shows it: 0 in recovery, as every register but those of attestation and lifecycle (R421). -/
def State.tstatRead (s : State) : DWord := if s.recovery then 0 else s.tstat.read

/-- A byte of the Contrail window (R417): the records of the store, oldest first; none outside the window, in recovery (R421) and where the
store's data is uncorrectable (R426). -/
def State.contrailByte (s : State) (a : Nat) : Option Byte :=
  if bar4Bytes ≤ a || s.recovery || s.poison.contains (.lpddr a) then none
  else some (match s.contrail[a / 32]? with
    | some r => r.image.getD (a % 32) 0
    | none => 0)

/-- The bytes of an attestation report (R422); the signature's numbers are big-endian in 66 bytes padded to 72. -/
def Report.image (r : Report) : List Byte :=
  let be (n v : Nat) : List Byte := (leBytes n v).reverse
  leBytes 8 1 ++ leBytes 8 (r.devid.toNat + 2 ^ 16 * r.life.toNat) ++ leBytes 64 r.nonce.toNat
    ++ r.meas.flatMap (fun d => leBytes 64 d.toNat) ++ leBytes 8 r.resets.toNat
    ++ be 66 r.sigR.toNat ++ List.replicate 6 0 ++ be 66 r.sigS.toNat ++ List.replicate 6 0

/-! ### The management window (R417) -/

/-- A descriptor word of a queue written (R298): HEAD, ERR and FADDR are read-only. -/
def State.writeQueue (s : State) (x : Queue) (word : Nat) (v : DWord) : Queue :=
  match word with
  | 0 => { x with rbase := v }
  | 1 => { x with tail := v.extractLsb' 32 32 }
  | 2 =>
    let y := { x with asid := v.extractLsb' 0 16, log2n := v.extractLsb' 16 5, prio := v.extractLsb' 21 3, port := v.getLsbD 24 }
    if !v.getLsbD 25 then { y with en := false }
    else if x.en then y
    else s.enabled y
  | _ => x

/-- A word of a communicator record written (R343): NEXTSEQ and DONESEQ are read-only. -/
def Comm.write (c : Comm) (word : Nat) (v : DWord) : Comm :=
  match word with
  | 0 => { c with nrank := v.extractLsb' 0 32, myrank := v.extractLsb' 32 32 }
  | 1 => { c with rmap := v }
  | 2 => { c with asid := v.extractLsb' 0 16, en := v.getLsbD 16, wdact := v.getLsbD 17, port := v.getLsbD 18
                  deadline := v.extractLsb' 32 32 }
  | _ => c

/-- An ASID entered in an attach list, which holds 16 (R374). -/
def attachList (l : List (BitVec 16)) (a : BitVec 16) : List (BitVec 16) :=
  if l.contains a || 16 ≤ l.length then l else a :: l

/-- A 64-bit word of a wider register replaced. -/
def putWord {w : Nat} (x : BitVec w) (n : Nat) (v : DWord) : BitVec w :=
  let at_ : BitVec w := v.setWidth w <<< (64 * n)
  let hole : BitVec w := (BitVec.allOnes 64).setWidth w <<< (64 * n)
  (x &&& ~~~hole) ||| at_

/-- What system software writes of a context (log entry 29). -/
def State.writeCtx (s : State) (a : BitVec 16) (item : CtxItem) (v : DWord) : State :=
  let c := s.ctx a
  match item with
  | .create => s.putCtx a { Ctx.empty with live := true, gen := c.gen, priv := v.getLsbD 0, debug := v.getLsbD 1 }
  | .remove => s.putCtx a { Ctx.empty with gen := c.gen }
  | .root => s.putCtx a { c with root := v }
  | .reserveNext => s.putCtx a { c with rnext := v }
  | .reserveEnd => s.putCtx a { c with rend := v }
  | .home => s.putCtx a { c with home := v }
  | .homeSize => s.putCtx a { c with homeSize := v.toNat }
  | .aperture core which =>
    let x := s.ctxCore core.val a
    s.putCtxCore core.val a (match which.val with
      | 0 => { x with apscr := v } | 1 => { x with apstk := v } | _ => { x with apstr := v })
  | .key word => s.putCtx a { c with tenant := some (putWord (c.tenant.getD 0) word.val v) }

/-- Eight bytes that the control processor writes to Stratus (R272): while the bank is in its refresh window the write waits (R271). -/
def State.writeStratus (s : State) (off : Nat) (v : DWord) : State :=
  if s.inRefresh (.stratus off) then s
  else
    let cell (c : BadCell) : Bool := match c with | .stratus o => off ≤ o && o < off + 8 | _ => false
    { s with stratus := s.stratus.setBytes off (leBytes 8 v.toNat), poison := s.poison.filter fun c => !cell c }

/-- MGMT_WINDOW_WRITE (R417); the operator key is registered in the provisioned state (R421); in recovery only attestation and lifecycle answer (R421). -/
def execMgmtWindowWrite (r : MgmtReg) (value : DWord) (s : State) : Host.Outcome State Fault Refusal :=
  .next (if s.recovery then s else match r with
    | .queue q word => s.putQueue q.val (s.writeQueue (s.queue q.val) word.val value)
    | .comm c word => { s with comms := Store.put c.val ((Store.get Comm.empty s.comms c.val).write word.val value) s.comms }
    | .route dev => { s with routes := Store.put dev.toNat (value.setWidth 16) s.routes }
    | .attach a => s.putCtx a { s.ctx a with attach := attachList (s.ctx a).attach (value.setWidth 16) }
    | .detach a => s.putCtx a { s.ctx a with attach := (s.ctx a).attach.filter fun x => x != value.setWidth 16 }
    | .dumpMask a => s.putCtx a { s.ctx a with dump := value }
    | .dumpRequest a word => s.putCtx a { s.ctx a with dumpReq := putWord (s.ctx a).dumpReq word.val value }
    | .sampling die => { s with sampling := Store.put die.val value s.sampling }
    | .quantum a => s.putCtx a { s.ctx a with quantum := value }
    | .budget => { s with budget := value }
    | .deferArea a => s.putCtx a { s.ctx a with deferMax := value.toNat }
    | .overflow => { s with ovMax := value.toNat }
    | .overflowBase => { s with ovBase := value.toNat }
    | .operatorKey word => if s.life = 1 then { s with operKey := putWord s.operKey word.val value } else s
    | .stratus word => s.writeStratus (8 * word.val) value
    | .counter k => { s with counts := Store.erase k s.counts }
    | .context a item => s.writeCtx a item value)

/-- A word of a wider register. -/
def getWord {w : Nat} (x : BitVec w) (n : Nat) : DWord := x.extractLsb' (64 * n) 64

/-- A word of a context's dump request as it reads: +0x20 [63:16] and +0x28 to +0x3F are reserved and read zero (R6, R389). -/
def dumpReqShown (x : BitVec 512) (n : Nat) : DWord := if n < 4 then getWord x n else if n = 4 then getWord x 4 &&& 0xFFFF else 0

/-- What the management window shows of a register (R417): 0 in recovery, where only attestation and lifecycle answer (R421). An attach
list shows how many ASIDs it holds (log entry 29). -/
def State.mgmtRead (s : State) (r : MgmtReg) : DWord :=
  if s.recovery then 0 else match r with
    | .queue q word => (s.queue q.val).read word.val
    | .comm c word => (Store.get Comm.empty s.comms c.val).read word.val
    | .route dev => (Store.get 0 s.routes dev.toNat).setWidth 64
    | .attach a | .detach a => BitVec.ofNat 64 (s.ctx a).attach.length
    | .dumpMask a => (s.ctx a).dump
    | .dumpRequest a word => dumpReqShown (s.ctx a).dumpReq word.val
    | .sampling die => Store.get 0 s.sampling die.val
    | .quantum a => (s.ctx a).quantum
    | .budget => s.budget
    | .deferArea a => BitVec.ofNat 64 (s.ctx a).deferMax
    | .overflow => BitVec.ofNat 64 s.ovMax
    | .overflowBase => BitVec.ofNat 64 s.ovBase
    | .operatorKey word => getWord s.operKey word.val
    | .stratus _ => 0
    | .counter k => s.count k
    | .context a item => match item with
      | .root => (s.ctx a).root
      | .reserveNext => (s.ctx a).rnext
      | .reserveEnd => (s.ctx a).rend
      | .home => (s.ctx a).home
      | .homeSize => BitVec.ofNat 64 (s.ctx a).homeSize
      | .aperture core which => match which.val with
        | 0 => (s.ctxCore core.val a).apscr | 1 => (s.ctxCore core.val a).apstk | _ => (s.ctxCore core.val a).apstr
      | .create | .remove => BitVec.ofNat 64 (bitNat (s.ctx a).live)
      | .key _ => 0

/-- An ASID of a context's attach list (R374, R417). -/
def State.attachRead (s : State) (a : BitVec 16) (n : Nat) : Option (BitVec 16) := if s.recovery then none else (s.ctx a).attach[n]?

/-- The awaited-party record of a wait record of a queue, which only the management window reads (R357). -/
def State.queueWaitRead (s : State) (q : Nat) : List DWord := if s.recovery then [] else s.queueWords q

/-- The attestation report, which answers in recovery too (R421, R422). -/
def State.reportRead (s : State) : List Byte := match s.attest with | some r => r.image | none => []

/-! ### Time (R420, R432) -/

/-- A reference has appeared: a free-running servo begins locking. -/
def TimeState.seen (t : TimeState) : TimeState := if t.state = 0 && (t.pps || t.ptm != []) then { t with state := 1 } else t

/-- PPS_INPUT (R420). -/
def execPpsInput (present : Bool) (s : State) : Host.Outcome State Fault Refusal :=
  .next { s with tstat := { s.tstat with pps := present }.seen }

/-- The port whose measurements the servo takes: port 0, or port 1 while port 0 is down (R420). -/
def State.ptmPort (s : State) : Nat := if s.hostDown.contains 0 then 1 else 0

/-- PTM_MEASUREMENT (R420). -/
def execPtmMeasurement (port : Nat) (offset : BitVec 32) (s : State) : Host.Outcome State Fault Refusal :=
  .next (if !(port < 2) || s.hostDown.contains port then s
    else { s with tstat :=
      ({ s.tstat with ptm := port :: s.tstat.ptm.filter fun p => p != port, offset := if port = s.ptmPort then offset else s.tstat.offset } : TimeState).seen })

/-- A stamp stepped forward; it does not pass its greatest value. -/
def stepStamp (t ahead : DWord) : DWord := BitVec.ofNat 64 (min (2 ^ 64 - 1) (t.toNat + ahead.toNat))

/-- The stamp counters of the four dies. -/
def State.mapStamps (s : State) (f : DWord → DWord) : State :=
  { s with stamps := (List.range 4).foldl (fun m d => Store.put d (f (Store.get 0 s.stamps d)) m) s.stamps }

/-- SERVO_LOCK (R420, R432): the servo locks or regains lock with a reference present. A forward correction steps every counter
at once; a backward one is slewed, so that no stamp falls. -/
def execServoLock (ahead : BitVec 64) (backward : Bool) (s : State) : Host.Outcome State Fault Refusal :=
  .next (if !(s.tstat.pps || s.tstat.ptm != []) || s.tstat.state = 2 then s
    else
      let s1 := { s with tstat := { s.tstat with state := 2 } }
      if backward then s1
      else { s1.mapStamps (fun t => stepStamp t ahead) with mgmtTime := stepStamp s1.mgmtTime ahead })

/-- HOLDOVER (R420): the references are lost; a servo that was locked enters holdover, one that never locked runs free. -/
def execHoldover (s : State) : Host.Outcome State Fault Refusal :=
  .next { s with tstat := { s.tstat with pps := false, ptm := [], state := if s.tstat.state = 1 then 0 else if s.tstat.state = 2 then 3 else s.tstat.state } }

/-! ### Islands (R22, R428 to R430) -/

/-- Nominal clock of an island in MHz (R23). -/
def nominalMhz : Nat := 1700

/-- Is the island one of a spare core that is not mapped in (R22, R428)? -/
def State.spareIsland (s : State) (n : Nat) : Bool :=
  n < 816 && 64 ≤ n / 3 % 68 && !(s.phys.any fun p => p.2 == n / 3 % 68 + 1 && p.1 / 64 == n / 3 / 68)

/-- An island; one that is not listed runs at its nominal clock, a spare core's is off. -/
def State.island (s : State) (n : Nat) : Island :=
  Store.get ⟨if s.spareIsland n then 3 else 0, nominalMhz, 0, 8⟩ s.islands n

/-- Payload of a throttle record (R430). -/
def throttlePayload (island : Nat) (cause : BitVec 3) (mhz pmhz mv issue : Nat) : BitVec 96 :=
  BitVec.ofNat 96 (island % 2 ^ 10 + 2 ^ 10 * cause.toNat + 2 ^ 16 * (mhz % 2 ^ 16) + 2 ^ 32 * (pmhz % 2 ^ 16)
    + 2 ^ 48 * (mv % 2 ^ 12) + 2 ^ 60 * (issue % 16))

/-- THROTTLE_CHANGE (R429, R430). -/
def execThrottleChange (island : Nat) (cause : BitVec 3) (mhz mv issue : Nat) (s : State) : Host.Outcome State Fault Refusal :=
  let x := s.island island
  .next (if !(island < 1024 && cause.toNat ≤ 4 && mhz < 2 ^ 16 && mv < 2 ^ 12 && 1 ≤ issue && issue ≤ 8) then s
    else { s with islands := Store.put island { x with mhz := mhz, mv := mv, issue := issue } s.islands }.emit engMgmt 0x0F none
      (throttlePayload island cause mhz x.mhz mv issue))

/-- The logical core behind physical core p = 68·die + number, if one is. -/
def State.logicalOf (s : State) (p : Nat) : Option Nat :=
  (List.range Config.cores).find? fun c => c / 64 == p / 68 && s.present c && s.physical c == p % 68

/-- Does a context hold state on the core: a group, or a team that has not been switched out? -/
def State.holdsState (s : State) (core : Nat) : Bool :=
  (s.groups.any fun p => p.2.resident && p.2.core == core)
    || s.teams.any fun p => p.2.live && p.2.coreList.contains core && !(s.saved.any fun x => x.teams.contains p.1)

/-- Has the tensor copy engine of a core, which lies in its vector-and-issue island (R22), work? -/
def State.copyBusy (s : State) (core : Nat) : Bool :=
  (s.copies.any fun c => c.core == core) || s.rings.any fun r => r.cmd.core == core

/-- Have the graph launcher agents work: a task or a graph that is live, or a record that a queue has taken? -/
def State.launcherBusy (s : State) : Bool :=
  (s.tasks.any fun p => p.2.live) || (s.graphs.any fun p => p.2.live) || s.queues.any fun p => p.2.recs != []

/-- Does a unit of an island beyond the cores work, so that its clock must not stand: a Skipper while a collective is in progress, a graph
launcher agent that has work (log entry 90)? -/
def State.unitBusy (s : State) (n : Nat) : Bool :=
  (986 ≤ n && n < 1002 && s.colls.any fun c => c.status == 0) || (1018 ≤ n && n < 1022 && s.launcherBusy)

/-- May the management controller put the island in a state (R22, R429)? A core's vector-and-issue island runs while a group of the core
is resident or its copy engine works, and a matrix island while its pair's engine has operations: in each of the other states its clock
stands (log entry 90). -/
def State.islandMay (s : State) (n : Nat) (st : BitVec 2) : Bool :=
  if 816 ≤ n then n < 1024 && (st == 0 || !s.unitBusy n)
  else if s.spareIsland n then st == 3
  else match s.logicalOf (n / 3) with
    | none => true
    | some c =>
      if n % 3 = 1 then st == 0 || !((s.groups.any fun p => p.2.resident && p.2.core == c) || s.copyBusy c)
      else if n % 3 = 2 then st != 3 || !s.holdsState c
      else st == 0 || (Store.get MxPair.empty s.mx (c / 2)).ops == []

/-- The SRAM of a core is lost when its island goes off and reads zero on its return (R429): L1, instruction cache, scratchpad,
and its rows of the pair's accumulators. -/
def State.loseSram (s : State) (core : Nat) : State :=
  { s with
    l1 := s.l1.filter fun p => p.1 / 1024 != core, icache := s.icache.filter fun p => p.1 != core
    scratch := s.scratch.filter fun p => p.1 / 131072 != core
    poison := s.poison.filter fun c => match c with
      | .scratch k => k / 131072 != core
      | .l1 n _ _ => n != core
      | .accum k => !(k / 131072 == core / 2 && k % 16384 / 8192 == core % 2)
      | _ => true
    accum := s.accum.filter fun p => !(p.1 / 131072 == core / 2 && p.1 % 16384 / 8192 == core % 2) }

/-- The antenna bank of a core, which lies in its vector-and-issue island (R22), is lost when that goes off (R429). -/
def State.loseAntennae (s : State) (core : Nat) : State := { s with ants := s.ants.filter fun p => p.1 / 16 != core }

/-- What an island of a core loses when it goes off (R22, R429); a matrix island keeps nothing. -/
def State.islandOff (s : State) (island core : Nat) : State :=
  match island % 3 with
  | 1 => s.loseAntennae core
  | 2 => s.loseSram core
  | _ => s

/-- A Cirrus port's SRAM is lost: its replay buffer and its replay filter (R332, R338). -/
def State.losePort (s : State) (port : Nat) : State :=
  { s with replayBuf := s.replayBuf.filter fun f => f.port != port, filters := s.filters.filter fun e => e.port != port }

/-- Are all islands of a range off? -/
def State.allOff (s : State) (lo n : Nat) : Bool := (List.range n).all fun k => (s.island (lo + k)).st == 3

/-- What the Skippers hold is replicated in all 16 (R351): it is lost with the last of them. -/
def State.loseSkippers (s : State) : State :=
  { s with comms := [], tpls := [], colls := [], offers := [], notices := [], credits := [], lastk := [] }

/-- What the graph launcher agents hold of tasks and graphs that are over is lost with the last of them (log entry 90). -/
def State.loseLaunchers (s : State) : State := { s with tasks := [], graphs := [], ready := [], lastTaken := [] }

/-- What an island beyond the cores loses when it goes off (R428, R429). -/
def State.unitOff (s : State) (n : Nat) : State :=
  if 970 ≤ n && n < 986 then s.losePort (n - 970)
  else if 986 ≤ n && n < 1002 && s.allOff 986 16 then s.loseSkippers
  else if 1018 ≤ n && n < 1022 && s.allOff 1018 4 then s.loseLaunchers
  else s

/-- ISLAND_STATE_CHANGE (R429). -/
def execIslandStateChange (island : Nat) (st : BitVec 2) (s : State) : Host.Outcome State Fault Refusal :=
  if !s.islandMay island st then .next s
  else
    let s1 := { s with islands := Store.put island { s.island island with st := st } s.islands }
    .next (if st != 3 then s1
      else if 816 ≤ island then s1.unitOff island
      else match s.logicalOf (island / 3) with
        | some c => s1.islandOff island c
        | none => s1)

/-! ### Reliability (R425 to R427) -/

/-- Number of the counter of corrected errors of a unit of a hop (R427); hops are numbered as the rows of R426. -/
def ctrCorrected (hop unit : Nat) : Nat := 0x300_0000 + hop % 16 * 0x1_0000 + unit % 0x1_0000

/-- A register of a group is lost to an error that no check corrects: its reader is told (R207, R426). FADDR of a register is not
stated; it is 0 (log entry 80). -/
def State.loseReg (s : State) (k : Nat) (r : RegName) : State :=
  let g := s.group k
  if !g.resident then s
  else s.putGroup k { g with lost := g.lost ++ [⟨r, .dataLost, 0, (⟨.dataLost, 7, 0, 0xC, 0, 0, 2⟩ : AccErr).finfo g.asid⟩] }

/-- Data is lost where a check finds an error that it cannot correct (R426): in the L1, a byte of a line that it holds; in LPDDR6, a byte of
the Contrail store. -/
def State.loseData (s : State) (x : ErrSite) : State :=
  let cell (c : BadCell) : State := if s.poison.contains c then s else { s with poison := c :: s.poison }
  match x with
  | .hbm b => cell (.hbm b)
  | .stratus o => cell (.stratus o)
  | .lpddr b => if b < 32 * s.contrail.length then cell (.lpddr b) else s
  | .l1 core pa => match s.l1Find core (pa / 128) with
    | some w => cell (.l1 core pa (s.l1Way core (pa / 128) w).order)
    | none => s
  | .scratch core w => cell (.scratch (core * 131072 + w))
  | .accum pair w => cell (.accum (pair * 131072 + w))
  | .scalar k n => s.loseReg k (.scal n)
  | .vector k n lane => s.loseReg k (.word ((s.group k).place ((s.group k).vByte n lane)))
  | .predicate k n => s.loseReg k (.pred n)
  | .joinStack k => s.loseReg k .join

/-- CORRECTED_ERROR (R426, R427): a corrected error is counted per hop and unit; one of HBM (hop 0), whose unit is stack · 256 + channel,
counts towards the sparing of its pseudo-channel (R425); one that the check cannot correct loses the data where it was found. -/
def execCorrectedError (hop : Nat) (found : ErrFound) (s : State) : Host.Outcome State Fault Refusal :=
  .next (match found with
    | .lost x => s.loseData x
    | .corrected unit =>
      let s1 := s.bump (ctrCorrected hop unit)
      if hop = 0 then { s1 with chErrors := Store.put unit (Store.get 0 s.chErrors unit + 1) s.chErrors } else s1)

/-- PSEUDO_CHANNEL_SPARING (R425, R427): after 16 corrected errors in one pseudo-channel a stack's one spare takes its place; the record
carries the channel in EPC [7:0] and the stack in EPC [15:8] (log entry 24). The second in which the errors fall is timing (log entry 2). -/
def execPseudoChannelSparing (stack channel : Nat) (s : State) : Host.Outcome State Fault Refusal :=
  let u := channel % 256 + 256 * stack
  .next (if 12 ≤ stack || Store.get 0 s.chSpared stack != 0 || Store.get 0 s.chErrors u < 16 then s
    else ({ s with chSpared := Store.put stack (channel + 1) s.chSpared, chErrors := Store.erase u s.chErrors }.emit engMgmt 0x0A none
      (faultPayload 0 0 0 (BitVec.ofNat 64 u) 0 false true false)).deviceIrq)

/-! ### Attestation and lifecycle (R422, R423) -/

/-- The bytes of a report that its signature covers: +0x000 to +0x197 (R422). -/
def Report.signed (r : Report) : List Byte := r.image.take 0x198

/-- A number from 1 to the order less 1, as FIPS 186-5 asks of a private key and of a per-message number. -/
def scalarOf (v : Nat) : Nat := 1 + v % (P521.order - 1)

/-- A report signed with the identity key, with a per-message number (R422). -/
def Report.signWith (r : Report) (key k : Nat) : Report :=
  let x := ecdsaSign (scalarOf key) (scalarOf k) r.signed
  { r with sigR := BitVec.ofNat 528 x.1, sigS := BitVec.ofNat 528 x.2 }

/-- ATTESTATION_REQUEST (R422): the report, signed with the identity key, whose per-message number is a free value; none once the key is
destroyed (R423). -/
def execAttestationRequest (nonce : BitVec 512) (s : State) : Host.Outcome State Fault Refusal :=
  .next (if s.life = 3 then s
    else
      let r : Report :=
        { devid := s.device, life := s.life, nonce := nonce, meas := ((List.range 4).map fun i => s.meas.getD i 0) ++ [s.operKey]
          resets := s.resets, sigR := 0, sigS := 0 }
      { s.useFresh with attest := some (r.signWith Config.identityKey (s.fresh 528).toNat) })

/-- The moves that lifecycle makes (R423). -/
def lifeMay (a b : BitVec 4) : Bool := (a == 0 && b == 1) || (a == 1 && b == 2) || (a == 2 && b == 3) || (a == 2 && b == 1)

/-- LIFECYCLE_COMMAND (R423): a signed command takes effect at the next reset; vector 63 tells the hosts (R418). -/
def execLifecycleCommand (target : BitVec 4) (s : State) : Host.Outcome State Fault Refusal :=
  .next (if lifeMay s.life target then { s with lifeNext := some target }.deviceIrq else s)

/-! ### Boot and reset (R342, R421, R423, R431, R432) -/

/-- The bytes of a public key: its two coordinates, big-endian (FIPS 186-5). -/
def imageKeyBytes (x : BootImage) : List Byte := (leBytes 66 x.keyX.toNat).reverse ++ (leBytes 66 x.keyY.toNat).reverse

/-- A SHA-512 digest as a number whose first byte is the lowest. -/
def digestOf (m : List Byte) : BitVec 512 := BitVec.ofNat 512 (leValue (sha512 m))

/-- Does an image of a boot step carry its own digest and a signature by a key that may sign it: Kyosol's root key, whose digest is fused;
for the Skipper image of step 4 the registered operator key too (R421)? -/
def State.imageOk (s : State) (n : Nat) (x : BootImage) : Bool :=
  let k := digestOf (imageKeyBytes x)
  digestOf x.bytes == x.digest && (k == s.rootKey || (n == 3 && s.operKey != 0 && k == s.operKey))
    && ecdsaVerify (some (x.keyX.toNat, x.keyY.toNat)) x.bytes x.sigR.toNat x.sigS.toNat

/-- Are the four images of R421 all verified? -/
def State.imagesOk (s : State) (l : List BootImage) : Bool :=
  l.length == 4 && (List.range 4).all fun n => match l[n]? with | some x => s.imageOk n x | none => false

/-- Every Jetstream buffer drained into the store. -/
def State.drainAll (s : State) : State :=
  { s with jet := [], contrail := (List.range 4).foldl (fun l d => l ++ s.jetOf d) s.contrail }

/-- The largest sequence in a store. -/
def maxSeq (l : List Record) : BitVec 36 :=
  l.foldl (fun m r => let q : BitVec 36 := r.tag.setWidth 36; if m < q then q else m) 0

/-- The latest time that any counter shows. -/
def State.latest (s : State) : DWord := s.stamps.foldl (fun m p => if m < p.2 then p.2 else m) s.mgmtTime

/-- What the device is after bring-up (R431): wiped, with what it keeps, every sequence above the store's, the stamps from the
management controller's counter, and every queue disabled. Vector 63 signals readiness, or that an image has failed, which
leaves the device in recovery. -/
def State.bootUp (s : State) (images : List BootImage) (contrail : List Record) (top : BitVec 36) (time : DWord) (life : BitVec 4)
    (resets : DWord) : State :=
  let ok := s.imagesOk images
  let kept := s.poison.filter fun c => match c with | .lpddr b => b < 32 * contrail.length | _ => false
  let s1 : State :=
    { State.reset with
      freeCtr := s.freeCtr, poison := kept, agenda := s.agenda, device := s.device, host := s.host, peer := s.peer, routes := s.routes
      outbox := s.outbox, irqs := s.irqs, contrail := contrail, seqBase := top + 0x100000
      spares := s.spares, phys := s.phys, absent := s.absent, lanesLost := s.lanesLost, chSpared := s.chSpared
      mgmtTime := time, life := life, resets := resets, recovery := !ok
      rootKey := s.rootKey, operKey := s.operKey, meas := images.map fun x => x.digest
      tstat := ⟨if ok then 1 else 0, false, [], 0⟩ }
  (s1.mapStamps fun _ => time).deviceIrq

/-- DEVICE_RESET (R423, R431): the buffers drain into the store before anything is wiped; a lifecycle change takes effect and
wipes the store as well. -/
def execDeviceReset (images : List BootImage) (s : State) : Host.Outcome State Fault Refusal :=
  let s1 := s.drainAll
  .next (match s.lifeNext with
    | some l => s1.bootUp images [] (maxSeq s1.contrail) s1.latest l (if l = 1 then 0 else s.resets + 1)
    | none => s1.bootUp images s1.contrail (maxSeq s1.contrail) s1.latest s.life (s.resets + 1))

/-- POWER_ON (R431, R432): the management controller's counter starts at 0 and the store is empty (log entry 30); a lifecycle
command takes effect. -/
def execPowerOn (images : List BootImage) (s : State) : Host.Outcome State Fault Refusal :=
  .next (s.bootUp images [] 0 0 (s.lifeNext.getD s.life) (if s.lifeNext = some 1 then 0 else s.resets))

end Sys2Proof.Machine
end

