-- ==== Sys2Proof/Machine/Active.lean ====
section
/-! DEFINITION. When a group is ready and why it stalls (R80, R82, R85, R86), the active set of a quadrant (R79, R82, R83, R102) and
PC sampling (R388). -/

namespace Sys2Proof.Machine

/-! ### Readiness -/

/-- Has the attempt that left the group so ended without an issue: it waits and tries the same instruction again? -/
def Group.failed (g : Group) : Bool :=
  g.stall != 0 && match g.waiting with | .no | .fetch _ | .abar _ _ => true | _ => false

/-- What an instruction that can wait would do now; none for one that never waits by itself. -/
def State.attempt (s : State) (i : Instr) : Option (Host.Outcome State Fault Refusal) :=
  match i with
  | .mark f => some (execMark f s)
  | .tbar f => some (execTbar f s)
  | .ld f => some (execLd f s)
  | .st f => some (execSt f s)
  | .atom f => some (execAtom f s)
  | .red f => some (execRed f s)
  | .spst f => some (execSpst f s)
  | .spld f => some (execSpld f s)
  | .xlp f => some (execXlp f s)
  | .tlbiRange f => some (execTlbiRange f s)
  | .tlbiAsid f => some (execTlbiAsid f s)
  | .fence f => some (execFence f s)
  | .stsig f => some (execStsig f s)
  | .tcLd f => some (execTcLd f s)
  | .tcSt f => some (execTcSt f s)
  | .tcRingFill f => some (execTcRingFill f s)
  | .tcRingDrain f => some (execTcRingDrain f s)
  | .slTake f => some (execSlTake f s)
  | .slGive f => some (execSlGive f s)
  | .waitPath f => some (execWaitPath f s)
  | .abInit f => some (execAbInit f s)
  | .abArrive f => some (execAbArrive f s)
  | .abWait f => some (execAbWait f s)
  | .abTry f => some (execAbTry f s)
  | .abInval f => some (execAbInval f s)
  | .mxRel f => some (execMxRel f s)
  | .mxMma f => some (execMxMma f s)
  | .mxLd f => some (execMxLd f s)
  | .mxSt f => some (execMxSt f s)
  | .mxZero f => some (execMxZero f s)
  | .rgn f => some (execRgn f s)
  | .launch f => some (execLaunch f s)
  | .tcbd f => some (execTcbd f s)
  | .qpush f => some (execQpush f s)
  | .poll f => some (execPoll f s)
  | .dwait f => some (execDwait f s)
  | .cwait f => some (execCwait f s)
  | .clGo f => some (execClGo f s)
  | .clTpl f => some (execClTpl f s)
  | .inspRd f => some (execInspRd f s)
  | .inspWr f => some (execInspWr f s)
  | .step f => some (execStep f s)
  | .evt f => some (execEvt f s)
  | .cdmp f => some (execCdmp f s)
  | _ => none

/-- Is a wait of an instruction with a stall reason one on a long-latency dependence (R82): an unmet `wait.path`, `ab.wait`, `dwait` or
`cwait`, a `fence` that waits, as a path wait does (R238), or a Stratus refresh window? -/
def longReason (i : Instr) (r : Nat) : Bool :=
  r == 16 || r == 25 || match i with | .waitPath _ | .fence _ => r == 9 | .abWait _ => r == 11 | _ => false

/-- The stall reason of the decoded instruction of the issuing group, and whether it is a long-latency dependence; 0 when the
instruction is ready, as it also is when its attempt leaves more behind than the reason. -/
def State.instrWait (s : State) (i : Instr) : Nat × Bool :=
  match s.hazard i with
  | some r => (r, (s.g.waitsOn i (s.g.loads.filter fun l => l.far)).isSome)
  | none => match s.attempt i with
    | some (.next t) =>
      let r := t.g.stall.toNat
      if t.g.failed && t == s.stallWith r then (r, longReason i r) else (0, false)
    | _ => (0, false)

/-- The stall reason that the next instruction of the group at key k gives, and whether it is a long-latency dependence. A trap that an
engine has left for the group, or a fetch or decoding that faults, does not wait. -/
def State.nextWait (s : State) (k : Nat) : Nat × Bool :=
  let t := { s with cur := k }
  if t.g.asyncTraps != [] then (0, false)
  else match t.fetch t.g with
    | .miss _ => (2, false)
    | .walk _ => (30, false)
    | .words w m => match decode w m with
      | .ok i => t.instrWait i
      | .bad _ => (0, false)
    | _ => (0, false)

/-- The scoreboard's reason for the next instruction of the group at key k, which holds while another wait keeps the group (R86); 0 for a
group that a pre-emption takes elsewhere, and where that instruction is not known yet (log entry 27). -/
def State.nextHazard (s : State) (k : Nat) : Nat :=
  let t := { s with cur := k }
  let away : Bool := match t.g.waiting with | .preempted | .restore => true | _ => t.g.ended || !t.g.resident || t.g.asyncTraps != []
  if away then 0
  else match t.fetch t.g with
    | .words w m => match decode w m with
      | .ok i => (t.hazard i).getD 0
      | .bad _ => 0
    | _ => 0

/-- Is the group at key k ready (R80): nothing holds it, and its next instruction is fetched and waits for nothing? -/
def State.readyNow (s : State) (k : Nat) : Bool := (s.group k).canIssue && (s.nextWait k).1 == 0

/-- Does the group at key k wait on a long-latency dependence (R82)? -/
def State.waitsLong (s : State) (k : Nat) : Bool :=
  let g := s.group k
  match g.waiting with
  | .sleep long => long
  | .poll | .barrier | .abar _ _ => true
  | .no => g.canIssue && (s.nextWait k).2
  | _ => false

/-! ### Stall reasons (R86) -/

/-- The stall reason of a wait of a group; a core dump that a `cdmp` asks for is a memory operation (log entry 27). -/
def Group.waitReason (g : Group) : Nat :=
  match g.waiting with
  | .dump => if g.dumpTrap.isSome then 24 else 17
  | w => w.reason

/-- Number of the vector-and-issue island of a logical core (R428). -/
def State.issueIsland (s : State) (core : Nat) : Nat := 3 * (68 * (core / 64) + s.physical core) + 1

/-- The reasons that hold for a group at key k that rests in no chrysalis (log entry 27). -/
def State.reasons (s : State) (k : Nat) : List Nat :=
  let g := s.group k
  let put (b : Bool) (r : Nat) : Nat := if b then r else 0
  [put g.ended 1, g.waitReason, if g.canIssue then (s.nextWait k).1 else s.nextHazard k, put (g.preempt && !g.deferring) 23,
    put (!g.active && s.readyNow k) 26, put ((s.island (s.issueIsland g.core)).issue < 8) 28, put (g.stall.toNat == 29) 29]

/-- The lowest reason other than 0; with none, the group is ready and another one is chosen (R86). -/
def lowestReason (l : List Nat) : Nat := l.foldl (fun b r => if r != 0 && r < b then r else b) 31

/-- The stall reason of the group at key k: chrysalis for a group that rests in it (R379), else the lowest that holds (R86). -/
def State.stallNow (s : State) (k : Nat) : Nat := if (s.group k).chrysalis then 22 else lowestReason (s.reasons k)

/-! ### The active set (R79, R82, R83) -/

/-- The oldest of some groups: smallest age, then lowest key (R79, R80). -/
def oldest (gs : Sparse Group) : Option (Nat × Group) :=
  gs.foldl (fun b p => match b with
    | none => some p
    | some q => if p.2.age < q.2.age then some p else some q) none

/-- The ready groups of the pending set of a quadrant. -/
def State.pendingReady (s : State) (core quad : Nat) : Sparse Group :=
  (s.quadGroups core quad).filter fun p => !p.2.active && s.readyNow p.1

/-- The oldest ready group of the pending set of a quadrant. -/
def State.oldestPending (s : State) (core quad : Nat) : Option (Nat × Group) :=
  oldest (s.pendingReady core quad)

/-- The group of the pending set of a quadrant that has been ready longest, the oldest among several (R83). -/
def State.longestReady (s : State) (core quad : Nat) : Option (Nat × Group) :=
  let since (g : Group) : Nat := g.readyAt.getD (s.clock + s.turns)
  (s.pendingReady core quad).foldl (fun b p => match b with
    | none => some p
    | some q => if since p.2 < since q.2 || (since p.2 == since q.2 && p.2.age < q.2.age) then some p else some q) none

/-- Has the active set of a quadrant a free place (R79)? -/
def State.hasPlace (s : State) (core quad : Nat) : Bool :=
  ((s.quadGroups core quad).filter fun p => p.2.active).length < Config.activeMax

/-- A pending group, if there is one, enters the active set. -/
def State.activate (s : State) (x : Option (Nat × Group)) : State :=
  match x with
  | some (j, h) => s.putGroup j { h with active := true }
  | none => s

/-- The oldest ready pending group enters the active set of a quadrant (R82). -/
def State.enterActive (s : State) (core quad : Nat) : State := s.activate (s.oldestPending core quad)

/-- A free place of a quadrant's active set is taken (R82). -/
def State.fillPlace (s : State) (core quad : Nat) : State := if s.hasPlace core quad then s.enterActive core quad else s

/-- The group at key k gives its place to a pending group and joins the pending set, its age unchanged (R82, R83, R102). -/
def State.giveWay (s : State) (k : Nat) : State :=
  let g := s.group k
  (s.enterActive g.core g.quad).putGroup k { g with active := false }

/-- The active group of a quadrant that gives way to a forced swap (R83): the one that has issued least recently, or the one
in the lowest slot among several. -/
def State.swapVictim (s : State) (core quad : Nat) : Option (Nat × Group) :=
  ((s.quadGroups core quad).filter fun p => p.2.active).foldl (fun b p => match b with
    | none => some p
    | some q => if p.2.issued < q.2.issued then some p else some q) none

/-- PENDING_FORCED_SWAP (R83): the pending group that has been ready longest takes a place of the active set, a free one if there is
one. -/
def execPendingForcedSwap (core quad : Nat) (s : State) : Host.Outcome State Fault Refusal :=
  let x := s.longestReady core quad
  .next (if x.isNone then s
    else if s.hasPlace core quad then s.activate x
    else match s.swapVictim core quad with
      | some (k, g) => (s.activate x).putGroup k { g with active := false }
      | none => s)

/-- YIELD: swaps with the oldest ready group of the pending set (R102). -/
def execYield (f : VForm) (s : State) : Host.Outcome State Fault Refusal :=
  s.finish (.yield f)
    (.ok (.go (if s.g.groupExec f.g && (s.oldestPending s.g.core s.g.quad).isSome then s.giveWay s.cur else s)))

/-- A group that is put into chrysalis, with the stall reason that it was halted with (R381) and the wait that its next instruction had
begun, if it was at one (R379). -/
def Group.haltedAt (g : Group) (reason : Nat) : Group :=
  { g with chStall := BitVec.ofNat 5 reason, restWait := g.restWait || [9, 10, 11, 25].contains reason }

/-- The groups that a move from state s0 has put into chrysalis while they stalled keep the reason. -/
def State.noteHalts (s s0 : State) : State :=
  let fresh (p : Nat × Group) : Bool := p.2.chrysalis && !(s0.group p.1).chrysalis && p.2.pc == (s0.group p.1).pc
  if !s.groups.any fresh then s
  else { s with groups := s.groups.map fun p => if fresh p then (p.1, p.2.haltedAt (s0.stallNow p.1)) else p }

/-- The groups that wait on a long-latency dependence leave the active set (R82). -/
def State.leaveActive (s : State) : State :=
  let go (p : Nat × Group) : Bool := p.2.resident && p.2.active && s.waitsLong p.1
  if !s.groups.any go then s
  else { s with groups := s.groups.map fun p => if go p then (p.1, { p.2 with active := false }) else p }

/-- The free places of every quadrant that has a pending group are taken, one in each (R79, R82). -/
def State.fillPlaces (s : State) : State :=
  ((s.groups.filter fun p => p.2.resident && !p.2.active).map fun p => p.1).foldl
    (fun st k => st.fillPlace (st.group k).core (st.group k).quad) s

/-- Since when each pending group has been ready, in issues and autonomous steps (R83). -/
def State.noteReady (s : State) : State :=
  let since (p : Nat × Group) : Option Nat :=
    if p.2.resident && !p.2.active && s.readyNow p.1 then p.2.readyAt.or (some (s.clock + s.turns)) else none
  if !s.groups.any fun p => p.2.readyAt != since p then s
  else { s with groups := s.groups.map fun p => (p.1, { p.2 with readyAt := since p }) }

/-- The inputs and engines that wait on owned lines, after a move: inputs whose lines are free are performed (R234, R235); without an owned
line nothing waits for one. -/
def State.serveWaiting (s : State) : State :=
  let t := if s.inbox == [] then s else State.releaseInputs [] s.inbox s
  if t.owned == [] && t.waited != [] then { t with waited := [] } else t

/-- What follows a move from state s0: stall reasons of halts are kept, inputs that need not wait any more are performed, and the active
sets are brought up to date. -/
def State.afterMove (s s0 : State) : State := ((((s.noteHalts s0).serveWaiting).leaveActive).fillPlaces).noteReady

/-! ### PC sampling (R388) -/

/-- The stall reason that a group shows, and whether it is the group that issued last (R86). -/
def State.sampleOf (s : State) (k : Nat) : Nat × Bool :=
  let g := s.group k
  let issued := s.cur == k && g.stall == 0 && g.canIssue
  (if issued then 0 else s.stallNow k, issued)

/-- PC_SAMPLE of a quadrant (R388). -/
def execPcSample (core quad : Nat) (s : State) : Host.Outcome State Fault Refusal :=
  if !s.samplingOn (core / 64) then .next s
  else match s.sampleSlot core quad with
    | none => .next s
    | some x =>
      let k := groupKey core quad x
      let g := s.group k
      .next ({ s with sampled := Store.put (core * 4 + quad) (x + 1) s.sampled }.emit g.engine 0x0E (some g.asid)
        (samplePayload g (s.sampleOf k)))

end Sys2Proof.Machine
end

