-- ==== Sys2Proof/Machine/Lanes.lean ====
section
/-! DEFINITION. Cross-lane instructions (chapter 08, R173 to R189). -/

namespace Sys2Proof.Machine

/-- Lanes of `e` whose word of register n, read or written in the lane that `ln` gives, lies in the VIEW.A window. -/
def Group.windowVia (g : Group) (e : Lanes) (n : Nat) (wide : Bool) (ln : Nat → Option Nat) : Lanes :=
  if g.aLen = 0 then 0
  else laneSet fun i => e.getLsbD i && match ln i with
    | none => false
    | some j => g.inWindow (g.vByte n j) || (wide && g.inWindow (g.vByte (n + 1) j))

/-- The views checked for vector operands, then the window faults of a lane set. -/
def State.checkVia (s : State) (ops : List VecOp) (m : Lanes) : Except Stop Unit := do
  require (ops.all s.g.vecOk) s.operand
  s.windowFault m

/-- A scalar destination that is written once for the group unless the instruction is the never form (R173). -/
def State.setOnce (s : State) (gd : Guard) (n : Nat) (v : TVal) : State := if gd.isNever then s else s.setS n v

/-- The pattern of a vector source. -/
def srcPat (x : Src) : Pattern := match x with | .vec _ p => p | _ => .ident

/-! ### shfl (R176) -/

/-- The lane of A that `shfl` reads in lane i, through A's pattern; none for an index of 96 or more. -/
def State.shflLane (s : State) (f : VForm) (i : Nat) : Option Nat :=
  let j := ((s.rdSrc .n32 f.b i).val.setWidth 32).toNat
  if j < 96 then (srcPat f.a).lane j else none

/-- SHFL (R176). -/
def execShfl (f : VForm) (s : State) : Host.Outcome State Fault Refusal :=
  let e := s.g.execLanes f.g
  let w := f.ty.is64
  s.finish (.shfl f) do
    s.checkVia (f.d.vecOp w ++ f.a.vecOp w ++ f.b.vecOp false)
      (s.g.windowVia e f.d.vecNum w some ||| s.g.windowVia e f.a.vecNum w (s.shflLane f)
        ||| (f.b.vecOp false).foldl (fun m o => m ||| s.g.windowLanes e o) 0)
    .ok (.go (s.wrDst f.g f.ty f.d fun i =>
      match s.shflLane f i with
      | some j => s.moved f.ty (.vec (BitVec.ofNat 8 f.a.vecNum) .ident) j
      | none => TVal.zero))

/-! ### The reduction tree (R177, R178) -/

/-- node of R177: ABSENT is none. -/
def treeNode (comb : FOut → FOut → FOut) (a b : Option FOut) : Option FOut :=
  match a, b with
  | none, b => b
  | a, none => a
  | some x, some y => some (comb x y)

/-- blk of R177 over 2^k leaves from `lo` on. -/
def treeBlk (comb : FOut → FOut → FOut) (leaf : Nat → Option FOut) : Nat → Nat → Option FOut
  | 0, lo => leaf lo
  | k + 1, lo => treeNode comb (treeBlk comb leaf k lo) (treeBlk comb leaf k (lo + 2 ^ k))

/-- The node of the totals of beats 0 and 1, or of fewer. -/
def treeBefore (comb : FOut → FOut → FOut) (leaf : Nat → Option FOut) (b : Nat) : Option FOut :=
  if b = 0 then none
  else if b = 1 then treeBlk comb leaf 5 0
  else treeNode comb (treeBlk comb leaf 5 0) (treeBlk comb leaf 5 32)

/-- The root of R177. -/
def treeRoot (comb : FOut → FOut → FOut) (leaf : Nat → Option FOut) : Option FOut :=
  treeNode comb (treeBefore comb leaf 2) (treeBlk comb leaf 5 64)

/-- The loop of R180 over bits k, k − 1, … 0 of `n` = m + 1, from lane `lo` of the beat that begins at lane `base`. -/
def prefixFrom (comb : FOut → FOut → FOut) (leaf : Nat → Option FOut) (base n : Nat) :
    Nat → Nat → Option FOut → Option FOut
  | 0, _, w => w
  | k + 1, lo, w =>
    if n.testBit k then prefixFrom comb leaf base n k (lo + 2 ^ k) (treeNode comb w (treeBlk comb leaf k (base + lo)))
    else prefixFrom comb leaf base n k lo w

/-- P(i) of R180. -/
def treePrefix (comb : FOut → FOut → FOut) (leaf : Nat → Option FOut) (i : Nat) : Option FOut :=
  treeNode comb (treeBefore comb leaf (i / 32)) (prefixFrom comb leaf (32 * (i / 32)) (i % 32 + 1) 6 0 none)

/-- comb of R177 for float .add; `rdn` is the node mode's effect on the sign of a zero sum. -/
def combAdd (t : Ty) (rdn : Bool) (a b : FOut) : FOut :=
  let x := addVal rdn (tailedVal t (readFloat t a.v) a.tail) (tailedVal t (readFloat t b.v) b.tail)
  let fl := a.f ||| b.f ||| x.2
  match x.1 with
  | .nan _ => ⟨nanBits t, 0, fl⟩
  | .inf n => ⟨infBits t n, (a.tail ||| b.tail) &&& 1, fl⟩
  | .num y => let r := formNum t y; ⟨r.1, r.2.1 ||| ((a.tail ||| b.tail) &&& 1), fl⟩

/-- The combine of an op (R178). -/
def combOf (t : Ty) (op : Nat) (rdn : Bool) (a b : FOut) : FOut :=
  if t.isFlt then
    if op = 0 then combAdd t rdn a b
    else ⟨valBits t (minMaxVal (op == 2) 1 false false (readFloat t a.v) (readFloat t b.v)), 0, a.f ||| b.f⟩
  else
    let x := t.toInt a.v
    let y := t.toInt b.v
    let z : Int := match op with
      | 0 => x + y
      | 1 => min x y
      | 2 => max x y
      | 3 => (t.pattern a.v &&& t.pattern b.v : Nat)
      | 4 => (t.pattern a.v ||| t.pattern b.v : Nat)
      | _ => (t.pattern a.v ^^^ t.pattern b.v : Nat)
    ⟨t.ofInt z, 0, 0⟩

/-- The empty-set value of an op (R178). -/
def emptyOf (t : Ty) (op : Nat) : DWord :=
  if t.isFlt then (if op = 0 then 0 else infBits t (op == 2))
  else match op with
    | 1 => t.ofInt t.intMax
    | 2 => t.ofInt t.intMin
    | 3 => t.ofInt (-1)
    | _ => 0

/-- leaf(j) of R177: an executing lane's value, a float settled in its lane's mode; NV for a signalling NaN. -/
def State.leaf (s : State) (f : VForm) (j : Nat) : Option FOut :=
  if (s.g.execLanes f.g).getLsbD j then
    let w := s.rdSrc f.ty f.a j
    if f.ty.isFlt then
      let v := s.settledOf f f.ty w j 0
      some ⟨valBits f.ty v.1, 0, v.2⟩
    else some ⟨f.ty.ofInt (f.ty.toInt w.val), 0, 0⟩
  else none

/-- The flags of a written result (R178): for a float sum those of its value and tail beside NV. -/
def reducedFlags (t : Ty) (op : Nat) (r : FOut) : Flags :=
  if t.isFlt && op == 0 then
    let nx := r.tail != 0
    let small := match readFloat t r.v with | .num x => x.m != 0 && belowMin t x.m x.e | _ => false
    let big := r.tail == 7 && (r.v == maxBits t false || r.v == maxBits t true)
    r.f ||| flagIf nx fNX ||| flagIf big fOF ||| flagIf (small && nx) fUF
  else r.f

/-- A tree result with its flags, or the empty-set value. -/
def reduced (t : Ty) (op : Nat) (r : Option FOut) : FOut :=
  match r with
  | some x => { x with f := reducedFlags t op x }
  | none => ⟨emptyOf t op, 0, 0⟩

/-- The node mode of R177 is RDN. -/
def State.nodeRdn (s : State) (f : VForm) : Bool := s.effMode f (firstLane (s.g.execLanes f.g)) == 3

/-- The FP trap of a reduction (R188): its mask is E, every lane of which receives the flags. -/
def State.reduceCheck (s : State) (f : VForm) (fl : Flags) : Except Stop Unit :=
  let e := s.g.execLanes f.g
  let trapped := (lanesOf e).foldl (fun a i => a ||| (fl &&& fpcTrapen (s.g.fpcOf i))) 0
  if trapped = 0 then .ok () else .error (.trap .fp 0 (.raw (fpFinfo trapped fl f.mods.rmo.val)) e)

/-- The common end of `rdc` and `scan`: the flags of all written results are raised in every lane of E, NV of a signalling
leaf among them. -/
def State.reduceEnd (s t : State) (f : VForm) (outs : List FOut) : Body := do
  let e := lanesOf (s.g.execLanes f.g)
  let leaves := e.foldl (fun a i => a ||| ((s.leaf f i).map (·.f)).getD 0) 0
  let fl := outs.foldl (fun a o => a ||| o.f) leaves
  s.reduceCheck f fl
  let g := e.foldl (fun g i => g.orFlags i fl) t.g
  .ok (.go ((t.setG g).dixIf (f.ty.isFlt && s.draws f false))
    { flags := if fl = 0 then [] else e.map fun i => (some i, fl.toNat) })

/-- RDC (R179). -/
def execRdc (f : VForm) (s : State) : Host.Outcome State Fault Refusal :=
  let op := f.fn.toNat
  s.finish (.rdc f) do
    s.checkVecs (s.g.execLanes f.g) (f.ops1 f.ty)
    let r := reduced f.ty op (treeRoot (combOf f.ty op (s.nodeRdn f)) (s.leaf f))
    let t := match f.d with
      | .scal n => s.setOnce f.g n.val ⟨f.ty.widen r.v, r.tail⟩
      | _ => s.wrDst f.g f.ty f.d fun _ => ⟨r.v, r.tail⟩
    s.reduceEnd t f [r]

/-- The result of `scan` in lane i (R180). -/
def State.scanOut (s : State) (f : VForm) (i : Nat) : FOut :=
  let op := f.fn.toNat % 8
  let comb := combOf f.ty op (s.nodeRdn f)
  if f.fn.getLsbD 3 then reduced f.ty op (if i = 0 then none else treePrefix comb (s.leaf f) (i - 1))
  else reduced f.ty op (treePrefix comb (s.leaf f) i)

/-- SCAN (R180). -/
def execScan (f : VForm) (s : State) : Host.Outcome State Fault Refusal :=
  s.finish (.scan f) do
    s.checkVecs (s.g.execLanes f.g) (f.ops1 f.ty)
    let outs := (lanesOf (s.g.execLanes f.g)).map fun i => (i, s.scanOut f i)
    s.reduceEnd (s.wrOuts f.ty f.d outs) f (outs.map (·.2))

/-! ### ballot and match (R181, R182) -/

/-- The set R of R181. -/
def State.ballotSet (s : State) (f : VForm) : Lanes :=
  match f.a with
  | .special n _ => s.g.execLanes f.g &&& s.g.pred n.toNat
  | x => laneSet fun i => (s.g.execLanes f.g).getLsbD i && (s.rdSrc .n32 x i).val != 0

/-- BALLOT (R181): three scalars; s61 to s63 by R34 and R35. -/
def execBallot (f : VForm) (s : State) : Host.Outcome State Fault Refusal :=
  s.finish (.ballot f) do
    s.checkVecs (s.g.execLanes f.g) (f.a.vecOp false)
    let r := s.ballotSet f
    let n := f.d.scalNum
    .ok (.go (((s.setOnce f.g n ⟨lanePart r 0, 0⟩).setOnce f.g (n + 1) ⟨lanePart r 1, 0⟩).setOnce f.g (n + 2)
      ⟨lanePart r 2, 0⟩))

/-- The lowest lane of E whose value equals lane i's, bit for bit (R182). -/
def State.matchLane (s : State) (f : VForm) (i : Nat) : Nat :=
  ((lanesOf (s.g.execLanes f.g)).find? fun j => (s.rdSrc f.ty f.a j).val == (s.rdSrc f.ty f.a i).val).getD i

/-- MATCH.any (R182): an n32. -/
def execMatchAny (f : VForm) (s : State) : Host.Outcome State Fault Refusal :=
  s.finish (.matchAny f) do
    s.checkVecs (s.g.execLanes f.g) (f.d.vecOp false ++ f.a.vecOp f.ty.is64)
    .ok (.go (s.wrDst f.g .n32 f.d fun i => ⟨BitVec.ofNat 64 (s.matchLane f i), 0⟩))

/-- MATCH.all (R182). -/
def execMatchAll (f : VForm) (s : State) : Host.Outcome State Fault Refusal :=
  s.finish (.matchAll f) do
    s.checkVecs (s.g.execLanes f.g) (f.a.vecOp f.ty.is64)
    let e := s.g.execLanes f.g
    let same := (lanesOf e).all fun i => s.matchLane f i == firstLane e
    .ok (.go (s.setG (s.g.setPred f.d.predNum e (if same then allLanes else 0))))

/-! ### isect (R183, R184) -/

/-- nA and nB of R183. -/
def State.isectLens (s : State) (f : VForm) : Nat × Nat :=
  let c := s.n32 f.c
  (min (c % 256) 96, min (c / 256 % 256) 96)

/-- The keys of a run. -/
def State.isectKeys (s : State) (f : VForm) (x : Src) (n : Nat) : List DWord :=
  (List.range n).map fun j => (s.rdSrc f.ty x j).val

/-- The checks of `isect`: keys are read whatever the mask holds. -/
def State.isectCheck (s : State) (f : VForm) (dst : List VecOp) : Except Stop Unit :=
  let w := f.ty.is64
  let read (x : Src) (n : Nat) := (x.vecOp w).any fun o => s.g.windowLanes (laneSet fun i => i < n) o != 0
  let l := s.isectLens f
  s.checkVia (dst ++ f.a.vecOp w ++ f.b.vecOp w)
    (if read f.a l.1 || read f.b l.2 then s.g.execLanes f.g
     else dst.foldl (fun m o => m ||| s.g.windowLanes (s.g.execLanes f.g) o) 0)

/-- ISECT.m (R183). -/
def execIsectM (f : VForm) (s : State) : Host.Outcome State Fault Refusal :=
  s.finish (.isectM f) do
    s.isectCheck f (f.d.vecOp false)
    let l := s.isectLens f
    let a := s.isectKeys f f.a l.1
    let b := s.isectKeys f f.b l.2
    let hit (i : Nat) : Option Nat := match a[i]? with | some x => b.findIdx? (· == x) | none => none
    .ok (.go (if f.d.isPred then s.setG (s.g.setPred f.d.predNum (s.g.execLanes f.g) (laneSet fun i => (hit i).isSome))
      else s.wrDst f.g .n32 f.d fun i => ⟨match hit i with | some j => BitVec.ofNat 64 j | none => 0xFFFFFFFF, 0⟩))

/-- The counts of R184. -/
def isectAdvance (a b : List DWord) : Nat :=
  if a = [] ∨ b = [] then a.length + 256 * b.length
  else
    let x := a.getLastD 0
    let y := b.getLastD 0
    let l := if x < y then x else y
    (a.filter fun k => k ≤ l).length + 256 * (b.filter fun k => k ≤ l).length

/-- ISECT.adv (R184). -/
def execIsectAdv (f : VForm) (s : State) : Host.Outcome State Fault Refusal :=
  s.finish (.isectAdv f) do
    s.isectCheck f (f.d.vecOp false)
    let l := s.isectLens f
    let n := isectAdvance (s.isectKeys f f.a l.1) (s.isectKeys f f.b l.2)
    .ok (.go (s.wrDst f.g .n32 f.d fun _ => ⟨BitVec.ofNat 64 n, 0⟩))

/-! ### Compaction, expansion, sorting (R185 to R187) -/

/-- CMPCT (R185): the vector form writes lanes 0 to n − 1 whatever the mask holds there. -/
def execCmpct (f : VForm) (s : State) : Host.Outcome State Fault Refusal :=
  let e := lanesOf (s.g.execLanes f.g)
  let w := f.ty.is64
  s.finish (.cmpct f) do
    s.checkVia (f.d.vecOp w ++ f.a.vecOp w)
      ((if f.d.isScal then 0 else s.g.windowVia (laneSet fun i => i < e.length) f.d.vecNum w some)
        ||| (f.a.vecOp w).foldl (fun m o => m ||| s.g.windowLanes (s.g.execLanes f.g) o) 0)
    .ok (.go (match f.d with
      | .scal n => s.setOnce f.g n.val ⟨BitVec.ofNat 64 e.length, 0⟩
      | d => s.setLanes d.vecNum w (e.mapIdx fun k i => (k, s.moved f.ty f.a i))))

/-- EXPD (R186). -/
def execExpd (f : VForm) (s : State) : Host.Outcome State Fault Refusal :=
  let e := lanesOf (s.g.execLanes f.g)
  let w := f.ty.is64
  let rank (i : Nat) : Option Nat := (srcPat f.a).lane (e.idxOf i)
  s.finish (.expd f) do
    s.checkVia (f.d.vecOp w ++ f.a.vecOp w)
      (s.g.windowVia (s.g.execLanes f.g) f.d.vecNum w some ||| s.g.windowVia (s.g.execLanes f.g) f.a.vecNum w rank)
    .ok (.go (s.setLanes f.d.vecNum w (e.mapIdx fun k i => (i, s.moved f.ty f.a k))))

/-- Does the value x come before y in the order of `lsort` (R187)? NaNs come last. -/
def sortBefore (t : Ty) (desc : Bool) (x y : TVal) : Bool :=
  if t.isFlt then
    let a := rawKey t (readFloat t x.val) x.tail
    let b := rawKey t (readFloat t y.val) y.tail
    if a.isNan then false else if b.isNan then true else if desc then orderedLt b a else orderedLt a b
  else if desc then t.toInt y.val < t.toInt x.val else t.toInt x.val < t.toInt y.val

/-- A value inserted after every value that does not come after it. -/
def sortInsert (before : TVal → TVal → Bool) (x : TVal) : List TVal → List TVal
  | [] => [x]
  | y :: l => if before x y then x :: y :: l else y :: sortInsert before x l

/-- LSORT (R187): stable, over the lanes of E. -/
def execLsort (f : VForm) (s : State) : Host.Outcome State Fault Refusal :=
  s.finish (.lsort f) do
    s.checkVecs (s.g.execLanes f.g) (f.ops1 f.ty)
    let e := lanesOf (s.g.execLanes f.g)
    let sorted := (e.map fun i => s.rdSrc f.ty f.a i).foldl
      (fun l x => sortInsert (sortBefore f.ty (f.fn == 1)) x l) []
    .ok (.go (s.setLanes f.d.vecNum f.ty.is64 (e.zip sorted)))

end Sys2Proof.Machine
end

