-- ==== Sys2Proof/Machine/Dispatch.lean ====
section
/-! DEFINITION. One arm per instruction: the call of its meaning. -/

namespace Sys2Proof.Machine

def exec (i : Instr) (s : State) : Host.Outcome State Fault Refusal :=
  match i with
  | .nop f => Sys2Proof.Machine.execNop f s
  | .bra f => Sys2Proof.Machine.execBra f s
  | .brx f => Sys2Proof.Machine.execBrx f s
  | .call f => Sys2Proof.Machine.execCall f s
  | .callx f => Sys2Proof.Machine.execCallx f s
  | .ret f => Sys2Proof.Machine.execRet f s
  | .mark f => Sys2Proof.Machine.execMark f s
  | .join f => Sys2Proof.Machine.execJoin f s
  | .exit f => Sys2Proof.Machine.execExit f s
  | .loop f => Sys2Proof.Machine.execLoop f s
  | .elect f => Sys2Proof.Machine.execElect f s
  | .vote f => Sys2Proof.Machine.execVote f s
  | .plog f => Sys2Proof.Machine.execPlog f s
  | .pmovPv f => Sys2Proof.Machine.execPmovPv f s
  | .pmovVp f => Sys2Proof.Machine.execPmovVp f s
  | .pmovPm f => Sys2Proof.Machine.execPmovPm f s
  | .pmovMp f => Sys2Proof.Machine.execPmovMp f s
  | .tbar f => Sys2Proof.Machine.execTbar f s
  | .sleep f => Sys2Proof.Machine.execSleep f s
  | .yield f => Sys2Proof.Machine.execYield f s
  | .iadd f => Sys2Proof.Machine.execIadd f s
  | .isub f => Sys2Proof.Machine.execIsub f s
  | .imul f => Sys2Proof.Machine.execImul f s
  | .imulh f => Sys2Proof.Machine.execImulh f s
  | .imad f => Sys2Proof.Machine.execImad f s
  | .idiv f => Sys2Proof.Machine.execIdiv f s
  | .irem f => Sys2Proof.Machine.execIrem f s
  | .imin f => Sys2Proof.Machine.execImin f s
  | .imax f => Sys2Proof.Machine.execImax f s
  | .icmp f => Sys2Proof.Machine.execIcmp f s
  | .isel f => Sys2Proof.Machine.execIsel f s
  | .and f => Sys2Proof.Machine.execAnd f s
  | .or f => Sys2Proof.Machine.execOr f s
  | .xor f => Sys2Proof.Machine.execXor f s
  | .not f => Sys2Proof.Machine.execNot f s
  | .shl f => Sys2Proof.Machine.execShl f s
  | .shr f => Sys2Proof.Machine.execShr f s
  | .sar f => Sys2Proof.Machine.execSar f s
  | .rot f => Sys2Proof.Machine.execRot f s
  | .clz f => Sys2Proof.Machine.execClz f s
  | .popc f => Sys2Proof.Machine.execPopc f s
  | .brev f => Sys2Proof.Machine.execBrev f s
  | .bfx f => Sys2Proof.Machine.execBfx f s
  | .bfi f => Sys2Proof.Machine.execBfi f s
  | .lea f => Sys2Proof.Machine.execLea f s
  | .icvt f => Sys2Proof.Machine.execIcvt f s
  | .mov f => Sys2Proof.Machine.execMov f s
  | .movi f => Sys2Proof.Machine.execMovi f s
  | .dp4 f => Sys2Proof.Machine.execDp4 f s
  | .rnsEnc f => Sys2Proof.Machine.execRnsEnc f s
  | .rns f => Sys2Proof.Machine.execRns f s
  | .rnsDec f => Sys2Proof.Machine.execRnsDec f s
  | .fcvt f => Sys2Proof.Machine.execFcvt f s
  | .settle f => Sys2Proof.Machine.execSettle f s
  | .f2i f => Sys2Proof.Machine.execF2i f s
  | .i2f f => Sys2Proof.Machine.execI2f f s
  | .frnd f => Sys2Proof.Machine.execFrnd f s
  | .fclass f => Sys2Proof.Machine.execFclass f s
  | .fscale f => Sys2Proof.Machine.execFscale f s
  | .fxtrExp f => Sys2Proof.Machine.execFxtrExp f s
  | .fxtrSig f => Sys2Proof.Machine.execFxtrSig f s
  | .tget f => Sys2Proof.Machine.execTget f s
  | .tset f => Sys2Proof.Machine.execTset f s
  | .fpcr f => Sys2Proof.Machine.execFpcr f s
  | .fpcw f => Sys2Proof.Machine.execFpcw f s
  | .fpack f => Sys2Proof.Machine.execFpack f s
  | .funpk f => Sys2Proof.Machine.execFunpk f s
  | .fadd f => Sys2Proof.Machine.execFadd f s
  | .fsub f => Sys2Proof.Machine.execFsub f s
  | .fmul f => Sys2Proof.Machine.execFmul f s
  | .fma f => Sys2Proof.Machine.execFma f s
  | .fdiv f => Sys2Proof.Machine.execFdiv f s
  | .fsqrt f => Sys2Proof.Machine.execFsqrt f s
  | .fmin f => Sys2Proof.Machine.execFmin f s
  | .fmax f => Sys2Proof.Machine.execFmax f s
  | .fcmp f => Sys2Proof.Machine.execFcmp f s
  | .fcmpRaw f => Sys2Proof.Machine.execFcmpRaw f s
  | .frcp f => Sys2Proof.Machine.execFrcp f s
  | .frsq f => Sys2Proof.Machine.execFrsq f s
  | .fexp2 f => Sys2Proof.Machine.execFexp2 f s
  | .flog2 f => Sys2Proof.Machine.execFlog2 f s
  | .fsinpi f => Sys2Proof.Machine.execFsinpi f s
  | .fcospi f => Sys2Proof.Machine.execFcospi f s
  | .ftanh f => Sys2Proof.Machine.execFtanh f s
  | .fdot2 f => Sys2Proof.Machine.execFdot2 f s
  | .rnd f => Sys2Proof.Machine.execRnd f s
  | .shfl f => Sys2Proof.Machine.execShfl f s
  | .rdc f => Sys2Proof.Machine.execRdc f s
  | .scan f => Sys2Proof.Machine.execScan f s
  | .ballot f => Sys2Proof.Machine.execBallot f s
  | .matchAny f => Sys2Proof.Machine.execMatchAny f s
  | .matchAll f => Sys2Proof.Machine.execMatchAll f s
  | .isectM f => Sys2Proof.Machine.execIsectM f s
  | .isectAdv f => Sys2Proof.Machine.execIsectAdv f s
  | .cmpct f => Sys2Proof.Machine.execCmpct f s
  | .expd f => Sys2Proof.Machine.execExpd f s
  | .lsort f => Sys2Proof.Machine.execLsort f s
  | .ld f => Sys2Proof.Machine.execLd f s
  | .st f => Sys2Proof.Machine.execSt f s
  | .atom f => Sys2Proof.Machine.execAtom f s
  | .red f => Sys2Proof.Machine.execRed f s
  | .spst f => Sys2Proof.Machine.execSpst f s
  | .spld f => Sys2Proof.Machine.execSpld f s
  | .prf f => Sys2Proof.Machine.execPrf f s
  | .cinvLine f => Sys2Proof.Machine.execCinvLine f s
  | .cinvAll f => Sys2Proof.Machine.execCinvAll f s
  | .xlp f => Sys2Proof.Machine.execXlp f s
  | .tlbiRange f => Sys2Proof.Machine.execTlbiRange f s
  | .tlbiAsid f => Sys2Proof.Machine.execTlbiAsid f s
  | .ggen f => Sys2Proof.Machine.execGgen f s
  | .fence f => Sys2Proof.Machine.execFence f s
  | .stsig f => Sys2Proof.Machine.execStsig f s
  | .tcLd f => Sys2Proof.Machine.execTcLd f s
  | .tcSt f => Sys2Proof.Machine.execTcSt f s
  | .tcRingFill f => Sys2Proof.Machine.execTcRingFill f s
  | .tcRingDrain f => Sys2Proof.Machine.execTcRingDrain f s
  | .tcStop f => Sys2Proof.Machine.execTcStop f s
  | .slTake f => Sys2Proof.Machine.execSlTake f s
  | .slGive f => Sys2Proof.Machine.execSlGive f s
  | .waitPath f => Sys2Proof.Machine.execWaitPath f s
  | .pcnt f => Sys2Proof.Machine.execPcnt f s
  | .abInit f => Sys2Proof.Machine.execAbInit f s
  | .abArrive f => Sys2Proof.Machine.execAbArrive f s
  | .abWait f => Sys2Proof.Machine.execAbWait f s
  | .abTry f => Sys2Proof.Machine.execAbTry f s
  | .abInval f => Sys2Proof.Machine.execAbInval f s
  | .stw f => Sys2Proof.Machine.execStw f s
  | .mxAcq f => Sys2Proof.Machine.execMxAcq f s
  | .mxRel f => Sys2Proof.Machine.execMxRel f s
  | .mxMma f => Sys2Proof.Machine.execMxMma f s
  | .mxLd f => Sys2Proof.Machine.execMxLd f s
  | .mxSt f => Sys2Proof.Machine.execMxSt f s
  | .mxZero f => Sys2Proof.Machine.execMxZero f s
  | .mxQ f => Sys2Proof.Machine.execMxQ f s
  | .rgn f => Sys2Proof.Machine.execRgn f s
  | .launch f => Sys2Proof.Machine.execLaunch f s
  | .tcbd f => Sys2Proof.Machine.execTcbd f s
  | .qpush f => Sys2Proof.Machine.execQpush f s
  | .poll f => Sys2Proof.Machine.execPoll f s
  | .dwait f => Sys2Proof.Machine.execDwait f s
  | .clk f => Sys2Proof.Machine.execClk f s
  | .cwait f => Sys2Proof.Machine.execCwait f s
  | .clGo f => Sys2Proof.Machine.execClGo f s
  | .clCk f => Sys2Proof.Machine.execClCk f s
  | .clAbort f => Sys2Proof.Machine.execClAbort f s
  | .awr f => Sys2Proof.Machine.execAwr f s
  | .clTpl f => Sys2Proof.Machine.execClTpl f s
  | .trap f => Sys2Proof.Machine.execTrap f s
  | .rfe f => Sys2Proof.Machine.execRfe f s
  | .srd f => Sys2Proof.Machine.execSrd f s
  | .swr f => Sys2Proof.Machine.execSwr f s
  | .halt f => Sys2Proof.Machine.execHalt f s
  | .haltTeam f => Sys2Proof.Machine.execHaltTeam f s
  | .antSet f => Sys2Proof.Machine.execAntSet f s
  | .antGet f => Sys2Proof.Machine.execAntGet f s
  | .inspRd f => Sys2Proof.Machine.execInspRd f s
  | .inspWr f => Sys2Proof.Machine.execInspWr f s
  | .step f => Sys2Proof.Machine.execStep f s
  | .resume f => Sys2Proof.Machine.execResume f s
  | .evt f => Sys2Proof.Machine.execEvt f s
  | .cdmp f => Sys2Proof.Machine.execCdmp f s
  | .pendingForcedSwap core quad => Sys2Proof.Machine.execPendingForcedSwap core quad s
  | .sleepExpiry grp => Sys2Proof.Machine.execSleepExpiry grp s
  | .pollBackoffExpiry grp => Sys2Proof.Machine.execPollBackoffExpiry grp s
  | .loadDataReturn grp => Sys2Proof.Machine.execLoadDataReturn grp s
  | .writeAcknowledge grp => Sys2Proof.Machine.execWriteAcknowledge grp s
  | .translationWalk asid va => Sys2Proof.Machine.execTranslationWalk asid va s
  | .tlbiComplete grp => Sys2Proof.Machine.execTlbiComplete grp s
  | .ggenComplete grp => Sys2Proof.Machine.execGgenComplete grp s
  | .joinStackSpill grp => Sys2Proof.Machine.execJoinStackSpill grp s
  | .joinStackFill grp => Sys2Proof.Machine.execJoinStackFill grp s
  | .tcAccept grp => Sys2Proof.Machine.execTcAccept grp s
  | .tcComplete core => Sys2Proof.Machine.execTcComplete core s
  | .tcReplayableFault core => Sys2Proof.Machine.execTcReplayableFault core s
  | .tcReplay core => Sys2Proof.Machine.execTcReplay core s
  | .tcAbandon core => Sys2Proof.Machine.execTcAbandon core s
  | .ringTile core rec => Sys2Proof.Machine.execRingTile core rec s
  | .mxOpBegin pair => Sys2Proof.Machine.execMxOpBegin pair s
  | .mxOpRetire pair => Sys2Proof.Machine.execMxOpRetire pair s
  | .matrixWatchdog pair => Sys2Proof.Machine.execMatrixWatchdog pair s
  | .matrixResetEnd pair => Sys2Proof.Machine.execMatrixResetEnd pair s
  | .checkpointComplete grp => Sys2Proof.Machine.execCheckpointComplete grp s
  | .tbarWaitRecord grp => Sys2Proof.Machine.execTbarWaitRecord grp s
  | .abWaitRecord grp => Sys2Proof.Machine.execAbWaitRecord grp s
  | .stratusRefreshWindow die bank enters => Sys2Proof.Machine.execStratusRefreshWindow die bank enters s
  | .preemptionLate grp => Sys2Proof.Machine.execPreemptionLate grp s
  | .handlerDeferralExpiry grp => Sys2Proof.Machine.execHandlerDeferralExpiry grp s
  | .groupRestart grp => Sys2Proof.Machine.execGroupRestart grp s
  | .quantumExpiry core outgoing incoming cycles => Sys2Proof.Machine.execQuantumExpiry core outgoing incoming cycles s
  | .switchCollectiveAbort comm seq => Sys2Proof.Machine.execSwitchCollectiveAbort comm seq s
  | .forcedChrysalisSwitch core asid incoming cycles => Sys2Proof.Machine.execForcedChrysalisSwitch core asid incoming cycles s
  | .doorbellWrite port q tail => Sys2Proof.Machine.execDoorbellWrite port q tail s
  | .queueEnable q => Sys2Proof.Machine.execQueueEnable q s
  | .mgmtWindowWrite r value => Sys2Proof.Machine.execMgmtWindowWrite r value s
  | .attestationRequest nonce => Sys2Proof.Machine.execAttestationRequest nonce s
  | .lifecycleCommand target => Sys2Proof.Machine.execLifecycleCommand target s
  | .recordNop q => Sys2Proof.Machine.execRecordNop q s
  | .recordGraph q => Sys2Proof.Machine.execRecordGraph q s
  | .recordWait q => Sys2Proof.Machine.execRecordWait q s
  | .waitRecordReread q => Sys2Proof.Machine.execWaitRecordReread q s
  | .recordSignal q => Sys2Proof.Machine.execRecordSignal q s
  | .teamPlacement core => Sys2Proof.Machine.execTeamPlacement core s
  | .readyOverflowMove => Sys2Proof.Machine.execReadyOverflowMove s
  | .teamEnd team => Sys2Proof.Machine.execTeamEnd team s
  | .taskRetire task => Sys2Proof.Machine.execTaskRetire task s
  | .coreLost core => Sys2Proof.Machine.execCoreLost core s
  | .chunkFlitReceive p => Sys2Proof.Machine.execChunkFlitReceive p s
  | .mismatchNotice comm seq rankA rankB sigA sigB tag => Sys2Proof.Machine.execMismatchNotice comm seq rankA rankB sigA sigB tag s
  | .abortNotice comm seq src late tag => Sys2Proof.Machine.execAbortNotice comm seq src late tag s
  | .collectiveNode comm seq node => Sys2Proof.Machine.execCollectiveNode comm seq node s
  | .collectiveComplete comm seq => Sys2Proof.Machine.execCollectiveComplete comm seq s
  | .collectiveGateOpen comm seq => Sys2Proof.Machine.execCollectiveGateOpen comm seq s
  | .collectiveWatchdog comm seq node => Sys2Proof.Machine.execCollectiveWatchdog comm seq node s
  | .probe comm seq fromRank tag => Sys2Proof.Machine.execProbe comm seq fromRank tag s
  | .probeAnswer comm seq node rank ans tag => Sys2Proof.Machine.execProbeAnswer comm seq node rank ans tag s
  | .probeTimeout comm seq node rank => Sys2Proof.Machine.execProbeTimeout comm seq node rank s
  | .flitReceive port crcOk fec h credit => Sys2Proof.Machine.execFlitReceive port crcOk fec h credit s
  | .linkReplay port linkSeq => Sys2Proof.Machine.execLinkReplay port linkSeq s
  | .laneRetrain port lane => Sys2Proof.Machine.execLaneRetrain port lane s
  | .portDown port => Sys2Proof.Machine.execPortDown port s
  | .peerRequest port src reqId times op pa size data cmp tag => Sys2Proof.Machine.execPeerRequest port src reqId times op pa size data cmp tag s
  | .retransmitTimeout port reqId => Sys2Proof.Machine.execRetransmitTimeout port reqId s
  | .outcomeUnknown port reqId => Sys2Proof.Machine.execOutcomeUnknown port reqId s
  | .filterEntryExpiry port src reqId => Sys2Proof.Machine.execFilterEntryExpiry port src reqId s
  | .hostPortFailure port => Sys2Proof.Machine.execHostPortFailure port s
  | .hostLinkRetrain port => Sys2Proof.Machine.execHostLinkRetrain port s
  | .pcSample core quad => Sys2Proof.Machine.execPcSample core quad s
  | .jetstreamDrain die => Sys2Proof.Machine.execJetstreamDrain die s
  | .dropSummary die => Sys2Proof.Machine.execDropSummary die s
  | .ppsInput present => Sys2Proof.Machine.execPpsInput present s
  | .ptmMeasurement port offset => Sys2Proof.Machine.execPtmMeasurement port offset s
  | .servoLock ahead backward => Sys2Proof.Machine.execServoLock ahead backward s
  | .throttleChange island cause mhz mv issue => Sys2Proof.Machine.execThrottleChange island cause mhz mv issue s
  | .islandStateChange island st => Sys2Proof.Machine.execIslandStateChange island st s
  | .correctedError hop found => Sys2Proof.Machine.execCorrectedError hop found s
  | .pseudoChannelSparing stack channel => Sys2Proof.Machine.execPseudoChannelSparing stack channel s
  | .powerOn images => Sys2Proof.Machine.execPowerOn images s
  | .deviceReset images => Sys2Proof.Machine.execDeviceReset images s
  | .unassignedOpcode w => Sys2Proof.Machine.execUnassignedOpcode w s
  | .hostWrite port addr data relaxed => Sys2Proof.Machine.execHostWrite port addr data relaxed s
  | .holdover => Sys2Proof.Machine.execHoldover s
  | .instructionCacheMissFill grp => Sys2Proof.Machine.execInstructionCacheMissFill grp s
  | .coreDumpComplete grp => Sys2Proof.Machine.execCoreDumpComplete grp s

end Sys2Proof.Machine
end

