-- ==== Sys2Proof/Machine/Schedule.lean ====
section
/-! DEFINITION. What moves next (R79, R80 and log entry 3), and the issue of one group's next instruction. -/

namespace Sys2Proof.Machine

/-- The trap of a fault found while decoding the word `w` (R65): the trap mask is the active lanes. -/
def State.raiseWord (s : State) (w : BitVec 96) (v : Viol) : State :=
  let g := s.g
  s.takeTrap s.cur
    { code := v.code, faddr := 0, finfo := genericFinfo v.detail (wordOp w) (w.extractLsb' 84 4) g.mask, mask := g.mask
      async := false, ilen := wordMw w }

/-- The trap of a failed fetch (R65 order 1): FADDR is the failing byte's address; `mw` is MW of the word, 0 where that cannot be read
(log entry 13). -/
def State.raiseFetch (s : State) (e : AccErr) (mw : Bool) : State :=
  let g := s.g
  s.takeTrap s.cur { code := e.code, faddr := e.faddr, finfo := e.finfo g.asid, mask := g.mask, async := false, ilen := mw }

/-- The loss that an instruction meets once it has passed the checks of R65 that come before (R207, R426). -/
def State.lossOf (s : State) (i : Instr) : Option (Loss × Lanes) :=
  if !s.g.passes i then none else pickLoss (s.g.lossesMet i (s.g.lost ++ s.accLosses))

/-- An instruction of the issuing group that the scoreboard lets through runs, unless it reads a lost register (R65 order 6, R207). -/
def State.run (s : State) (i : Instr) : Host.Outcome State Fault Refusal :=
  match s.lossOf i with
  | some l => .next (s.takeTrap s.cur (lostTrap i l.1 l.2))
  | none => exec i s

/-- The decoded instruction is tried: it waits on a hazard or runs (R85). -/
def State.tryRun (s : State) (i : Instr) : Host.Outcome State Fault Refusal :=
  match s.hazard i with
  | some r => .next (s.stallWith r)
  | none => s.run i

/-- The next instruction of the issuing group: a trap that an engine has left for it comes first (R256); then fetch,
decode (R65), the scoreboard and the instruction itself. -/
def State.issue (s : State) : Host.Outcome State Fault Refusal :=
  match s.g.asyncTraps with
  | t :: rest => .next ((s.setG { s.g with asyncTraps := rest }).takeTrap s.cur { t with mask := s.g.mask, ilen := s.mwAt s.g })
  | [] => match s.fetch s.g with
    | .bad e mw => .next (s.raiseFetch e mw)
    | .model f => .fault f
    | .miss line => .next (s.setG { s.g with waiting := .fetch line, stall := 2 })
    | .walk va => .next ((s.noteLanes [⟨96, va, .hbm 0⟩]).stallWith 30)
    | .words w m => match decode w m with
      | .bad v => .next (s.raiseWord w v)
      | .ok i => s.tryRun i

/-! ### One attempt of a group -/

/-- The step asked of the group at key k that comes next (R382). -/
def State.stepFor (s : State) (k : Nat) : Option StepReq :=
  if s.steps == [] then none else s.steps.find? fun r => r.target == k && !r.begun && r.result.isNone

/-- Does the group rest with a step to make? -/
def State.stepping (s : State) (k : Nat) : Bool :=
  let g := s.group k
  g.chrysalis && g.resident && !g.ended && g.waiting == .no && !g.parked && (s.stepFor k).isSome

/-- Can the group at a key be given the issue slot: active and held by nothing, or with a step to make? -/
def State.isReady (s : State) (k : Nat) : Bool := ((s.group k).canIssue && (s.group k).active) || s.stepping k

/-- Must the group's next fetch begin first: its line or its translation is missing? -/
def State.mustFetch (s : State) (k : Nat) : Bool := (s.group k).canIssue && [2, 30].contains (s.nextWait k).1

/-- Number of the counter of issued instructions of a quadrant (R87). -/
def ctrIssued (core quad : Nat) : Nat := 0x20B_0000 + 4 * core + quad

/-- The groups among which the pick chooses, in key order: active and ready, or with a step to make; not tried since the state last
changed. -/
def State.candidates (s : State) : Sparse Group :=
  s.groups.filter fun p => s.isReady p.1 && !s.tried.contains p.1 && (s.stepping p.1 || s.readyNow p.1)

/-- The keys of the ready groups of a quadrant that are not picked when the group at key k issues (R80). -/
def State.others (s : State) (k : Nat) : List Nat :=
  (s.groups.filter fun p => p.1 / 16 == k / 16 && p.1 != k && p.2.active && s.readyNow p.1).map fun p => p.1

/-- The pass counts of some groups go up (R80). -/
def State.passOver (s : State) (ks : List Nat) : State :=
  if ks == [] then s
  else { s with groups := s.groups.map fun p => (p.1, if ks.contains p.1 then { p.2 with passed := p.2.passed + 1 } else p.2) }

/-- Does the next move of the issuing group issue an instruction (R87): no trap of an engine comes first, and it is fetched? -/
def State.begins (s : State) : Bool :=
  s.g.asyncTraps == [] && match s.fetch s.g with | .words _ _ => true | _ => false

/-- The state t after the attempt of the group at key k in state s (R80, R83, R87): it failed, or it counts as an issue if it was one. -/
def State.attempted (t s : State) (k : Nat) : State :=
  let g := t.group k
  if g.failed then { t with tried := k :: t.tried }
  else if !State.begins { s with cur := k } then { t with tried := [] }
  else
    let c := ctrIssued g.core g.quad
    { (t.passOver (s.others k)).putGroup k { g with issued := t.clock + 1, passed := 0 } with
      tried := [], lately := t.lately + 1, clock := t.clock + 1, counts := Store.put c (t.count c + 1) t.counts }

/-- A state after an outcome. -/
def thenNext (r : Host.Outcome State Fault Refusal) (f : State → State) : Host.Outcome State Fault Refusal :=
  match r with | .next t => .next (f t) | x => x

/-! ### Steps and rests (R379, R382) -/

/-- Has a fault been taken between two states of a group: LOCK has risen, or its dump has begun? -/
def trapped (g h : Group) : Bool := (h.locked && !g.locked) || (h.dumpTrap.isSome && g.dumpTrap.isNone)

/-- What `step` answers for the state in which the attempt has left its target; none while the instruction has not issued, and
whether it has issued a command that is not accepted yet. -/
def stepOutcome (g h : Group) : Option Nat × Bool :=
  if !h.resident || h.ended then (some 1, false)
  else if trapped g h then (some 3, false)
  else match h.waiting with
    | .sleep _ | .poll | .barrier | .abar _ _ => (some 4, false)
    | .accept | .ggen | .dump => (none, true)
    | .fetch _ => (none, false)
    | .no => if h.stall = 0 then (some 0, false) else if h.inWait then (some 4, false) else (none, false)
    | _ => (some 0, false)

/-- Is the next instruction a `join` or a `bra`, which act as in a run whatever lanes are named? -/
def State.actsWhole (s : State) : Bool :=
  match s.fetch s.g with
  | .words w _ => wordOp w == 0x02 || wordOp w == 0x08
  | _ => false

/-- The target after a stepped instruction: held lanes stay held; a trap saves the live mask of the group. A wait that tries its
instruction again goes on while the group rests (R379). -/
def Group.stepped (h g : Group) (live : Lanes) (waits : Bool) : Group :=
  if !h.resident || h.ended then h
  else
    let again : Bool := match h.waiting with | .no | .abar _ _ => waits | _ => false
    let h1 := { h with mask := h.full &&& ~~~h.held, restWait := h.restWait || again }
    if h.locked && !g.locked then { h1 with ema := lanePart live 0, emb := lanePart live 1, emc := lanePart live 2 } else h1

/-- The step `r` of the group at key k, which issues its instruction once with the lanes that the step names. -/
def State.issueStep (s : State) (k : Nat) (r : StepReq) : Host.Outcome State Fault Refusal :=
  let g := s.group k
  let c := g.full &&& r.lanes
  let s0 := { s with cur := k }
  let put (t : State) (x : Option Nat × Bool) : State :=
    { t with steps := t.steps.map fun y => if y == r then { y with result := x.1, begun := x.2 } else y }
  if c = 0 then .next (put s (some 2, false))
  else
    let live := g.mask ||| (g.held &&& c)
    let m := if s0.actsWhole then g.mask else if r.only then c else live
    thenNext (s0.putGroup k { g with mask := m }).issue fun t =>
      let x := stepOutcome g (t.group k)
      put ((t.putGroup k ((t.group k).stepped g live (x.1 == some 4))).attempted s k) x

/-- A group that rests tries a wait begun before its halt; a fault is left for its next stepped or resumed instruction (R379,
R384). -/
def State.issueRest (s : State) (k : Nat) : Host.Outcome State Fault Refusal :=
  thenNext (State.issue { s with cur := k }) fun t =>
    if (t.group k).ended || trapped (s.group k) (t.group k) then { s with tried := k :: s.tried } else t.attempted s k

/-- The group is given the issue slot. -/
def State.issueGroup (s : State) (k : Nat) : Host.Outcome State Fault Refusal :=
  let plain := thenNext (State.issue { s with cur := k }) fun t => t.attempted s k
  if s.mustFetch k then plain
  else if !s.isReady k then .next s
  else match s.stepFor k with
    | some r => if s.stepping k then s.issueStep k r else plain
    | none => if (s.group k).chrysalis then s.issueRest k else plain

/-! ### The pick (R80) -/

/-- Does a candidate of a quadrant come before another: passed over 7 times, the lower poll step, the older, the lower slot? -/
def picksBefore (a b : Nat × Group) : Bool :=
  let late (p : Nat × Group) : Nat := if 7 ≤ p.2.passed then 0 else 1
  let key (p : Nat × Group) : List Nat := [late p, p.2.pollStep, p.2.age, p.1]
  let rec less : List Nat → List Nat → Bool
    | x :: xs, y :: ys => x < y || (x == y && less xs ys)
    | _, _ => false
  less (key a) (key b)

/-- The best of some candidates. -/
def bestPick (l : Sparse Group) : Option (Nat × Group) :=
  l.foldl (fun b p => match b with
    | none => some p
    | some q => if picksBefore p q then some p else some q) none

/-- How far the quadrant of a key lies behind the quadrant that issued last, in the order in which quadrants take turns. -/
def State.turn (s : State) (k : Nat) : Nat := (k / 16 + 1023 - s.cur / 16 % 1024) % 1024

/-- The group that moves next: one whose fetch must begin; else quadrants take turns, and within one R80 picks (log entry 3). -/
def State.pick (s : State) : Option Nat :=
  match s.groups.find? fun p => s.mustFetch p.1 && !s.tried.contains p.1 with
  | some p => some p.1
  | none =>
    let c := s.candidates
    match c.foldl (fun b p => match b with
      | none => some (s.turn p.1)
      | some n => some (min n (s.turn p.1))) none with
    | none => none
    | some n => (bestPick (c.filter fun p => s.turn p.1 == n)).map fun p => p.1

/-! ### Autonomous steps that are due (log entry 3) -/

/-- Steps of a resident group. -/
def groupEvents (k : Nat) (g : Group) : List Instr :=
  if !g.resident then []
  else
    (if g.loads == [] then [] else [.loadDataReturn k]) ++ (if g.acks == [] then [] else [.writeAcknowledge k])
      ++ (if g.pendCk.isSome then [.checkpointComplete k] else [])
      ++ match g.waiting with
        | .fetch _ => [.instructionCacheMissFill k]
        | .spill => [.joinStackSpill k]
        | .fill => [.joinStackFill k]
        | .sleep _ => [.sleepExpiry k]
        | .poll => [.pollBackoffExpiry k]
        | .dump => [.coreDumpComplete k]
        | .ggen => [.ggenComplete k]
        | .accept => [.tcAccept k]
        | .preempted | .restore => [.groupRestart k]
        | _ => []

/-- Steps of the copy engine of a core, the control processor's service of its stopped commands among them (R256). -/
def copyEvents (core : Nat) : List Instr := [.tcComplete core, .tcReplayableFault core, .tcReplay core, .tcAbandon core]

/-- The record that a queue's next step takes, by its kind; a queue whose record is bad stops at any of them. -/
def State.queueEvents (s : State) : List Instr :=
  (s.queues.flatMap fun p => if p.2.recs == [] then [] else [.recordGraph p.1, .recordSignal p.1])
    ++ match s.winner with
      | some q => [.recordNop q, .recordGraph q, .recordWait q, .recordSignal q]
      | none => []

/-- The placement that is due: the head task's, on the lowest unit where it fits. -/
def State.placeEvents (s : State) : List Instr :=
  match s.headTask with
  | none => []
  | some tk =>
    let t := s.task tk
    let u := if t.checked then s.findUnit tk t
      else match s.checkTask t with
        | .ok t' => (s.putTask tk t').findUnit tk t'
        | .error _ => none
    [.teamPlacement ((u.map fun x => x.1).getD 0)]

/-- Steps of a collective. A SEND to another rank, which runs when credit for it has come (R346), is one like the others; of one that is
over, only what remains of its end. -/
def collEvents (c : Coll) : List Instr :=
  if c.status != 0 then (if c.lowered then [] else [.collectiveComplete c.comm c.seq])
  else .collectiveGateOpen c.comm c.seq
    :: ((List.range c.nodes.length).map fun i => .collectiveNode c.comm c.seq i) ++ [.collectiveComplete c.comm c.seq]

/-- Every step that may be due, in order. -/
def State.events (s : State) : List Instr :=
  (s.groups.flatMap fun p => groupEvents p.1 p.2)
    ++ (s.tlbis.map fun c => .tlbiComplete c.grp)
    ++ (((s.copies.map fun c => c.core) ++ s.rings.map fun r => r.cmd.core).eraseDups.flatMap copyEvents)
    ++ (s.rings.map fun r => .ringTile r.cmd.core (r.rcore * 2 ^ 19 + r.rbyte))
    ++ (s.mx.flatMap fun p => [.mxOpBegin p.1, .mxOpRetire p.1, .matrixResetEnd p.1])
    ++ (s.switches.map fun x => .quantumExpiry x.core x.outgoing x.incoming x.cycles)
    ++ (s.colls.flatMap collEvents)
    ++ ((s.teams.filter fun p => p.2.live && p.2.allEnded).map fun p => .teamEnd p.1)
    ++ ((s.tasks.filter fun p => p.2.retiring || s.retireDue p.1).map fun p => .taskRetire p.1)
    ++ s.placeEvents ++ [.readyOverflowMove] ++ s.queueEvents
    ++ (((List.range 4).filter fun d => s.jetOf d != []).map .jetstreamDrain) ++ ((List.range 4).map .dropSummary)

/-- Does a step do anything? -/
def State.acts (s : State) (i : Instr) : Bool := match exec i s with | .next t => t != s | _ => true

/-- What may move besides: a pending group takes the place of an active one (R83), a wait record is read again. -/
def State.lastEvents (s : State) : List Instr :=
  let ps := s.groups.filter fun p => p.2.resident && !p.2.active && !s.tried.contains p.1 && s.readyNow p.1
  let qs := s.queues.filter fun p => p.2.recs.any fun r => r.kind == 2
  (ps.map fun p => Instr.pendingForcedSwap p.2.core p.2.quad) ++ qs.map fun p => Instr.waitRecordReread p.1

/-- The first step that is due, searched from a place that moves on with every autonomous step. -/
def State.dueEvent (s : State) : Option Instr :=
  let l := s.events ++ s.lastEvents
  (l.rotateLeft s.turns).find? s.acts

/-- Instructions that may issue before a due autonomous step takes its turn (log entry 3). -/
def issuesInARow : Nat := 16

/-- The move when the agenda is empty: a group that R80 picks, else an autonomous step that is due; the step first after
`issuesInARow` issues; else nothing changes. -/
def State.defaultMove (s : State) : Option Move :=
  let e := if issuesInARow ≤ s.lately then s.dueEvent else none
  match e with
  | some i => some (.event i)
  | none => match s.pick with
    | some k => some (.issue k)
    | none => s.dueEvent.map .event

/-! ### A move (R21, R82) -/

/-- Has a step to state t had to make room in a Jetstream buffer for a record that is never dropped? -/
def State.crowded (t s : State) : Bool := s.contrail.length < t.contrail.length

/-- Steps that empty Jetstream buffers themselves. -/
def drains : Instr → Bool
  | .jetstreamDrain _ | .deviceReset _ | .powerOn _ => true
  | _ => false

/-- The group at key k stalls until its records can be buffered (R21): stall reason 29, and nothing of its instruction has happened. -/
def State.holdBack (s : State) (k : Nat) : State :=
  { s.putGroup k { s.group k with stall := 29 } with tried := k :: s.tried }

/-- An engine's step whose records cannot be buffered waits (R21): each buffer drains a record, and the step is due again. -/
def State.holdStep (s : State) (i : Instr) : State :=
  { (List.range 4).foldl (fun st d => st.drain d) s with agenda := .event i :: s.agenda }

/-- An autonomous step made. Every group may be tried again after it. -/
def State.takeStep (s : State) (i : Instr) : Host.Outcome State Fault Refusal :=
  thenNext (exec i s) fun t =>
    if t.crowded s && !drains i then s.holdStep i
    else State.afterMove { t with tried := [], lately := 0, turns := s.turns + 1 } s

/-- One move made (R21, R82). -/
def State.move (s : State) : Move → Host.Outcome State Fault Refusal
  | .issue k => thenNext (s.issueGroup k) fun t => if t.crowded s then s.holdBack k else t.afterMove s
  | .event i => s.takeStep i

end Sys2Proof.Machine
end

