-- ==== Sys2Proof/Machine/Step.lean ====
section
/-! DEFINITION. One step of the device, and a state in which a given instruction is fetched next. -/

namespace Sys2Proof.Machine

/-- One step: the next move of the agenda, or, when it is empty, the move of the default order; when nothing can
move the state stays as it is. -/
def step (s : State) : Host.Outcome State Fault Refusal :=
  match s.agenda with
  | m :: rest => State.move { s with agenda := rest } m
  | [] => match s.defaultMove with
    | some m => s.move m
    | none => .next s

/-- The page-table entries that map one 4 KiB page of code at virtual address 0 of a context whose root lies at
physical 0x1000: five levels, the leaf readable, writable and executable at physical 0x6000 (R199). -/
def placeTables (m : Memory) : Memory :=
  ((((m.write 0x1000 8 0x2001).write 0x2000 8 0x3001).write 0x3000 8 0x4001).write 0x4000 8 0x5001).write 0x5000 8 0x6107

/-- The context of the placed code. -/
def placedCtx : Ctx := { Ctx.empty with live := true, root := 0x1000, gen := 0 }

/-- The apertures of the placed context on core 0: away from the code page. -/
def placedApertures : CtxCore :=
  { CtxCore.empty with apscr := 0x0010_0000_0000, apstk := 0x0020_0000_0000, apstr := 0x0040_0000_0000 }

/-- The team of the placed group: one group on core 0. -/
def placedTeam : Team := { Team.empty with live := true, asid := 1, task := 1, groups := 1, scratch := 4096 }

/-- The group that fetches the placed instruction: in its launch state, with a register space of 16 KiB whose first 40
vector registers are in view, about to fetch at virtual address 0. -/
def placedGroup : Group :=
  { Group.launch with asid := 1, team := 1, size := 16384, viewV := 0x280000, active := true, slane := 1024
                      lbase := 0x100000, jbase := 0x200000, jlim := 768, cbase := 0x300000, clim := 5376 }

/-- The state in which the very next step fetches and runs the instruction whose bits are `w`: a context with one
code page, a team of one group at its launch state on core 0, the instruction's bytes at the group's pc, its translation in the TLB and its line in
the instruction cache, and its issue as the next move (log entry 1). -/
def State.withFetchWord (s : State) (nbits w : Nat) : State :=
  { s with
    cur := 0, agenda := [.issue 0], tried := []
    hbm := (placeTables s.hbm).write 0x6000 24 (w % 2 ^ nbits)
    ctxs := Store.put 1 placedCtx s.ctxs
    ctxCores := Store.put (ctxCoreKey 0 1) placedApertures s.ctxCores
    teams := Store.put 1 placedTeam s.teams
    tasks := Store.put 1 { Task.empty with live := true, asid := 1, state := 2, gx := 1, gy := 1, gz := 1, groups := 1 } s.tasks
    groups := Store.put 0 placedGroup s.groups
    tlb := s.tlb.filter fun e => e.asid != 1
    l1tlb := ⟨0, 1, 0, 12, 0, 0x6107, 0⟩ :: s.l1tlb.filter fun e => e.asid != 1
    walks := s.walks.filter fun e => e.asid != 1
    icache := (0, codeLine 1 0) :: s.icache }

end Sys2Proof.Machine
end

