-- ==== Sys2Proof/Safety.lean ====
section
/-! DEFINITION. What counts as a safe step, in the terms that the claims use: when an instruction may act, how a completed
instruction leaves the machine, what a write of registers changes and what it keeps. -/

namespace Sys2Proof.Safety

open Sys2Proof.Machine

/-! ### Memories -/

/-- The memories of the device keep their canonical form: equal memories are equal lists. -/
def MemoriesWf (s : State) : Prop :=
  s.hbm.wf = true ∧ s.stratus.wf = true ∧ s.host.wf = true ∧ s.peer.wf = true ∧
  Store.wf TWord.zero s.scratch = true ∧ Store.wf TWord.zero s.accum = true

/-- The table of groups lists every key once, in rising order. -/
def GroupsWf (s : State) : Prop := s.groups.Pairwise fun p q => p.1 < q.1

/-- The canonical form of the state: memories and the table of groups. -/
def Canonical (s : State) : Prop := MemoriesWf s ∧ GroupsWf s

/-- Every byte of every memory reads as before: HBM, Stratus, host and peer memory, and every word of every scratchpad. -/
def MemoryKept (s t : State) : Prop :=
  (∀ a, t.hbm.byte a = s.hbm.byte a) ∧ (∀ a, t.stratus.byte a = s.stratus.byte a) ∧ (∀ a, t.host.byte a = s.host.byte a) ∧
  (∀ a, t.peer.byte a = s.peer.byte a) ∧ ∀ a, Store.get TWord.zero t.scratch a = Store.get TWord.zero s.scratch a

/-! ### The end of an instruction -/

/-- No antenna watches the group at key k: it is a debug group (R376), or no antenna of its core is armed. -/
def Unwatched (s : State) (k : Nat) : Prop :=
  (s.group k).dbg = true ∨ ∀ n, n < 16 → (s.antenna (s.group k).core n).ctl.getLsbD 0 = false

/-- Nothing but the instruction acts when it completes: no antenna watches the group, and no lane of it is held. -/
def Quiet (s : State) : Prop := Unwatched s s.cur ∧ s.g.held = 0

/-- The issuing group's vector operands can be used: each lies in the view and pairs are even (R27, R30), and no word of them
lies in the VIEW.A window unless the team holds its matrix engine (R30). -/
def Readable (s : State) (e : Lanes) (ops : List VecOp) : Prop :=
  (∀ o ∈ ops, s.g.vecOk o = true) ∧
  ((∀ o ∈ ops, s.g.windowLanes e o = 0) ∨ (s.t.pair = true ∧ s.t.mxHolds = true ∧ s.t.mxLost = false))

/-- `t` is `x` after the issuing group of `s` has retired `i` there and goes on at `pc` (R43, R65): nothing else changes. A
retired instruction counts in user mode; registers that it has written are no longer lost; a non-idempotent one defers
pre-emption (R75); it waits on no owned line any more (R243). `stall`, `passed` and `restWait` are the scheduler's. -/
structure Ends (s : State) (i : Instr) (x t : State) (pc : DWord) : Prop where
  rest   : t = { x with groups := t.groups }
  others : ∀ k, k ≠ s.cur → t.group k = x.group k
  g      : t.g = { x.g with
    pc := pc, retired := if s.g.mode then x.g.retired else x.g.retired + 1
    stall := t.g.stall, passed := t.g.passed, restWait := t.g.restWait, lost := t.g.lost, ownWait := false
    deferred := x.g.deferred || (nonIdempotent i && s.actsOn i) }

/-- The instruction completes with the effect that turns `s` into `x`, and the group goes on at `pc`. -/
def Completes (i : Instr) (s x : State) (pc : DWord) : Prop := ∃ t, exec i s = .next t ∧ Ends s i x t pc

/-- The address of the instruction that follows. -/
def nextPc (i : Instr) (s : State) : DWord := s.g.pc + BitVec.ofNat 64 i.len

/-- The instruction completes with the effect that turns `s` into `x`, and the group goes on with the next one. -/
def Falls (i : Instr) (s x : State) : Prop := Completes i s x (nextPc i s)

/-- The instruction traps: the group takes the trap (R66, R365), and nothing of the instruction's effect happens. -/
def Traps (i : Instr) (s : State) (code : FCode) (faddr : DWord) (info : Info) (lanes : Lanes) : Prop :=
  exec i s = .next (s.raise i code faddr info lanes)

/-! ### Register-only instructions -/

/-- `t` is `s` after the issuing group has retired an instruction that touches registers only, and goes on at `pc`: every byte
of memory, every other group and every other part of the machine is as before, and of the group itself only its pc, its count
of retired instructions and its registers may change. -/
structure Retired (s t : State) (pc : DWord) : Prop where
  rest   : t = { s with groups := t.groups, accum := t.accum }
  mem    : MemoryKept s t
  others : ∀ k, k ≠ s.cur → t.group k = s.group k
  g      : t.g = { s.g with
    pc := pc, retired := if s.g.mode then s.g.retired else s.g.retired + 1
    stall := t.g.stall, passed := t.g.passed, restWait := t.g.restWait, lost := t.g.lost, ownWait := false
    regs := t.g.regs, scal := t.g.scal, preds := t.g.preds, mask := t.g.mask, full := t.g.full, fpc := t.g.fpc, dix := t.g.dix }

/-- Two words of register space share no byte. -/
def apart (a b : Nat) : Prop := a + 4 ≤ b ∨ b + 4 ≤ a

/-- What a vector register shows of a value: all of it in a pair, the low word without (R27). -/
def shown (wide : Bool) (v : TVal) : TVal := if wide then v else ⟨(v.val.setWidth 32).setWidth 64, v.tail⟩

/-- Every vector word reads as before. -/
def KeepsVecs (s t : State) : Prop :=
  (∀ b, t.rsWord t.g b = s.rsWord s.g b) ∧ ∀ a, Store.get TWord.zero t.accum a = Store.get TWord.zero s.accum a
/-- Every scalar register reads as before. -/
def KeepsScals (s t : State) : Prop := ∀ n, n < 61 → t.g.sreg n = s.g.sreg n
/-- The execution mask is as before. -/
def KeepsMask (s t : State) : Prop := t.g.mask = s.g.mask ∧ t.g.full = s.g.full
/-- Every predicate reads as before. -/
def KeepsPreds (s t : State) : Prop := ∀ n, t.g.pred n = s.g.pred n
/-- FPC of every lane and DIX are as before. -/
def KeepsFp (s t : State) : Prop := (∀ i, t.g.fpcOf i = s.g.fpcOf i) ∧ t.g.dix = s.g.dix

/-- The words of a vector register, or of a pair, in the lanes `e`. -/
def laneWords (g : Group) (n : Nat) (wide : Bool) (e : Lanes) : List Nat :=
  (lanesOf e).flatMap fun i => if wide then [g.vByte n i, g.vByte (n + 1) i] else [g.vByte n i]

/-- Vector register n (a pair for a wide type) shows `v i` in each lane i of `e`; every other word reads as before (R27, R39,
R67). -/
structure VecSet (s t : State) (n : Nat) (wide : Bool) (e : Lanes) (v : Nat → TVal) : Prop where
  set   : ∀ i, i < 96 → e.getLsbD i = true → t.vval n wide i = shown wide (v i)
  other : ∀ b, (∀ w ∈ laneWords s.g n wide e, apart w b) → t.rsWord t.g b = s.rsWord s.g b
  accum : ∀ a, (∀ w ∈ laneWords s.g n wide e, s.g.inWindow w = true → a ≠ s.g.accKey w) →
    Store.get TWord.zero t.accum a = Store.get TWord.zero s.accum a

/-- Scalar n shows `v`; s0 discards; s61 to s63 restore their part of the mask without exited lanes (R33 to R35). Every other
scalar reads as before. -/
def ScalSet (s t : State) (n : Nat) (v : TVal) : Prop :=
  if n = 0 then KeepsScals s t ∧ KeepsMask s t
  else if n < 61 then (∀ m, m < 61 → t.g.sreg m = if m = n then v else s.g.sreg m) ∧ KeepsMask s t
  else KeepsScals s t ∧ t.g.full = setLanePart s.g.full (n - 61) v.val &&& ~~~s.g.exited
    ∧ t.g.mask = t.g.full &&& ~~~s.g.held

/-- Predicate n shows `v` in the lanes `e` and its old value in the others; p0 discards (R37). Every other predicate reads as
before. -/
def PredSet (s t : State) (n : Nat) (e v : Lanes) : Prop :=
  if n = 0 then KeepsPreds s t
  else ∀ m, t.g.pred m = if m = n then (s.g.pred n &&& ~~~e) ||| (v &&& e) else s.g.pred m

/-- The destination of a per-lane instruction takes `v i` in every executing lane i, or, on the scalar unit, `v 96` widened to
64 bits, when the guard lets it act (R33, R56, R67, R69); every other vector word, scalar and mask bit is as before. -/
def Writes (s t : State) (gd : Guard) (ty : Ty) (d : Dst) (v : Nat → TVal) : Prop :=
  match d with
  | .vec n => VecSet s t n.toNat ty.is64 (s.g.execLanes gd) v ∧ KeepsScals s t ∧ KeepsMask s t
  | .scal n =>
    KeepsVecs s t ∧
    (if s.g.groupExec gd then ScalSet s t n.val ⟨ty.widen (v 96).val, (v 96).tail⟩ else KeepsScals s t ∧ KeepsMask s t)
  | _ => KeepsVecs s t ∧ KeepsScals s t ∧ KeepsMask s t

/-- The instruction completes, falls through, writes `v` to its destination and changes no other register and no memory. -/
def Gives (i : Instr) (s : State) (gd : Guard) (ty : Ty) (d : Dst) (v : Nat → TVal) : Prop :=
  ∃ t, exec i s = .next t ∧ Retired s t (nextPc i s) ∧ KeepsPreds s t ∧ KeepsFp s t ∧ Writes s t gd ty d v

/-- The instruction completes, falls through, sets predicate n to `v` in the lanes `e` and changes no other register and no
memory. -/
def GivesPred (i : Instr) (s : State) (n : Nat) (e v : Lanes) : Prop :=
  ∃ t, exec i s = .next t ∧ Retired s t (nextPc i s) ∧ KeepsVecs s t ∧ KeepsScals s t ∧ KeepsMask s t ∧ KeepsFp s t ∧ PredSet s t n e v

/-- The instruction completes and goes on at `pc`, sets scalar n to `v` and changes no other register and no memory. -/
def GivesScal (i : Instr) (s : State) (pc : DWord) (n : Nat) (v : TVal) : Prop :=
  ∃ t, exec i s = .next t ∧ Retired s t pc ∧ KeepsVecs s t ∧ KeepsPreds s t ∧ KeepsFp s t ∧ ScalSet s t n v

/-- The instruction waits: the group keeps its pc, shows the stall reason, and everything but the schedule is as in `x` (R82,
R86). -/
def Waits (i : Instr) (s x : State) (reason : Nat) : Prop := exec i s = .next (x.stallWith reason)

/-- The conditions under which a per-lane instruction with these vector operands executes normally (R30). -/
def Ready (s : State) (gd : Guard) (ops : List VecOp) : Prop := Quiet s ∧ Readable s (s.g.execLanes gd) ops

/-- The w bits of a container that an integer type reads (R117). -/
def bitsOf (t : Ty) (v : DWord) : BitVec t.width := v.setWidth t.width

/-- The container of a w-bit pattern, sign- or zero-extended (R69). -/
def ofBits (t : Ty) (x : BitVec t.width) : TVal := ⟨t.ofInt x.toNat, 0⟩

/-- A value moved in a type: an integer is extended into its container, its tail kept; every other value moves unchanged (R69). -/
def valueIn (t : Ty) (v : TVal) : TVal := if t.isInt then ⟨t.ofInt (t.toInt v.val), v.tail⟩ else v

/-! ### Float instructions -/

/-- The flags that an instruction with results `op` raises in lane i: those of the lane's result in an executing lane, or, once on
the scalar unit, those of the one result in the lane that R433 names. -/
def raisedIn (s : State) (f : VForm) (op : Nat → FOut) (i : Nat) : Flags :=
  if f.d.isScal then (if s.g.groupExec f.g = true ∧ i = firstLane (s.g.execLanes f.g) then (op 96).f else 0)
  else if s.g.execLanes f.g |>.getLsbD i then (op i).f else 0

/-- No enabled flag is raised (R142). -/
def NoTrap (s : State) (f : VForm) (op : Nat → FOut) : Prop :=
  ∀ i ∈ s.computeLanes f.g f.d, (op i).f &&& fpcTrapen (s.fpcAt f.g i) = 0

/-- The instruction completes: every executing lane, or the scalar unit, takes the value and tail of its result, the flags are
ORed into FPC of their lane (R140), DIX advances in user mode when a lane settles stochastically (R44); nothing else changes. -/
def GivesFp (i : Instr) (s : State) (f : VForm) (t : Ty) (settles : Bool) (op : Nat → FOut) : Prop :=
  ∃ u, exec i s = .next u ∧ Retired s u (nextPc i s) ∧ KeepsPreds s u ∧
    Writes s u f.g t f.d (fun j => ⟨(op j).v, (op j).tail⟩) ∧
    (∀ j, u.g.fpcOf j = s.g.fpcOf j ||| ((raisedIn s f op j).setWidth 32 <<< 5)) ∧
    u.g.dix = if settles && s.draws f f.d.isScal && !s.g.mode then s.g.dix + 1 else s.g.dix

/-- The instruction traps with FP in exactly the lanes that raise an enabled flag; FINFO holds the enabled flags raised there,
all flags raised there, and the rounding field (R142). -/
def TrapsFp (i : Instr) (s : State) (f : VForm) (op : Nat → FOut) : Prop :=
  let bad := (s.computeLanes f.g f.d).filter fun j => (op j).f &&& fpcTrapen (s.fpcAt f.g j) != 0
  ∃ lanes finfo, Traps i s .fp 0 (.raw finfo) lanes ∧
    (∀ l, l < 96 → (lanes.getLsbD l = true ↔ ∃ j ∈ bad, s.fpLane f.g j = l)) ∧
    finfo.extractLsb' 0 5 = bad.foldl (fun a j => a ||| ((op j).f &&& fpcTrapen (s.fpcAt f.g j))) 0 ∧
    finfo.extractLsb' 5 5 = bad.foldl (fun a j => a ||| (op j).f) 0 ∧
    finfo.extractLsb' 10 3 = BitVec.ofNat 3 f.mods.rmo.val ∧ finfo.extractLsb' 13 51 = 0

/-- What a float instruction with results `op` of type `t` does: it completes when no enabled flag is raised and traps else. -/
def RunsFp (i : Instr) (s : State) (f : VForm) (t : Ty) (ops : List VecOp) (settles : Bool) (op : Nat → FOut) : Prop :=
  Ready s f.g ops → (NoTrap s f op → GivesFp i s f t settles op) ∧ (¬ NoTrap s f op → TrapsFp i s f op)

/-! ### Cross-lane instructions -/

/-- The vector operands lie in the view, and the words of the lanes `m` may be used (R30). -/
def Usable (s : State) (ops : List VecOp) (m : Lanes) : Prop :=
  Quiet s ∧ (∀ o ∈ ops, s.g.vecOk o = true) ∧ s.windowFault m = .ok ()

/-- The instruction completes, falls through, sets vector register n (a pair for a wide type) in the lanes `e` and changes no
other register and no memory. -/
def GivesLanes (i : Instr) (s : State) (n : Nat) (wide : Bool) (e : Lanes) (v : Nat → TVal) : Prop :=
  ∃ t, exec i s = .next t ∧ Retired s t (nextPc i s) ∧ KeepsScals s t ∧ KeepsMask s t ∧ KeepsPreds s t ∧ KeepsFp s t ∧ VecSet s t n wide e v

/-- Position of a lane among the lanes of a set, lowest first. -/
def rankIn (e : Lanes) (i : Nat) : Nat := (lanesOf e).idxOf i

/-- The instruction of a reduction completes: `w` says what it writes, the flags `fl` are ORed into FPC of every lane of E, and DIX
advances in user mode when a float settles stochastically (R44, R178, R188); nothing else changes. -/
def GivesReduced (i : Instr) (s : State) (f : VForm) (fl : Flags) (w : State → Prop) : Prop :=
  let e := s.g.execLanes f.g
  ∃ t, exec i s = .next t ∧ Retired s t (nextPc i s) ∧ KeepsPreds s t ∧ w t ∧
    (∀ j, t.g.fpcOf j = if j < 96 ∧ e.getLsbD j = true then s.g.fpcOf j ||| (fl.setWidth 32 <<< 5) else s.g.fpcOf j) ∧
    t.g.dix = if f.ty.isFlt && s.draws f false && !s.g.mode then s.g.dix + 1 else s.g.dix

/-! ### Memory instructions -/

/-- `t` is `s` after the issuing group has retired a memory instruction and goes on at the next one: no other group and no register
of the group has changed but FPC and DIX, and of the rest of the machine at most memories, caches and what requests to other
devices leave behind. -/
structure MemFrame (i : Instr) (s t : State) : Prop where
  rest   : t = { s with
    groups := t.groups, hbm := t.hbm, host := t.host, peer := t.peer, scratch := t.scratch, l1 := t.l1, l1Ctr := t.l1Ctr
    tlb := t.tlb, l1tlb := t.l1tlb, walks := t.walks, poison := t.poison, linkSeqs := t.linkSeqs, replayBuf := t.replayBuf
    outbox := t.outbox, ctxs := t.ctxs, ctxCores := t.ctxCores, seqs := t.seqs, reqIds := t.reqIds, counts := t.counts
    deferred := t.deferred }
  others : ∀ k, k ≠ s.cur → t.group k = s.group k
  g      : t.g = { s.g with
    pc := nextPc i s, retired := if s.g.mode then s.g.retired else s.g.retired + 1
    stall := t.g.stall, passed := t.g.passed, restWait := t.g.restWait, lost := t.g.lost, deferred := t.g.deferred
    ownWait := false, fpc := t.g.fpc, dix := t.g.dix, loads := t.g.loads, acks := t.g.acks, inflight := t.g.inflight, l1Floor := t.g.l1Floor, newer := t.g.newer
    lbase := t.g.lbase, slane := t.g.slane, jbase := t.g.jbase, jlim := t.g.jlim, cbase := t.g.cbase, clim := t.g.clim }

/-- The stack record of the group and of its context is as before (R196). -/
def RecordKept (s t : State) : Prop := ∀ o, t.readRecord t.g o = s.readRecord s.g o

/-- Nothing is written but the `n` bytes at each of the locations: every byte of HBM, host and peer memory outside them, and every
scratchpad word that they do not touch, reads as before; Stratus is never written. -/
structure OnlyStores (s t : State) (ls : List Loc) (n : Nat) : Prop where
  hbm     : ∀ a, (∀ l ∈ ls, ∀ k, k < n → l.hbmByte k ≠ some a) → t.hbm.byte a = s.hbm.byte a
  host    : ∀ a, (∀ l ∈ ls, ∀ pa, l = .host pa → ¬ (pa ≤ a ∧ a < pa + n)) → t.host.byte a = s.host.byte a
  peer    : ∀ a, (∀ l ∈ ls, ∀ d pa, l = .peer d pa → ¬ (d * 2 ^ 48 + pa ≤ a ∧ a < d * 2 ^ 48 + pa + n)) → t.peer.byte a = s.peer.byte a
  stratus : ∀ a, (∀ l ∈ ls, ∀ o, l ≠ .stratus o) → t.stratus.byte a = s.stratus.byte a
  scratch : ∀ a, (∀ l ∈ ls, ∀ c b, l = .scratch c b → ¬ (scratchKey c b ≤ a ∧ a < scratchKey c b + (n + 3) / 4)) →
    Store.get TWord.zero t.scratch a = Store.get TWord.zero s.scratch a

/-- The place of a scratchpad byte among the bytes of all scratchpads. -/
def scratchPos (c b : Nat) : Nat := 4 * scratchKey c b + b % 4

/-- The `n` bytes at one location share none with the `n` bytes at another. -/
def NoShare (l m : Loc) (n : Nat) : Prop :=
  (∀ j k a, j < n → k < n → l.hbmByte j = some a → m.hbmByte k ≠ some a) ∧
  match l, m with
  | .host p, .host q => p + n ≤ q ∨ q + n ≤ p
  | .peer d p, .peer e q => d * 2 ^ 48 + p + n ≤ e * 2 ^ 48 + q ∨ e * 2 ^ 48 + q + n ≤ d * 2 ^ 48 + p
  | .scratch c b, .scratch d a => scratchPos c b + n ≤ scratchPos d a ∨ scratchPos d a + n ≤ scratchPos c b
  | .record o, .record q => o / 8 ≠ q / 8
  | _, _ => True

/-- The `n` bytes at a location of scratchpad are words, or lie in one word. -/
def InWords (b n : Nat) : Prop := n ∈ [1, 2, 4, 8, 16] ∧ (4 ≤ n ∨ b % 4 + n ≤ 4)

/-- The host behind a location's bytes has not failed (R419). -/
def HostUp (s : State) (l : Loc) (n : Nat) : Prop :=
  ∀ pa k, l = .host pa → k < n → s.hostDown.contains (hostPortOf (pa + k)) = false

/-- The `n` bytes at a location hold the little-endian bytes of `v`, in HBM, on a stack, in host or peer memory, in scratchpad, where
the first whole word carries `tail` and every other word tail 0 (R40), or in the stack record of the group at key k. -/
structure Holds (t : State) (k : Nat) (l : Loc) (n v : Nat) (tail : Tail) : Prop where
  hbm     : ∀ j a, j < n → l.hbmByte j = some a → t.hbm.byte a = BitVec.ofNat 8 (v / 256 ^ j)
  host    : ∀ pa j, l = .host pa → j < n → t.hostDown.contains (hostPortOf (pa + j)) = false → t.host.byte (pa + j) = BitVec.ofNat 8 (v / 256 ^ j)
  peer    : ∀ d pa j, l = .peer d pa → j < n → t.peer.byte (d * 2 ^ 48 + pa + j) = BitVec.ofNat 8 (v / 256 ^ j)
  scratch : ∀ c b, l = .scratch c b → InWords b n → t.readScratch c b n = v % 256 ^ n ∧
    ∀ j, j < max 1 (n / 4) → (t.sword c (b + 4 * j)).tail = if j = 0 ∧ 4 ≤ n then tail else 0
  record  : ∀ o, l = .record o → t.readRecord (t.group k) o = BitVec.ofNat 64 v

/-- The wait of an access that meets a line which an engine owns (R234, R243), for the reason that the group shows: nothing else changes
but the note that it waits and the count of such accesses. -/
def WaitsOwned (i : Instr) (s : State) (reason : Nat := 17) : Prop :=
  ∃ x : State, exec i s = .next (x.stallWith reason) ∧ x = { s with groups := x.groups, counts := x.counts } ∧ x.g = { s.g with ownWait := true } ∧
    ∀ k, k ≠ s.cur → x.group k = s.group k

/-- What an instruction with the accesses `ls` of `n` bytes does once its checks are passed: it waits on an owned line (17), a refresh
window (16), the quadrant's requests (17) or a full counter (15), and else does what `done` says (R194, R211, R234, R261). -/
def Accesses (i : Instr) (s : State) (ls : List LaneLoc) (n : Nat) (write : Bool) (paths : List Path) (done : Prop) : Prop :=
  (∀ r, s.lanesWait ls n write = some r → (r = 16 ∨ r = 17) ∧
    (s.lanesOwned ls n write = true → WaitsOwned i s r) ∧ (s.lanesOwned ls n write = false → exec i s = .next (s.stallWith r))) ∧
  (s.lanesWait ls n write = none →
    (s.requestsFull = true → exec i s = .next (s.stallWith 17)) ∧
    (s.requestsFull = false → s.g.counterFull paths = true → exec i s = .next (s.stallWith 15)) ∧
    (s.requestsFull = false → s.g.counterFull paths = false → done))

/-- The checks of an instruction's accesses: a fault traps before anything is done (R66, R205), and locations that pass go on. -/
def Checked (i : Instr) (s : State) (chk : Except Stop (List LaneLoc)) (go : List LaneLoc → Prop) : Prop :=
  (∀ c a info m, chk = .error (.trap c a info m) → Traps i s c a info m) ∧ ∀ ls, chk = .ok ls → go ls

/-- The stores `ws` (location, value, tail) of `n` bytes lead from `s` to `t`, the later over the earlier: the bytes of each hold its
data where no later one writes, and nothing else is written (R214). -/
def Stored (s t : State) (n : Nat) (ws : List (Loc × Nat × Tail)) : Prop :=
  OnlyStores s t (ws.map fun w => w.1) n ∧
  ∀ pre w post, ws = pre ++ w :: post → (∀ x ∈ post, NoShare w.1 x.1 n) → Holds t s.cur w.1 n w.2.1 w.2.2

/-! ### Instructions that reach beyond their group -/

/-- `s` with the records, sequences, stamps, counters and free values used of `t`: what recording and counting may change. -/
def logged (s t : State) : State :=
  { s with jet := t.jet, drops := t.drops, contrail := t.contrail, seqs := t.seqs, stamps := t.stamps, freeCtr := t.freeCtr, counts := t.counts }

/-- Every group but the issuing one is as before. -/
def OthersKept (s t : State) : Prop := ∀ k, k ≠ s.cur → t.group k = s.group k

/-- Scalar n is set to `v`, and otherwise the issuing group is `h`. -/
structure SetsScal (s t : State) (h : Group) (n : Nat) (v : TVal) : Prop where
  set : ScalSet s t n v
  g   : t.g = { h with scal := t.g.scal, mask := t.g.mask, full := t.g.full }

/-- The engine `e` has sent one record of a code with its next tag (R71, R342); a full buffer has first let its oldest record go. -/
def Records (s t : State) (e code : Nat) : Prop :=
  ∃ r : Record, t.jetOf (engDie e) = (if s.jetFull (engDie e) then (s.jetOf (engDie e)).drop 1 else s.jetOf (engDie e)) ++ [r] ∧
    r.code = BitVec.ofNat 16 code ∧ r.engine = BitVec.ofNat 12 e ∧ r.tag = s.device ++ BitVec.ofNat 12 e ++ (s.seqOf e + 1)

/-- As `Records`, and the payload of the record is `p` where it is not sealed (R71). -/
def RecordsOf (s t : State) (e code : Nat) (p : BitVec 96) : Prop :=
  ∃ r : Record, t.jetOf (engDie e) = (if s.jetFull (engDie e) then (s.jetOf (engDie e)).drop 1 else s.jetOf (engDie e)) ++ [r] ∧
    r.code = BitVec.ofNat 16 code ∧ r.engine = BitVec.ofNat 12 e ∧ r.tag = s.device ++ BitVec.ofNat 12 e ++ (s.seqOf e + 1) ∧
    (r.isSealed = false → r.payload = p)

/-- A group that waited at the barrier record goes on with a result, and an acquire at a scope, when it is tried again (R268). -/
def freed (c b : Nat) (res : Bool) (scope : Scope) (g : Group) : Group :=
  if g.waiting = .abar c b then { g with waiting := .no, stall := 0, waitTold := none, barDone := some ⟨g.pc, res, scope⟩ } else g

/-- From the collective `c` to `y` a node has completed: its successors have counted it, and those whose count reached DEP are ready
(R345). -/
def NodeCompletes (c y : Coll) (i : Nat) : Prop :=
  (y.state i).done = true ∧ ∀ j ∈ (c.node i).succ, j ≠ i → j < c.st.length →
    (y.state j).count = (c.state j).count + 1 ∧ ((c.state j).count + 1 = (c.node j).dep → (y.state j).ready = true)

/-- A check of an instruction's operands: its fault traps, and a value that passes goes on. -/
def Checks {α : Type} (i : Instr) (s : State) (chk : Except Stop α) (go : α → Prop) : Prop :=
  (∀ c a info m, chk = .error (.trap c a info m) → Traps i s c a info m) ∧ ∀ x, chk = .ok x → go x

/-- COPY of a group has fallen for its command or ring numbered `id`: by one when nothing older of the group is outstanding among the
given commands and rings and none that is younger has come before; it stays while something older is outstanding (R261). -/
def CopyFalls (s t : State) (k id : Nat) (cs : List CopyCmd) (rs : List Ring) : Prop :=
  let older := (∃ c ∈ cs, c.grp = k ∧ c.id < id) ∨ ∃ r ∈ rs, r.cmd.grp = k ∧ r.cmd.id < id
  let younger := (∀ c ∈ cs, c.grp = k → id < c.id) ∧ ∀ r ∈ rs, r.cmd.grp = k → id < r.cmd.id
  ((s.group k).copyLate = [] → younger → (t.group k).inflight = (s.group k).inflight.lower [.copy]) ∧
  ((s.group k).copyLate = [] → older → (t.group k).inflight = (s.group k).inflight ∧ (t.group k).copyLate = [id])

/-- An instruction that ends with a wait keeps everything but what `x` says and the schedule. -/
def WaitsWith (i : Instr) (s : State) (reason : Nat) (p : State → Prop) : Prop := ∃ x, Waits i s x reason ∧ p x

/-- The instruction completes, falls through, and its effect is as `p` says. -/
def FallsWith (i : Instr) (s : State) (p : State → Prop) : Prop := ∃ x, Falls i s x ∧ p x

/-- The event answers a state of which `p` holds. -/
def Answers (i : Instr) (s : State) (p : State → Prop) : Prop := ∃ t, exec i s = .next t ∧ p t

/-! ### Exceptions -/

/-- The group can take a trap of a code: it has a handler, its trap registers are not locked, and its context asks for no dump (R365,
R369, R391). -/
def Handled (s : State) (code : FCode) : Prop :=
  s.g.cause.getLsbD 8 = false ∧ s.g.trapBase ≠ 0 ∧ (s.ctx s.g.asid).dump.getLsbD code.num = false

/-- The bits of CAUSE at trap entry (R365, R366). -/
def CauseIs (c : DWord) (code : FCode) (user ilen async : Bool) : Prop :=
  c.extractLsb' 0 6 = BitVec.ofNat 6 code.num ∧ c.getLsbD 6 = (code == .swTrap) ∧ c.getLsbD 7 = !user ∧ c.getLsbD 8 = true ∧
  c.getLsbD 9 = ilen ∧ c.getLsbD 10 = async ∧ c.extractLsb' 11 53 = 0

/-- `t` is `s` with the issuing group in its handler (R365): the pc, the live mask and the mode are saved, CAUSE, FADDR and FINFO say
why, the handler runs in supervisor mode with the trapping lanes from TRAPBASE; one fault record has been sent. Every other group, every
register and every byte of memory is as before; a reported loss is dropped. -/
structure Enters (s t : State) (code : FCode) (faddr finfo : DWord) (lanes : Lanes) (ilen async : Bool) : Prop where
  rest   : t = { logged s t with groups := t.groups, colls := t.colls }
  others : ∀ k, k ≠ s.cur → t.group k = s.group k
  record : Records s t s.g.engine 0x0A
  cause  : CauseIs t.g.cause code (!s.g.mode) ilen async
  g      : t.g = { s.g with
    cause := t.g.cause, epc := s.g.pc, faddr := faddr, finfo := finfo
    ema := (s.g.mask.extractLsb' 0 32).setWidth 64, emb := (s.g.mask.extractLsb' 32 32).setWidth 64
    emc := (s.g.mask.extractLsb' 64 32).setWidth 64
    mask := lanes, full := lanes, mode := true, pc := s.g.trapBase, inHandler := true, stall := 0, restWait := false, ownWait := false, lost := t.g.lost }

end Sys2Proof.Safety
end

