-- ==== Sys2Proof/Certificates/Slice0/Obligations.lean ====
section
/-! DEFINITION. The statements for the provers, in the order of the spec's chapters. Each says when an instruction or a step of
the machine completes and all that it then does; the forms in which they are written stand in Safety.lean. -/

open Sys2Proof Sys2Proof.Machine Sys2Proof.Safety

/-! ### Control flow and predicates (chapter 04) -/

/-- `nop`, `yield` and `sleep` (R82, R100 to R102): `nop` changes nothing but the count of retired instructions; a `yield` that executes
while a ready group is in the pending set swaps with the oldest such group, and does nothing else; a `sleep` that executes with a count
N = min(imm + s[A], 1,048,575) above zero leaves the group asleep, and one of 64 cycles or more is a long-latency dependence, on which
the group leaves the active set (`waitsLong`). -/
def Obligations.IdleInstructions : Prop :=
  ∀ (f : VForm) (h : IForm) (s : State), Quiet s →
    Falls (.nop f) s s ∧
    (s.g.groupExec f.g = false ∨ s.oldestPending s.g.core s.g.quad = none → Falls (.yield f) s s) ∧
    (∀ k p, s.g.groupExec f.g = true → s.oldestPending s.g.core s.g.quad = some (k, p) → k ≠ s.cur →
      ∃ x, Falls (.yield f) s x ∧ x = { s with groups := x.groups } ∧ x.g = { s.g with active := false } ∧
        x.group k = { p with active := true } ∧ ∀ j, j ≠ s.cur → j ≠ k → x.group j = s.group j) ∧
    ∀ n, n = min (h.imm.toNat + (match h.a with | .scal k => (s.g.sval k.val).toNat | _ => 0)) 1048575 →
      (s.g.groupExec h.g = false ∨ n = 0 → Falls (.sleep h) s s) ∧
      (s.g.groupExec h.g = true → 0 < n → ∃ t, exec (.sleep h) s = .next t ∧
        Ends s (.sleep h) (s.setG { s.g with waiting := .sleep (64 ≤ n) }) t (nextPc (.sleep h) s) ∧
        (t.waitsLong s.cur = true ↔ 64 ≤ n))

/-- `bra` (R94): unconditional; not taken in any active lane; taken in every one; divergent, where the taken lanes wait on the top entry
of the join stack and the others go on; and the two cases of JOIN_MISMATCH. That the active lanes are those of these faults is the model's
reading (log entry 34). -/
def Claim.Branch : Prop :=
  ∀ (f : BForm) (s : State), Quiet s →
    let target := s.g.pc + f.disp.signExtend 64
    let taken := s.g.mask &&& s.g.guardLanes f.g
    (f.g.isNone = true → Completes (.bra f) s s target) ∧
    (f.g.isNone = false → taken = 0 → Falls (.bra f) s s) ∧
    (f.g.isNone = false → taken ≠ 0 → taken = s.g.mask → Completes (.bra f) s s target) ∧
    (f.g.isNone = false → taken ≠ 0 → taken ≠ s.g.mask →
      (f.uni = true → Traps (.bra f) s .joinMismatch 0 (.generic 1) s.g.mask) ∧
      (f.uni = false → s.g.stack = [] → Traps (.bra f) s .joinMismatch 0 (.generic 2) s.g.mask) ∧
      ∀ top rest, s.g.stack = top :: rest →
        (f.uni = false → top.pend = true → Traps (.bra f) s .joinMismatch 0 (.generic 2) s.g.mask) ∧
        (f.uni = false → top.pend = false → Falls (.bra f) s (s.setG { s.g with
          stack := { top with ppc := target, pmask := taken, pend := true } :: rest
          mask := s.g.mask &&& ~~~taken, full := s.g.full &&& ~~~taken })))

/-- `brx`, `call`, `callx` and `ret` (R93, R95): taken for the group when there is no guard or the guard holds in every active lane, to a
target that is a multiple of 4; not taken when it holds in none; JOIN_MISMATCH with detail 4 when it holds in some; ALIGN at a misaligned
target. The link of `call` and `callx` receives PC + 12 with tail 0, and `callx` reads its target first; `brx` and `ret` have no
destination. That the active lanes are those of its JOIN_MISMATCH is the model's reading (log entry 34). -/
def Claim.GroupBranches : Prop :=
  ∀ (f : BForm) (s : State), Quiet s →
    let all := f.g.isNone = true ∨ (s.g.execLanes f.g = s.g.mask ∧ s.g.mask ≠ 0)
    let none := f.g.isNone = false ∧ s.g.execLanes f.g = 0
    let some := f.g.isNone = false ∧ s.g.execLanes f.g ≠ 0 ∧ s.g.execLanes f.g ≠ s.g.mask
    let rel := s.g.pc + f.disp.signExtend 64
    let abs := s.s64 f.a
    (all → abs.toNat % 4 = 0 → Completes (.brx f) s s abs ∧ Completes (.ret f) s s abs) ∧
    (∀ n : Fin 64, f.d = .scal n →
      (all → abs.toNat % 4 = 0 → GivesScal (.callx f) s abs n.val ⟨s.g.pc + 12, 0⟩) ∧
      (all → rel.toNat % 4 = 0 → GivesScal (.call f) s rel n.val ⟨s.g.pc + 12, 0⟩)) ∧
    (none → Falls (.brx f) s s ∧ Falls (.ret f) s s ∧ Falls (.callx f) s s ∧ Falls (.call f) s s) ∧
    (some → ∀ i ∈ [Instr.brx f, .ret f, .callx f, .call f], Traps i s .joinMismatch 0 (.generic 4) s.g.mask) ∧
    (all → abs.toNat % 4 ≠ 0 → ∀ i ∈ [Instr.brx f, .ret f, .callx f],
      ∃ v, Traps i s .align abs (.raw v) s.g.mask) ∧
    (all → rel.toNat % 4 ≠ 0 → ∃ v, Traps (.call f) s .align rel (.raw v) s.g.mask)

/-- `loop` (R96): the count falls by one modulo 2^64, and the branch is taken while it is not zero; a guard that does not let it
execute leaves everything. The count register is none of s0 and s61 to s63. -/
def Claim.LoopCounts : Prop :=
  ∀ (f : BForm) (n : Fin 64) (s : State), Quiet s → f.d = .scal n → 0 < n.val → n.val < 61 →
    (s.g.groupExec f.g = false → Falls (.loop f) s s) ∧
    (s.g.groupExec f.g = true → s.g.sval n.val ≠ 1 →
      GivesScal (.loop f) s (s.g.pc + f.disp.signExtend 64) n.val ⟨s.g.sval n.val - 1, 0⟩) ∧
    (s.g.groupExec f.g = true → s.g.sval n.val = 1 → GivesScal (.loop f) s (nextPc (.loop f) s) n.val ⟨0, 0⟩)

/-- Branches, calls and loops: forms that go one way, forms that split the group, and the count of `loop`. -/
def Obligations.BranchesAndLoops : Prop := Claim.Branch ∧ Claim.GroupBranches ∧ Claim.LoopCounts

/-- `mark` (R90, R97): it pushes the address and the mask. With fewer than 16 entries held nothing else changes; with 16 the oldest held
entry is first written above the images in the join-stack area, 48 bytes at JBASE + 48·(DEPTH − HELD), and no other byte of memory
changes; a push that would cross the area's limit, or at depth 65,535, faults SPILL_LIMIT with nothing written. The never form does
nothing. A spill whose line an engine owns waits with reason 17 (R234). The mask that is saved is the live one with the halted lanes (log
entry 32); PPC and PMASK are the model's zeros (log entry 94). That the active lanes are those of SPILL_LIMIT is the model's reading (log
entry 34). -/
def Obligations.MarkPushes : Prop :=
  ∀ (f : BForm) (s : State), Quiet s →
    let g := s.g
    let e : JoinEntry := { lpc := g.pc + f.disp.signExtend 64, ppc := 0, smask := g.full, pmask := 0, pend := false }
    let at_ := g.jbase.toNat + 48 * g.spilled
    (f.g.neg = true → Falls (.mark f) s s) ∧
    (f.g.neg = false → s.pushOwned = true → ∃ x, Waits (.mark f) s x 17 ∧ MemoryKept s x ∧ x.g = { g with ownWait := true }) ∧
    (f.g.neg = false → g.depth < 65535 → g.stack.length < 16 → Falls (.mark f) s (s.setG { g with stack := e :: g.stack })) ∧
    (f.g.neg = false → s.pushOwned = false →
      (g.depth ≠ 65535 → g.stack.length = 16 → 48 * (g.spilled + 1) ≤ g.jlim.toNat → at_ + 48 ≤ Config.hbmBytes →
        ∃ x, Falls (.mark f) s x ∧ x = { s with groups := x.groups, hbm := x.hbm, l1 := x.l1, poison := x.poison } ∧ (∀ k, k ≠ s.cur → x.group k = s.group k) ∧
          x.g = { g with stack := e :: g.stack.take 15, spilled := g.spilled + 1, waiting := .spill } ∧
          ∀ a, x.hbm.byte a = if at_ ≤ a ∧ a < at_ + 48 then ((g.stack.map JoinEntry.image).getD 15 []).getD (a - at_) 0
            else s.hbm.byte a) ∧
      (g.depth = 65535 → ∃ v, Traps (.mark f) s .spillLimit (BitVec.ofNat 64 at_) (.raw v) g.mask) ∧
      (g.depth ≠ 65535 → g.stack.length = 16 → g.jlim.toNat < 48 * (g.spilled + 1) →
        ∃ v, Traps (.mark f) s .spillLimit (BitVec.ofNat 64 (g.jbase.toNat + g.jlim.toNat)) (.raw v) g.mask))

/-- `join` (R91, R98): the never form does nothing; an empty stack faults JOIN_MISMATCH with detail 3; a pending path is switched to; else
the entry is popped, its mask without the exited lanes restored, and the group goes on at its address, or ends when every lane has exited.
When spilled images remain and none is held, the group waits for a fill. That the active lanes are those of the fault is the model's
reading (log entry 34). -/
def Claim.JoinReconverges : Prop :=
  ∀ (f : VForm) (s : State), Quiet s →
    let g := s.g
    (f.g.neg = true → Falls (.join f) s s) ∧
    (f.g.neg = false → g.stack = [] → Traps (.join f) s .joinMismatch 0 (.generic 3) g.mask) ∧
    ∀ top rest, f.g.neg = false → g.stack = top :: rest →
      (top.pend = true → Completes (.join f) s (s.setG { g with
        stack := { top with pend := false } :: rest
        full := top.pmask &&& ~~~g.exited, mask := top.pmask &&& ~~~g.exited }) top.ppc) ∧
      (top.pend = false → g.exited ≠ allLanes → Completes (.join f) s (s.setG { g with
        stack := rest, full := top.smask &&& ~~~g.exited, mask := top.smask &&& ~~~g.exited, l1Floor := s.l1Ctr + 1
        waiting := if rest = [] ∧ g.spilled ≠ 0 then .fill else g.waiting }) top.lpc) ∧
      (top.pend = false → g.exited = allLanes → g.resident = true → g.ended = false → GroupsWf s →
        ∃ t, exec (.join f) s = .next t ∧ t.g.ended = true ∧ t.g.exited = allLanes ∧ t.g.mask = 0)

/-- `exit` (R99): the executing lanes leave. With an active lane left, or with an empty join stack while some lane has not
exited, the group goes on; without an active lane, and with entries on the stack, it does what `join` does; when every lane has
exited the group ends: no lane runs again. -/
def Claim.ExitLeaves : Prop :=
  ∀ (f : VForm) (s : State), Quiet s →
    let g := s.g
    let e := g.execLanes f.g
    let out := g.exited ||| e
    let x := s.setG { g with exited := out, full := g.full &&& ~~~e, mask := g.full &&& ~~~e }
    (e = 0 → Falls (.exit f) s s) ∧
    (e ≠ 0 → g.full &&& ~~~e ≠ 0 → Falls (.exit f) s x) ∧
    (e ≠ 0 → g.full &&& ~~~e = 0 → out ≠ allLanes → g.depth = 0 → Falls (.exit f) s x) ∧
    (e ≠ 0 → g.full &&& ~~~e = 0 → out ≠ allLanes → ∀ top rest, g.stack = top :: rest →
      (top.pend = true → Completes (.exit f) s (s.setG { g with
        exited := out, stack := { top with pend := false } :: rest
        full := top.pmask &&& ~~~out, mask := top.pmask &&& ~~~out }) top.ppc) ∧
      (top.pend = false → Completes (.exit f) s (s.setG { g with
        exited := out, stack := rest, full := top.smask &&& ~~~out, mask := top.smask &&& ~~~out, l1Floor := s.l1Ctr + 1
        waiting := if rest = [] ∧ g.spilled ≠ 0 then .fill else g.waiting }) top.lpc)) ∧
    (e ≠ 0 → g.full &&& ~~~e = 0 → out = allLanes → g.resident = true → g.ended = false → GroupsWf s →
      ∃ t, exec (.exit f) s = .next t ∧ t.g.ended = true ∧ t.g.exited = allLanes ∧ t.g.mask = 0)

/-- The join stack when a path ends: `join` and `exit`. -/
def Obligations.JoinsAndExits : Prop := Claim.JoinReconverges ∧ Claim.ExitLeaves

/-- `elect` and `vote` (R103, R104) over E, the executing lanes: `elect` names the lowest lane of E, and a scalar receives all
ones when E is empty; `vote` says whether the tested predicate holds in every lane of E, in some, or is equal in all. A
predicate destination changes in E only; the never form writes nothing. -/
def Claim.LaneVotes : Prop :=
  ∀ (f : VForm) (s : State), Quiet s →
    let e := s.g.execLanes f.g
    let q := s.g.pred f.a.specialNum
    let b : Prop := if f.fn = 0 then ∀ i, e.getLsbD i = true → q.getLsbD i = true
      else if f.fn = 1 then ∃ i, e.getLsbD i = true ∧ q.getLsbD i = true
      else ∀ i j, e.getLsbD i = true → e.getLsbD j = true → q.getLsbD i = q.getLsbD j
    (∀ n : Fin 32, f.d = .pred n →
      (∀ w, w < 96 → e.getLsbD w = true → (∀ j, j < w → e.getLsbD j = false) → GivesPred (.elect f) s n.val e ((1 : Lanes) <<< w)) ∧
      (e = 0 → GivesPred (.elect f) s n.val e 0) ∧
      (b → GivesPred (.vote f) s n.val e allLanes) ∧ (¬ b → GivesPred (.vote f) s n.val e 0)) ∧
    (∀ n : Fin 64, f.d = .scal n → f.g.isNever = false →
      (∀ w, w < 96 → e.getLsbD w = true → (∀ j, j < w → e.getLsbD j = false) →
        GivesScal (.elect f) s (nextPc (.elect f) s) n.val ⟨BitVec.ofNat 64 w, 0⟩) ∧
      (e = 0 → GivesScal (.elect f) s (nextPc (.elect f) s) n.val ⟨0xFFFFFFFFFFFFFFFF, 0⟩) ∧
      (b → GivesScal (.vote f) s (nextPc (.vote f) s) n.val ⟨1, 0⟩) ∧ (¬ b → GivesScal (.vote f) s (nextPc (.vote f) s) n.val ⟨0, 0⟩)) ∧
    (∀ n : Fin 64, f.d = .scal n → f.g.isNever = true → Falls (.elect f) s s ∧ Falls (.vote f) s s)

/-- `plog` and `pmov` (R105, R106): a predicate takes the logic function of two predicates, or whether a vector lane is not zero,
in the executing lanes, or the active mask in all lanes; a vector takes 1 or 0 from a predicate; the mask takes a predicate
without exited lanes. -/
def Claim.PredicateMoves : Prop :=
  ∀ (f : VForm) (n : Fin 32) (s : State), f.d = .pred n → Quiet s →
    let e := s.g.execLanes f.g
    let p := s.g.pred f.a.specialNum
    let q := s.g.pred f.b.specialNum
    (∀ r ∈ [((0 : BitVec 4), p &&& q), (1, p ||| q), (2, p ^^^ q), (3, p &&& ~~~q), (4, p ||| ~~~q), (5, ~~~(p &&& q)),
        (6, ~~~(p ||| q)), (7, ~~~(p ^^^ q))], f.fn = r.1 → GivesPred (.plog f) s n.val e r.2) ∧
    (Readable s e (f.a.vecOp f.ty.is64) → ∀ v : Lanes,
      (∀ i, i < 96 → e.getLsbD i = true → v.getLsbD i = (f.ty.toInt (s.rdSrc f.ty f.a i).val != 0)) →
      GivesPred (.pmovPv f) s n.val e v) ∧
    (s.g.groupExec f.g = true → GivesPred (.pmovPm f) s n.val allLanes s.g.mask) ∧
    (s.g.groupExec f.g = false → Falls (.pmovPm f) s s)

/-- `pmov` to a vector register and to the mask (R35, R106). -/
def Claim.PredicateToVector : Prop :=
  ∀ (f : VForm) (s : State), Quiet s →
    let e := s.g.execLanes f.g
    let p := s.g.pred f.a.specialNum
    (Readable s e (f.d.vecOp f.ty.is64) →
      Gives (.pmovVp f) s f.g f.ty f.d fun i => ⟨if p.getLsbD i then 1 else 0, 0⟩) ∧
    (s.g.groupExec f.g = true → Falls (.pmovMp f) s (s.setG { s.g with full := p &&& ~~~s.g.exited, mask := p &&& ~~~s.g.exited })) ∧
    (s.g.groupExec f.g = false → Falls (.pmovMp f) s s)

/-- Votes over lanes and moves between predicates, scalars and vectors. -/
def Obligations.VotesAndPredicates : Prop := Claim.LaneVotes ∧ Claim.PredicateMoves ∧ Claim.PredicateToVector

/-- `tbar` (R107, R108): a group that arrives before the last waits at its instruction; the last arrival completes the
barrier: its generation rises by one, its arrivals are cleared, and every waiting group goes on behind its `tbar`. A group whose
guard does not let it act does not arrive; one whose checkpoint does not fit its slot faults SPILL_LIMIT (R315; that it faults before it
arrives is the model's reading, log entry 75), and one whose slot's line an engine owns waits with reason 17 (R234). -/
def Obligations.TeamBarrier : Prop :=
  ∀ (f : VForm) (s : State), Quiet s → GroupsWf s → s.g.resident = true → s.g.ended = false → s.g.index < 64 →
    let g := s.g
    let t := s.team g.team
    let here (i : Nat) : Prop := i = g.index ∨ t.bar.arrived.getLsbD i = true ∨ t.ended.getLsbD i = true
      ∨ ∃ p ∈ s.teamGroups g.team, p.2.index = i ∧ p.2.ended = true
    (g.groupExec f.g = false → Falls (.tbar f) s s) ∧
    let size := 2688 + 768 * (rangeRegs g.ranges).length
    let base := g.slotBase (s.nextSlot g)
    let fits := g.inHandler = true ∨ (size ≤ g.slotSize ∧ base + size ≤ Config.hbmBytes ∧ s.slotOwned s.cur g.ranges = false)
    (g.groupExec f.g = true → g.inHandler = false → g.slotSize < size → ∃ finfo,
      Traps (.tbar f) s .spillLimit (BitVec.ofNat 64 (base + g.slotSize)) (.raw finfo) g.mask) ∧
    (g.groupExec f.g = true → g.inHandler = false → size ≤ g.slotSize → base + size ≤ Config.hbmBytes → s.slotOwned s.cur g.ranges = true →
      ∃ x, Waits (.tbar f) s x 17 ∧ MemoryKept s x ∧ x.g = { g with ownWait := true } ∧ x.teams = s.teams) ∧
    (g.groupExec f.g = true → fits → (∃ i, i < t.groups ∧ ¬ here i) → ∃ u, exec (.tbar f) s = .next u ∧
      u.g.waiting = .barrier ∧ u.g.pc = g.pc ∧ u.g.retired = g.retired ∧ MemoryKept s u ∧
      (u.team g.team).bar.gen = t.bar.gen ∧ (u.team g.team).bar.arrived = t.bar.arrived ||| ((1 : BitVec 64) <<< g.index)) ∧
    (g.groupExec f.g = true → fits → (∀ i, i < t.groups → here i) → ∃ u, exec (.tbar f) s = .next u ∧
      (u.team g.team).bar.gen = t.bar.gen + 1 ∧ (u.team g.team).bar.arrived = 0 ∧
      u.g.waiting = .no ∧ u.g.pc = g.pc + 12 ∧ u.g.retired = (if g.mode then g.retired else g.retired + 1) ∧
      ∀ k, k ≠ s.cur → ((s.group k).resident = true ∧ (s.group k).team = g.team ∧ (s.group k).waiting = .barrier) →
        (u.group k).waiting = .no ∧ (u.group k).pc = (s.group k).pc + 12)

/-! ### Integers, addresses and residues (chapter 05) -/

/-- The integer arithmetic instructions (R113): the exact result of the operands read as the type, formed as R110 says, in every
executing lane or once on the scalar unit; `imulh`, `imin` and `imax` never leave the range. -/
def Obligations.IntegerArithmetic : Prop :=
  (∀ (f : VForm) (s : State),
    let a := fun i => s.intSrc f.ty f.a i
    let b := fun i => s.intSrc f.ty f.b i
    let c := fun i => s.intSrc f.ty f.c i
    let form := fun x : Int => (⟨s.intForm f.ty f.m x, 0⟩ : TVal)
    (Ready s f.g (f.ops2 f.ty) →
      Gives (.iadd f) s f.g f.ty f.d (fun i => form (a i + b i)) ∧
      Gives (.isub f) s f.g f.ty f.d (fun i => form (a i - b i)) ∧
      Gives (.imul f) s f.g f.ty f.d (fun i => form (a i * b i)) ∧
      Gives (.imulh f) s f.g f.ty f.d (fun i => form ((a i * b i) / 2 ^ f.ty.width)) ∧
      Gives (.imin f) s f.g f.ty f.d (fun i => form (if a i ≤ b i then a i else b i)) ∧
      Gives (.imax f) s f.g f.ty f.d (fun i => form (if a i ≤ b i then b i else a i))) ∧
    (Ready s f.g (f.ops3 f.ty) → Gives (.imad f) s f.g f.ty f.d (fun i => form (a i * b i + c i)))) ∧
  (∀ (t : Ty) (x y : DWord), t.isInt = true →
    ∀ z ∈ [(t.toInt x * t.toInt y) / 2 ^ t.width, min (t.toInt x) (t.toInt y), max (t.toInt x) (t.toInt y)],
      t.intMin ≤ z ∧ z ≤ t.intMax)

/-- How an integer result is formed (R64, R69, R110): the container of an exact value is read back as a value of the type's
range that is congruent to it modulo 2^w; saturation replaces it by the nearest value of the range; clamping takes
min(max(x, lo), hi) first. -/
def Obligations.IntegerForm : Prop :=
  ∀ (t : Ty) (x : Int), t.isInt = true →
    (t.intMin ≤ t.toInt (t.ofInt x) ∧ t.toInt (t.ofInt x) ≤ t.intMax ∧ (t.toInt (t.ofInt x) - x) % 2 ^ t.width = 0) ∧
    ∀ (s : State) (m : Mods),
      let y := if m.clp then min (max x (t.toInt (s.g.sval m.clo.val))) (t.toInt (s.g.sval m.chi.val)) else x
      s.intForm t none x = t.ofInt x ∧
      (m.sat = false → s.intForm t (some m) x = t.ofInt y) ∧
      (m.sat = true → s.intForm t (some m) x = t.ofInt (if y < t.intMin then t.intMin else if t.intMax < y then t.intMax else y))

/-- `idiv` and `irem` (R114): the quotient truncated toward zero and the remainder with the sign of the dividend; division by
zero gives all ones and the dividend; the most negative value over −1 gives itself and 0. No case faults. -/
def Obligations.Division : Prop :=
  (∀ (f : VForm) (s : State), Ready s f.g (f.ops2 f.ty) →
    let a := fun i => s.intSrc f.ty f.a i
    let b := fun i => s.intSrc f.ty f.b i
    Gives (.idiv f) s f.g f.ty f.d (fun i => ⟨s.intForm f.ty f.m (if b i = 0 then -1 else (a i).tdiv (b i)), 0⟩) ∧
    Gives (.irem f) s f.g f.ty f.d (fun i => ⟨s.intForm f.ty f.m (if b i = 0 then a i else a i - b i * (a i).tdiv (b i)), 0⟩)) ∧
  ∀ (t : Ty), t.isInt = true → bitsOf t (t.ofInt (-1)) = BitVec.allOnes t.width ∧
    (t.signed = true → t.ofInt (t.intMin.tdiv (-1)) = t.ofInt t.intMin)

/-- `icmp` (R115): the condition of the operands by the signedness of the type, combined with the destination predicate in the
executing lanes. -/
def Claim.IntegerCompare : Prop :=
  ∀ (f : VForm) (n : Fin 32) (s : State), f.d = .pred n →
    Ready s f.g (f.a.vecOp f.ty.is64 ++ f.b.vecOp f.ty.is64) → f.fn.toNat < 6 → ∀ k : Lanes,
    (∀ i, i < 96 → (k.getLsbD i = true ↔ (
      let a := s.intSrc f.ty f.a i
      let b := s.intSrc f.ty f.b i
      (f.fn = 0 ∧ a = b) ∨ (f.fn = 1 ∧ a ≠ b) ∨ (f.fn = 2 ∧ a < b) ∨ (f.fn = 3 ∧ a ≤ b) ∨ (f.fn = 4 ∧ b < a) ∨ (f.fn = 5 ∧ b ≤ a)))) →
    let old := s.g.pred n.val
    GivesPred (.icmp f) s n.val (s.g.execLanes f.g)
      (match f.ct with | .set => k | .and => old &&& k | .or => old ||| k)

/-- The logic and shift instructions (R117) on the w-bit pattern, the count taken modulo w. -/
def Obligations.LogicAndShifts : Prop :=
  ∀ (f : VForm) (s : State), f.ty.isInt = true →
    let a := fun i => bitsOf f.ty (s.rdSrc f.ty f.a i).val
    let b := fun i => bitsOf f.ty (s.rdSrc f.ty f.b i).val
    let n := fun i => (b i).toNat % f.ty.width
    (Ready s f.g (f.ops2 f.ty) →
      Gives (.and f) s f.g f.ty f.d (fun i => ofBits f.ty (a i &&& b i)) ∧
      Gives (.or f) s f.g f.ty f.d (fun i => ofBits f.ty (a i ||| b i)) ∧
      Gives (.xor f) s f.g f.ty f.d (fun i => ofBits f.ty (a i ^^^ b i)) ∧
      Gives (.shl f) s f.g f.ty f.d (fun i => ofBits f.ty (a i <<< n i)) ∧
      Gives (.shr f) s f.g f.ty f.d (fun i => ofBits f.ty (a i >>> n i)) ∧
      Gives (.sar f) s f.g f.ty f.d (fun i => ofBits f.ty ((a i).sshiftRight (n i))) ∧
      Gives (.rot f) s f.g f.ty f.d (fun i => ofBits f.ty ((a i).rotateLeft (n i)))) ∧
    (Ready s f.g (f.ops1 f.ty) → Gives (.not f) s f.g f.ty f.d (fun i => ofBits f.ty (~~~(a i))))

/-- The bit instructions (R118), of 32-bit and 64-bit types only: leading zeros, population count and bit reversal; a field extracted
with the sign of the type; a field replaced. -/
def Obligations.BitFields : Prop :=
  ∀ (f : VForm) (s : State), f.ty.isInt = true →
    let w := f.ty.width
    let a := fun i => bitsOf f.ty (s.rdSrc f.ty f.a i).val
    let b := fun i => bitsOf f.ty (s.rdSrc f.ty f.b i).val
    let c := fun i => bitsOf f.ty (s.rdSrc f.ty f.c i).val
    (Ready s f.g (f.ops1 f.ty) →
      (∀ z : Nat → Nat, (∀ i, z i ≤ w ∧ (∀ j, w - z i ≤ j → (a i).getLsbD j = false) ∧ (z i < w → (a i).getLsbD (w - 1 - z i) = true)) →
        Gives (.clz f) s f.g f.ty f.d (fun i => ⟨f.ty.ofInt (z i), 0⟩)) ∧
      Gives (.popc f) s f.g f.ty f.d (fun i => ⟨f.ty.ofInt ((List.range w).countP fun j => (a i).getLsbD j), 0⟩) ∧
      Gives (.brev f) s f.g f.ty f.d (fun i => ofBits f.ty (a i).reverse)) ∧
    (Ready s f.g (f.ops3 f.ty) →
      Gives (.bfx f) s f.g f.ty f.d (fun i =>
        let p := (b i).toNat % 256
        let n := (c i).toNat % 256
        let x := (a i).extractLsb' p (min n (w - p))
        ⟨f.ty.ofInt (if w ≤ p ∨ n = 0 then 0 else if f.ty.signed then x.toInt else x.toNat), 0⟩) ∧
      Gives (.bfi f) s f.g f.ty f.d (fun i =>
        let p := (c i).toNat % 256
        let n := (c i).toNat / 256 % 256
        let hole := (BitVec.allOnes (min n (w - p))).setWidth w <<< p
        ofBits f.ty (if w ≤ p ∨ n = 0 then a i else (a i &&& ~~~hole) ||| ((b i <<< p) &&& hole)))) ∧
    ∀ i ∈ [Instr.clz f, .popc f, .brev f, .bfx f, .bfi f], i.wf = true → f.ty ∈ [Ty.i32, .n32, .i64, .n64]

/-- `lea`, `icvt`, `mov`, `movi`, `isel` and `dp4` (R116, R119 to R123). That `mov` and `isel` of type rns carry any container
unchecked is the model's choice (log entry 93; R124 does not say whether its check applies to a move). -/
def Claim.MovesAndAddresses : Prop :=
  (∀ (f : VForm) (s : State),
    let e := s.g.execLanes f.g
    let copy := fun (x : Src) (i : Nat) => if f.ty.isInt then (⟨f.ty.ofInt (s.intSrc f.ty x i), (s.rdSrc f.ty x i).tail⟩ : TVal)
      else s.rdSrc f.ty x i
    (∀ k : BitVec 18, f.c = .imm k → (f.ty = .i64 ∨ f.ty = .n64) →
      Ready s f.g (f.d.vecOp true ++ f.a.vecOp true ++ f.b.vecOp false) →
      Gives (.lea f) s f.g f.ty f.d (fun i =>
        let index : DWord := if f.ty = .i64 then ((s.rdSrc .i32 f.b i).val.setWidth 32).signExtend 64
          else ((s.rdSrc .n32 f.b i).val.setWidth 32).setWidth 64
        ⟨(s.rdSrc f.ty f.a i).val + index <<< k.toNat, 0⟩)) ∧
    (Ready s f.g (f.d.vecOp f.ty.is64 ++ f.a.vecOp (Ty.ofCode f.fn).is64) →
      Gives (.icvt f) s f.g f.ty f.d (fun i => ⟨s.intForm f.ty f.m (s.intSrc (Ty.ofCode f.fn) f.a i), 0⟩)) ∧
    (Ready s f.g (f.ops1 f.ty) → Gives (.mov f) s f.g f.ty f.d (fun i => copy f.a i)) ∧
    (Ready s f.g (f.ops2 f.ty) →
      Gives (.isel f) s f.g f.ty f.d (fun i =>
        let j := if i = 96 then firstLane e else i
        copy (if (s.g.pred f.c.specialNum).getLsbD j then f.a else f.b) i)) ∧
    (Ready s f.g (f.ops3 .i32) →
      Gives (.dp4 f) s f.g .i32 f.d (fun i =>
        let el := fun (v : DWord) (k : Nat) (sg : Bool) => if sg then (v.extractLsb' (8 * k) 8).toInt else ((v.extractLsb' (8 * k) 8).toNat : Int)
        let a := (s.rdSrc .i32 f.a i).val
        let b := (s.rdSrc .i32 f.b i).val
        let p := fun k => el a k (f.fn.getLsbD 0) * el b k (f.fn.getLsbD 1)
        ⟨s.intForm .i32 f.m (s.intSrc .i32 f.c i + p 0 + p 1 + p 2 + p 3), 0⟩))) ∧
  ∀ (f : IForm) (s : State), Ready s f.g (f.d.vecOp f.ty.is64) →
    Gives (.movi f) s f.g f.ty f.d (fun _ =>
      ⟨if f.ty.is64 then (match f.m with
          | some m => (m.ext.extractLsb' 0 24 ++ f.imm : BitVec 64)
          | none => f.imm.signExtend 64)
        else (f.imm.setWidth 32).setWidth 64, 0⟩)

/-- How a source operand is read in lane i (R59, R60, R68, R69, R167). A vector source is read through its lane pattern, value and tail
together, a 64-bit one from a pair of registers with the tail of the low word; past the end of `:sh` it is zero. A scalar source gives
its 64 bits, or its low 32. An immediate is sign-extended to an integer type, whose width its 18 bits are cut to (log entry 96: the
model's choice for types narrower than the immediate), and is the top of a binary32 value for a float type, the same value for f64. The
raw key of a finite value adds t·q/8 to its magnitude; NEG and ABS act on the key's sign. -/
def Claim.OperandReading : Prop :=
  ∀ (s : State) (t : Ty) (i : Nat), i < 96 →
    (∀ (n : BitVec 8) (p : Pattern),
      let word := fun (r l : Nat) => (s.vword r l).val
      let lane : Option Nat := match p with
        | .ident => some i
        | .rot k => some ((i + k.val) % 96)
        | .bc k => some k.val
        | .bf k => some (32 * ((i / 32 + k.val / 32) % 3) + (i % 32 ^^^ k.val % 32))
        | .mir => some (95 - i)
        | .mirb => some (32 * (i / 32) + 31 - i % 32)
        | .sh k => if i + k.val < 96 then some (i + k.val) else none
        | .beat k => some (i % 32 + 32 * k.val)
      s.rdSrc t (.vec n p) i = match lane with
        | none => ⟨0, 0⟩
        | some l => ⟨(if t.is64 then word (n.toNat + 1) l else 0) ++ word n.toNat l, (s.vword n.toNat l).tail⟩) ∧
    (∀ n : Fin 64, s.rdSrc t (.scal n) i =
      ⟨if t.is64 then s.g.sval n.val else ((s.g.sval n.val).setWidth 32).setWidth 64, (s.g.sreg n.val).tail⟩) ∧
    (∀ v : BitVec 18,
      let r := s.rdSrc t (.imm v) i
      let single : BitVec 32 := v ++ 0#14
      r.tail = 0 ∧
      (t.isInt = true → (t.toInt r.val - v.toInt) % 2 ^ t.width = 0 ∧ t.intMin ≤ t.toInt r.val ∧ t.toInt r.val ≤ t.intMax) ∧
      (t.isFlt = true → t ≠ .f64 → r.val = single.setWidth 64) ∧
      (t = .f64 → match readFloat .f32 (single.setWidth 64), readFloat .f64 r.val with
        | .num x, .num y => x.neg = y.neg ∧ x.st = false ∧ y.st = false ∧ ∀ k : Int, k ≤ -1074 → y.scaled k = x.scaled k
        | x, y => x = y)) ∧
    (∀ (f : VForm) (x : Src) (abs neg : Bool),
      let w := s.rdSrc f.ty x i
      let r := s.rawOperand f x abs neg i
      let sign := fun n : Bool => if abs then neg else n != neg
      match readFloat f.ty w.val with
        | .nan sig => r = (.nan sig, if sig then fNV else 0)
        | .inf n => r = (.inf (sign n), 0)
        | .num v => r.2 = 0 ∧ ∃ y : FNum, r.1 = .num y ∧ y.neg = sign v.neg ∧ y.st = false ∧
          ∀ k : Int, k ≤ y.e → k ≤ v.e → k ≤ v.quantum f.ty - 3 →
            y.m * 2 ^ (y.e - k).toNat = v.m * 2 ^ (v.e - k).toNat + w.tail.toNat * 2 ^ (v.quantum f.ty - 3 - k).toNat)

/-- Integer compares, and moves, selections and address arithmetic, with the reading of operands. -/
def Obligations.ComparesAndMoves : Prop := Claim.IntegerCompare ∧ Claim.MovesAndAddresses ∧ Claim.OperandReading

/-- The residue instructions (R125 to R127) on valid operands, and RESERVED with detail 0x52 in the lanes whose operand is not
valid (R124). -/
def Claim.Residues : Prop :=
  ∀ (f : VForm) (s : State), Quiet s →
    let e := s.g.execLanes f.g
    let part := fun (m : Nat) (v : DWord) => if m = 255 then v.toNat % 256 else if m = 256 then v.toNat / 256 % 256 else v.toNat / 65536 % 512
    let pack := fun (r : Nat → Nat) => (⟨BitVec.ofNat 64 (r 255 + 256 * r 256 + 65536 * r 257), 0⟩ : TVal)
    let src := fun (x : Src) (i : Nat) => (s.rdSrc .rns x i).val
    let ts : Ty := if f.fn = 0 then .i32 else .i64
    let lanes := s.computeLanes f.g f.d
    (Readable s e (f.d.vecOp false ++ f.a.vecOp ts.is64) →
      Gives (.rnsEnc f) s f.g .rns f.d (fun i => pack fun m => (s.intSrc ts f.a i % (m : Int)).toNat)) ∧
    (Readable s e (f.ops2 .rns) → f.fn ≠ 3 →
      ((∀ i ∈ lanes, rnsValid (src f.a i) = true ∧ rnsValid (src f.b i) = true) →
        Gives (.rns f) s f.g .rns f.d (fun i => pack fun m =>
          let a := part m (src f.a i)
          let b := part m (src f.b i)
          if f.fn = 0 then (a + b) % m else if f.fn = 1 then (a + (m - b)) % m else (a * b) % m)) ∧
      (f.d.isScal = false → ∀ bad : Lanes, bad ≠ 0 →
        (∀ i, i < 96 → bad.getLsbD i = (e.getLsbD i && (!rnsValid (src f.a i) || !rnsValid (src f.b i)))) →
        Traps (.rns f) s .reserved 0 (.generic 0x52) bad)) ∧
    (Readable s e (f.ops3 .rns) → f.fn = 3 → (∀ i ∈ lanes, rnsValid (src f.a i) = true ∧ rnsValid (src f.b i) = true ∧ rnsValid (src f.c i) = true) →
      Gives (.rns f) s f.g .rns f.d (fun i => pack fun m => (part m (src f.a i) * part m (src f.b i) + part m (src f.c i)) % m)) ∧
    (Readable s e (f.d.vecOp f.ty.is64 ++ f.a.vecOp false) → (∀ i ∈ lanes, rnsValid (src f.a i) = true) →
      Gives (.rnsDec f) s f.g f.ty f.d (fun i =>
        let y := ((part 255 (src f.a i) * 8421376 + part 256 (src f.a i) * 16711425 + part 257 (src f.a i) * 8421120) % 16776960 : Nat)
        ⟨f.ty.ofInt (if 8388480 ≤ y then (y : Int) - 16776960 else y), 0⟩))

/-- Residues denote integers (R124 to R127): decoding an encoded integer gives it back modulo M into [−M/2, M/2), and the channel
operations on encodings decode to the true sum, difference, product and product-sum in the same way; so does the sum of products
that the matrix engine forms (R285). -/
def Claim.ResiduesDenote : Prop :=
  let wrap := fun x : Int => x - 16776960 * ((x + 8388480) / 16776960)
  ∀ x y z : Int, rnsDecode (rnsEncode x) = wrap x ∧
    rnsDecode (rnsOp 0 (rnsEncode x) (rnsEncode y) 0) = wrap (x + y) ∧
    rnsDecode (rnsOp 1 (rnsEncode x) (rnsEncode y) 0) = wrap (x - y) ∧
    rnsDecode (rnsOp 2 (rnsEncode x) (rnsEncode y) 0) = wrap (x * y) ∧
    rnsDecode (rnsOp 3 (rnsEncode x) (rnsEncode y) (rnsEncode z)) = wrap (x * y + z) ∧
    ∀ l : List (Int × Int), rnsDot (l.map fun p => rnsEncode p.1) (l.map fun p => rnsEncode p.2) = wrap ((l.map fun p => p.1 * p.2).sum)

/-- Residue arithmetic: the instructions, and the integers that their residues stand for. -/
def Obligations.ResidueArithmetic : Prop := Claim.Residues ∧ Claim.ResiduesDenote

/-! ### Rounding, conversions and tails (chapter 06) -/

/-- Round to odd keeps every later rounding (R137): let y be the magnitude of x rounded to odd onto the grid of spacing q/4
(q = 2^g). Rounding y onto the grid of spacing q by any deterministic mode gives what rounding x gives. And rounding to odd
onto a grid of spacing q/8 or finer first changes nothing. -/
def Obligations.RoundToOdd : Prop :=
  let odd := fun (x : FNum) (g : Int) => (⟨x.neg, if (x.at g).2 && (x.at g).1 % 2 == 0 then (x.at g).1 + 1 else (x.at g).1, g, false⟩ : FNum)
  (∀ (x : FNum) (g : Int) (mode : Nat), mode < 5 → (odd x (g - 2)).roundAt mode g = x.roundAt mode g) ∧
  ∀ (x : FNum) (g h : Int), h ≤ g - 1 → odd (odd x h) g = odd x g

/-- Forming an exact result and settling it in one mode is rounding it once (R134 to R137, R140): the value is the directly
rounded one, overflow included, and the flags of the formation are those of the direct rounding, to which the settle adds none. -/
def Obligations.FormThenSettle : Prop :=
  ∀ (t : Ty) (mode : Nat) (x : FNum), t.isFlt = true → mode < 5 → x.st = false → x.m ≠ 0 →
    let r := formNum t x
    let s := settleVal t (readFloat t r.1) r.2.1 mode 0
    let d := roundTo t mode x
    valBits t s.v = valBits t d.v ∧ formFlags t mode x = d.f ∧ d.f ||| s.f = d.f

/-- The memory encodings (R130, R131): a code of a float type that is no NaN is decoded and encoded again unchanged, and every NaN
code becomes the canonical one of its type, whatever its sign and payload. -/
def Obligations.FloatEncodings : Prop :=
  ∀ (t : Ty) (v : Nat), t ∈ [Ty.f64, .f32, .f16, .bf16, .f8e4, .f8e5, .f4] → v < 2 ^ t.width →
    ((decodeMem t v).isNan = false → encodeMem t (decodeMem t v) = v) ∧
    ((decodeMem t v).isNan = true → encodeMem t (decodeMem t v) =
      match t with | .f64 => 0x7FF8000000000000 | .f32 => 0x7FC00000 | .f16 => 0x7E00 | .bf16 => 0x7FC0 | .f8e5 => 0x7E | _ => 0x7F)

/-- What a float word and its tail denote, how they settle, and how an operand is read (R64, R68, R134, R135, R141, R158): the exact value
is v + sign(v)·(2g + r)·q/4; settling rounds it by the mode, or draws it under STO, with NX also for the tail's sticky bit; NaNs and
infinities settle to themselves; DAZ then makes a non-zero value below 2^emin a zero of its sign, and ABS and NEG act on the sign. -/
def Claim.SettledOperands : Prop :=
  (∀ (t : Ty) (x : FNum) (tl : Tail) (mode rho : Nat) (sg : Bool), t.isFlt = true → x.st = false →
    let y := withTail t x tl
    let q := x.quantum t
    let r := if mode = 5 then drawTo t rho y else roundTo t mode y
    (y.neg = x.neg ∧ y.st = false ∧ ∀ k : Int, k ≤ y.e → k ≤ x.e → k ≤ q - 2 →
      y.m * 2 ^ (y.e - k).toNat = x.m * 2 ^ (x.e - k).toNat + tl.toNat / 2 * 2 ^ (q - 2 - k).toNat) ∧
    settleVal t (.num x) tl mode rho = ⟨r.v, r.f ||| (if tl.getLsbD 0 then fNX else 0)⟩ ∧
    settleVal t (.nan sg) tl mode rho = ⟨.nan sg, 0⟩ ∧ settleVal t (.inf sg) tl mode rho = ⟨.inf sg, 0⟩) ∧
  ∀ (f : VForm) (s : State) (t : Ty) (i : Nat),
    let m := s.effMode f i
    let daz := fpcDaz (s.fpcAt f.g i)
    ∀ r ∈ [(f.a, 0, f.mods.absA, f.mods.negA, s.fpA f t i), (f.b, 1, f.mods.absB, f.mods.negB, s.fpB f t i),
        (f.c, 2, f.mods.absC, f.mods.negC, s.fpC f t i)],
      let w := s.rdSrc t r.1 i
      let v := readFloat t w.val
      let z := (settleVal t v w.tail m (if m = 5 then s.rho i r.2.1 else 0)).v
      let sign := fun (n : Bool) => if r.2.2.2.1 then !(if r.2.2.1 then false else n) else if r.2.2.1 then false else n
      (r.2.2.2.2.2 = if v.isSig then fNV else 0) ∧
      (∀ sg, z = .nan sg → r.2.2.2.2.1 = .nan sg) ∧ (∀ n, z = .inf n → r.2.2.2.2.1 = .inf (sign n)) ∧
      ∀ x, z = .num x → r.2.2.2.2.1 =
        if daz = true ∧ x.isZero = false ∧ belowMin t x.m x.e = true then .num ⟨sign x.neg, 0, 0, false⟩ else .num { x with neg := sign x.neg }

/-- How an exact result is written (R64, R68, R134, R140, R141, R159): x·2^SCL bounded by CLP, flushed by FTZ when tiny, formed, and under
SAT the largest finite magnitude in place of an infinity or of the overflow pattern; the flags are those of the formation with `fl`. That
x stays where it equals a bound, a zero of the other sign among them, is the model's choice (log entry 98). -/
def Claim.FormedResults : Prop :=
  ∀ (f : VForm) (s : State) (t : Ty) (i : Nat) (x : FVal) (fl : Flags), t.isFlt = true →
    let m := s.effMode f i
    let lo := s.fpBound f t f.mods.clo.val i 5
    let hi := s.fpBound f t f.mods.chi.val i 6
    let y := s.fpClamp f t i (x.scale f.mods.scl.toInt)
    let out := s.formed f t i x fl
    (f.mods.clp = false → y = x.scale f.mods.scl.toInt) ∧
    (f.mods.clp = true → ∀ z, z = x.scale f.mods.scl.toInt → z.isNan = false → lo.isNan = false → hi.isNan = false →
      let u := if cmpVal z lo = .lt then lo else z
      y = if cmpVal hi u = .lt then hi else u) ∧
    (∀ sg, y = .nan sg → out = ⟨nanBits t, 0, fl⟩) ∧
    (∀ n, y = .inf n → out = ⟨if f.mods.sat then maxBits t n else infBits t n, 0, fl⟩) ∧
    ∀ z, y = .num z →
      let flush := fpcFtz (s.fpcAt f.g i) = true ∧ z.tiny t m = true
      let r := formNum t z
      (flush → out = ⟨numBits t z.neg 0 0, 0, fUF ||| fNX ||| fl⟩) ∧
      (¬ flush → out = ⟨r.1, if f.mods.sat = true ∧ r.2.1 = 7 ∧ r.1 = maxBits t z.neg then 0 else r.2.1, formFlags t m z ||| fl⟩)

/-- The results of `settle` and `fpack` before their encoding (R138, R141, R145, R155): the exact value of the word and its tail, with ABS,
NEG, SCL and CLP, flushed by FTZ or rounded once in its type, with NX also for the tail's sticky bit; SAT puts the largest finite
magnitude in place of an infinity, and the types without one take the replacements of R138. -/
def Claim.FinalRounding : Prop :=
  ∀ (f : VForm) (s : State) (i : Nat), f.ty.isFlt = true →
    let a := s.rdSrc f.ty f.a i
    let m := s.effMode f i
    let x := s.fpClamp f f.ty i ((signMods f.mods.absA f.mods.negA (tailedVal f.ty (readFloat f.ty a.val) a.tail)).scale f.mods.scl.toInt)
    let big := fun (n : Bool) => FVal.num ⟨n, f.ty.max.1, f.ty.max.2, false⟩
    let stk : Flags := if a.tail.getLsbD 0 then fNX else 0
    let infinite := fun (n : Bool) => if f.mods.sat then big n else match f.ty with | .f8e4 => .nan false | .f4 => big n | _ => .inf n
    (∀ sg, x = .nan sg → s.settleRound f i =
      if f.ty = .f4 then (.num ⟨false, 0, 0, false⟩, fNV) else (.nan sg, if sg then fNV else 0)) ∧
    (∀ n, x = .inf n → s.settleRound f i =
      (infinite n, if f.mods.sat = false ∧ (f.ty = .f8e4 ∨ f.ty = .f4) then fNV else 0)) ∧
    ∀ y, x = .num y →
      let flush := fpcFtz (s.fpcAt f.g i) = true ∧ y.tiny f.ty m = true
      let r := if m = 5 then drawTo f.ty (s.rho i 0) y else roundTo f.ty m y
      (flush → s.settleRound f i = (.num ⟨y.neg, 0, 0, false⟩, fUF ||| fNX)) ∧
      (¬ flush → ∀ z, r.v = .num z → s.settleRound f i = (.num z, r.f ||| stk)) ∧
      (¬ flush → ∀ n, r.v = .inf n → s.settleRound f i = (infinite n, r.f ||| stk))

/-- The results of `fcvt` (R144): a NaN gives the canonical NaN; a widening settles in the source type, reads it with DAZ and forms; a
narrowing forms the exact tailed value, flushed by DAZ, and the source's sticky bit survives in the tail unless FTZ flushes. Which pairs
are widening. That ABS and NEG act before the settle of a widening is the model's reading (log entry 45). -/
def Claim.FloatConversions : Prop :=
  ∀ (f : VForm) (s : State) (src : Ty) (i : Nat), f.ty.isFlt = true → src.isFlt = true → src ≠ f.ty →
    let a := s.rdSrc src f.a i
    let m := s.effMode f i
    let w := s.fpcAt f.g i
    let v := signMods f.mods.absA f.mods.negA (readFloat src a.val)
    let daz := fun (x : FVal) => match x with
      | .num y => if fpcDaz w = true ∧ y.isZero = false ∧ belowMin src y.m y.e = true then FVal.num ⟨y.neg, 0, 0, false⟩ else x
      | _ => x
    let z := settleVal src v a.tail m (if m = 5 then s.rho i 0 else 0)
    let x := daz (tailedVal src v a.tail)
    let r := s.formed f f.ty i x 0
    let flushed := fpcFtz w = true ∧ ∃ y, x.scale f.mods.scl.toInt = .num y ∧ y.tiny f.ty m = true
    (widening src f.ty = true ↔ (src, f.ty) ∈ [(Ty.f32, Ty.f64), (.f16, .f64), (.bf16, .f64), (.f8e4, .f64), (.f8e5, .f64), (.f4, .f64),
      (.f16, .f32), (.bf16, .f32), (.f8e4, .f32), (.f8e5, .f32), (.f4, .f32), (.f8e4, .f16), (.f8e5, .f16), (.f4, .f16), (.f8e4, .bf16),
      (.f8e5, .bf16), (.f4, .bf16), (.f4, .f8e4), (.f4, .f8e5)]) ∧
    (v.isNan = true → s.fcvtOut f src i = ⟨nanBits f.ty, 0, if v.isSig then fNV else 0⟩) ∧
    (v.isNan = false → widening src f.ty = true → s.fcvtOut f src i = s.formed f f.ty i (daz z.v) z.f) ∧
    (v.isNan = false → widening src f.ty = false →
      (flushed → s.fcvtOut f src i = r) ∧ (¬ flushed → s.fcvtOut f src i = { r with tail := r.tail ||| (a.tail &&& 1) }))

/-- The results of `f2i` and `frnd` (R146, R148), with `k` the magnitude rounded to an integer by the mode, under STO by adding the low
half of the same mix value: the integer clamped to the destination's range, NV for a NaN or, without SAT, outside the range; the
integral value with the operand's sign, unchanged when it is integral, and NX from `frnd.x` when it is not. That the settle step's NX
stays when DAZ has made the value zero is the model's choice (log entry 91). -/
def Claim.IntegralResults : Prop :=
  ∀ (f : VForm) (s : State) (src : Ty) (i : Nat), src.isFlt = true →
    let a := s.rdSrc src f.a i
    let m := s.effMode f i
    let d := s.draw i 0
    let up := (d.extractLsb' 0 32).toNat
    let z := settleVal src (readFloat src a.val) a.tail m (if m = 5 then (d.extractLsb' 32 32).toNat else 0)
    let zero := fun (x : FNum) => fpcDaz (s.fpcAt f.g i) = true ∧ x.isZero = false ∧ belowMin src x.m x.e = true
    let whole := fun (x : FNum) => x.m * 2 ^ x.e.toNat % 2 ^ (-x.e).toNat = 0
    let rounds := fun (x : FNum) (k : Nat) => (m < 5 → k = x.roundAt m 0) ∧
      (m = 5 → x.e ≤ -32 → k = (x.m + up * 2 ^ (-32 - x.e).toNat) / 2 ^ (-x.e).toNat)
    let into := fun (n : Int) (nx : Bool) =>
      let c := s.intClamp f.ty f.m n
      let inRange := f.ty.intMin ≤ c ∧ c ≤ f.ty.intMax
      (⟨f.ty.ofInt (if c < f.ty.intMin then f.ty.intMin else if f.ty.intMax < c then f.ty.intMax else c), 0,
        if inRange ∨ f.mods.sat = true then (if nx then fNX else 0) else fNV⟩ : FOut)
    (z.v.isNan = true → s.f2iOut f src i = ⟨0, 0, fNV⟩) ∧
    (∀ x, z.v = .num x → zero x → s.f2iOut f src i = into 0 (z.f.getLsbD 0)) ∧
    (∀ x k, z.v = .num x → ¬ zero x → rounds x k → (m = 5 → x.e ≤ -32) → ∀ nx : Bool, (nx = true ↔ z.f.getLsbD 0 = true ∨ ¬ whole x) →
      s.f2iOut f src i = into (if x.neg then -(k : Int) else k) nx) ∧
    (∀ n, z.v = .inf n → f.mods.clp = false → s.f2iOut f src i =
      ⟨f.ty.ofInt (if n then f.ty.intMin else f.ty.intMax), 0, if f.mods.sat then (if z.f.getLsbD 0 then fNX else 0) else fNV⟩) ∧
    (let p := s.fpA f f.ty i
     (∀ v, (∀ x, v ≠ .num x) → p.1 = v → s.frndOut f i = ⟨valBits f.ty v, 0, p.2⟩) ∧
     (∀ x, p.1 = .num x → x.st = false → whole x → s.frndOut f i = ⟨numBits f.ty x.neg x.m x.e, 0, p.2⟩) ∧
     ∀ x k, p.1 = .num x → x.st = false → ¬ whole x → rounds x k → (m = 5 → x.e ≤ -32) →
       s.frndOut f i = ⟨numBits f.ty x.neg k 0, 0, p.2 ||| (if f.fn = 1 then fNX else 0)⟩)

/-- The parts and the class of a value (R149, R151): `expOf` is ⌊log2 |a|⌋, `sigOf` is a·2^−⌊log2 |a|⌋, with their values for zeros,
infinities and NaNs; the class mask has one of bits [9:0] set, bit [10] for the overflow pattern and bit [11] for a tail. -/
def Claim.PartsAndClasses : Prop :=
  (∀ (x : FNum), x.m ≠ 0 → ∃ e : Int, expOf (.num x) = e ∧ sigOf (.num x) = .num { x with e := x.e - e } ∧
    ∀ k : Int, k ≤ x.e → k ≤ e → 2 ^ (e - k).toNat ≤ x.m * 2 ^ (x.e - k).toNat ∧ x.m * 2 ^ (x.e - k).toNat < 2 ^ (e + 1 - k).toNat) ∧
  (∀ (n : Bool) (e : Int), expOf (.num ⟨n, 0, e, false⟩) = -0x80000000 ∧ expOf (.inf n) = 0x7FFFFFFF ∧ expOf (.nan n) = 0x7FFFFFFF ∧
    sigOf (.num ⟨n, 0, e, false⟩) = .num ⟨n, 0, e, false⟩ ∧ sigOf (.inf n) = .inf n ∧ sigOf (.nan n) = .nan n) ∧
  ∀ (t : Ty) (x : FNum) (tl : Tail) (n : Bool), t.isFlt = true → x.st = false →
    let tailed := if tl = 0 then 0 else 2 ^ 11
    let full := x.m ≠ 0 ∧ ∀ k : Int, k ≤ x.e → k ≤ t.max.2 → x.m * 2 ^ (x.e - k).toNat = t.max.1 * 2 ^ (t.max.2 - k).toNat
    let small := ∀ k : Int, k ≤ x.e → k ≤ t.emin → x.m * 2 ^ (x.e - k).toNat < 2 ^ (t.emin - k).toNat
    classMask t (.nan n) tl = (if n then 1 else 2) + tailed ∧ classMask t (.inf n) tl = (if n then 2 ^ 2 else 2 ^ 9) + tailed ∧
    (x.m = 0 → classMask t (.num x) tl = (if x.neg then 2 ^ 5 else 2 ^ 6) + tailed) ∧
    (x.m ≠ 0 → small → classMask t (.num x) tl = (if x.neg then 2 ^ 4 else 2 ^ 7) + tailed) ∧
    (x.m ≠ 0 → ¬ small → tl = 7 → full → classMask t (.num x) tl = (if x.neg then 2 ^ 3 else 2 ^ 8) + 2 ^ 10 + tailed) ∧
    (x.m ≠ 0 → ¬ small → tl ≠ 7 ∨ ¬ full → classMask t (.num x) tl = (if x.neg then 2 ^ 3 else 2 ^ 8) + tailed)

/-- The conversions (R144 to R148, R150, R151, R155): they complete with the results below, or trap when an enabled flag is
raised. The results: a widening `fcvt` settles and forms exactly, a narrowing one forms the exact tailed value and keeps its sticky
bit; `settle` and `fpack` round finally; `f2i` rounds to an integer and clamps; `i2f` forms the integer; `frnd` rounds to an
integral value; `fscale` multiplies by 2^B; `fxtr` splits a value. That `fscale` and `frnd` raise of their operand's own settle NV alone
is the model's choice (log entry 105). -/
def Claim.Conversions : Prop :=
  ∀ (f : VForm) (s : State),
    let src := Ty.ofCode f.fn
    RunsFp (.fcvt f) s f f.ty (f.d.vecOp f.ty.is64 ++ f.a.vecOp src.is64) (widening src f.ty) (s.fcvtOut f src) ∧
    RunsFp (.settle f) s f f.ty (f.ops1 f.ty) true
      (fun i => ⟨valBits f.ty (s.settleRound f i).1, 0, (s.settleRound f i).2⟩) ∧
    RunsFp (.fpack f) s f .n32 (f.d.vecOp false ++ f.a.vecOp false ++ f.b.vecOp false) true (fun i =>
      let w := f.ty.packWidth
      let c := immNat f.c
      let b := (s.rdSrc .n32 f.b i).val.toNat
      let x := encodeMem f.ty (s.settleRound f i).1
      ⟨BitVec.ofNat 64 (b - (b / 2 ^ (w * c) % 2 ^ w) * 2 ^ (w * c) + (x % 2 ^ w) * 2 ^ (w * c)), 0, (s.settleRound f i).2⟩) ∧
    RunsFp (.f2i f) s f f.ty (f.d.vecOp f.ty.is64 ++ f.a.vecOp src.is64) true (s.f2iOut f src) ∧
    RunsFp (.i2f f) s f f.ty (f.d.vecOp f.ty.is64 ++ f.a.vecOp src.is64) false
      (fun i => s.formed f f.ty i (.num ⟨s.intSrc src f.a i < 0, (s.intSrc src f.a i).natAbs, 0, false⟩) 0) ∧
    RunsFp (.frnd f) s f f.ty (f.ops1 f.ty) true (s.frndOut f) ∧
    RunsFp (.fscale f) s f f.ty (f.d.vecOp f.ty.is64 ++ f.a.vecOp f.ty.is64 ++ f.b.vecOp false) true
      (fun i => s.formed f f.ty i ((s.fpA f f.ty i).1.scale (capExp (s.intSrc .i32 f.b i))) (s.fpA f f.ty i).2) ∧
    RunsFp (.fxtrExp f) s f .i32 (f.d.vecOp false ++ f.a.vecOp f.ty.is64) true
      (fun i => ⟨Ty.ofInt .i32 (expOf (s.fpA f f.ty i).1), 0, (s.fpA f f.ty i).2⟩) ∧
    RunsFp (.fxtrSig f) s f f.ty (f.ops1 f.ty) true
      (fun i => ⟨valBits f.ty (sigOf (s.fpA f f.ty i).1), 0, (s.fpA f f.ty i).2⟩)

/-- Classes, tails, FPC and unpacking (R149, R152, R153, R156): `fclass` writes the class mask, `tget` the tail as a value, `tset`
the word of A with bits [2:0] of B as its tail, `fpcr` the lane's FPC, `funpk` the exact value of a packed code; `fpcw` replaces,
sets or clears FPC bits in the executing lanes, and faults RESERVED with detail 0x46, in no lane written, when a lane would take a
reserved FPC. -/
def Claim.TailsAndFpc : Prop :=
  ∀ (f : VForm) (s : State),
    (Ready s f.g (f.d.vecOp false ++ f.a.vecOp f.ty.is64) →
      Gives (.fclass f) s f.g .n32 f.d fun i =>
        ⟨BitVec.ofNat 64 (classMask f.ty (readFloat f.ty (s.rdSrc f.ty f.a i).val) (s.rdSrc f.ty f.a i).tail), 0⟩) ∧
    (Ready s f.g (f.ops1 .n32) → Gives (.tget f) s f.g .n32 f.d fun i => ⟨(s.rdSrc .n32 f.a i).tail.setWidth 64, 0⟩) ∧
    (Ready s f.g (f.ops2 .n32) →
      Gives (.tset f) s f.g .n32 f.d fun i => ⟨(s.rdSrc .n32 f.a i).val, (s.rdSrc .n32 f.b i).val.extractLsb' 0 3⟩) ∧
    (Ready s f.g (f.d.vecOp false) → Gives (.fpcr f) s f.g .n32 f.d fun i => ⟨(s.g.fpcOf i).setWidth 64, 0⟩) ∧
    (Ready s f.g (f.d.vecOp false ++ f.a.vecOp false) →
      Gives (.funpk f) s f.g .f32 f.d fun i =>
        let w := f.ty.packWidth
        ⟨valBits .f32 (decodeMem f.ty ((s.rdSrc .n32 f.a i).val.toNat / 2 ^ (w * immNat f.b) % 2 ^ w)), 0⟩) ∧
    (Ready s f.g (f.a.vecOp false) →
      let e := s.g.execLanes f.g
      let a := fun i => (s.rdSrc .n32 f.a i).val.setWidth 32
      let old := fun i => s.g.fpcOf i
      let new := fun i => if f.fn = 0 then a i else if f.fn = 1 then old i ||| a i else old i &&& ~~~(a i)
      let illegal := fun i => (new i).extractLsb' 15 17 ≠ 0 ∨ 6 ≤ ((new i).extractLsb' 0 3).toNat
      ((∀ i, i < 96 → e.getLsbD i = true → ¬ illegal i) →
        ∃ t, exec (.fpcw f) s = .next t ∧ Retired s t (nextPc (.fpcw f) s) ∧ KeepsVecs s t ∧ KeepsScals s t ∧ KeepsMask s t ∧
          KeepsPreds s t ∧ t.g.dix = s.g.dix ∧ ∀ i, t.g.fpcOf i = if i < 96 ∧ e.getLsbD i = true then new i else old i) ∧
      ∀ bad : Lanes, bad ≠ 0 → (∀ i, i < 96 → (bad.getLsbD i = true ↔ e.getLsbD i = true ∧ illegal i)) →
        Traps (.fpcw f) s .reserved 0 (.generic 0x46) bad)

/-- Conversions, and the instructions on tails and FPC: that they complete, and every result. -/
def Obligations.ConversionsAndTails : Prop :=
  Claim.Conversions ∧ Claim.TailsAndFpc ∧ Claim.SettledOperands ∧ Claim.FormedResults ∧ Claim.FinalRounding ∧ Claim.FloatConversions ∧
  Claim.IntegralResults ∧ Claim.PartsAndClasses

/-! ### Float arithmetic (chapter 07) -/

/-- The arithmetic behind the results is exact (R159, R163, R164): sums and products without error; a quotient as its floor at the
resolution 2^−2200 with a sticky bit for what is left over, a square root likewise at 2^−1100; numbers compare as their values. -/
def Claim.ExactArithmetic : Prop :=
  (∀ (a b : FNum) (z : Bool) (k : Int), a.st = false → b.st = false → k ≤ a.e → k ≤ b.e →
    (addNum a b z).scaled k = a.scaled k + b.scaled k ∧ (mulNum a b).scaled (k + k) = a.scaled k * b.scaled k) ∧
  (∀ (a b : FNum), a.m ≠ 0 → b.m ≠ 0 → divRes ≤ a.e - b.e →
    let q := divNum a b
    let n := a.m * 2 ^ (a.e - b.e - divRes).toNat
    q.neg = (a.neg != b.neg) ∧ q.e = -2200 ∧ q.m * b.m ≤ n ∧ n < (q.m + 1) * b.m ∧ (q.st = true ↔ q.m * b.m ≠ n)) ∧
  (∀ (a : FNum), a.neg = false → a.m ≠ 0 → divRes ≤ a.e →
    let x := sqrtNum a
    let n := a.m * 2 ^ (a.e - divRes).toNat
    sqrtVal (.num a) = (.num x, 0) ∧ x.neg = false ∧ x.e = -1100 ∧ x.m * x.m ≤ n ∧ n < (x.m + 1) * (x.m + 1) ∧
      (x.st = true ↔ x.m * x.m ≠ n)) ∧
  (∀ (a b : FNum) (k : Int), a.st = false → b.st = false → k ≤ a.e → k ≤ b.e →
    cmpVal (.num a) (.num b) = compare (a.scaled k) (b.scaled k))

/-- The arithmetic instructions (R158, R159, R163 to R165, R168): every source is settled by the lane's effective mode with its own
draw, read with DAZ, ABS and NEG; the exact result is scaled, clamped, formed and saturated; NaN, invalid cases, infinities and
signed zeros are those of `addVal`, `mulVal`, `fmaVal`, `divVal` and `sqrtVal`; `fma` and `fdot2` form once, and `fdot2` raises NV for
infinite terms of opposite signs, whatever the third term is. -/
def Claim.FloatArithmetic : Prop :=
  ∀ (f : VForm) (s : State),
    let a := fun i => s.fpA f f.ty i
    let b := fun i => s.fpB f f.ty i
    let c := fun i => s.fpC f f.ty i
    let rdn := fun i => s.effMode f i == 3
    let out := fun (i : Nat) (x : FVal × Flags) (fl : Flags) => s.formed f f.ty i x.1 (fl ||| x.2)
    RunsFp (.fadd f) s f f.ty (f.ops2 f.ty) true (fun i => out i (addVal (rdn i) (a i).1 (b i).1) ((a i).2 ||| (b i).2)) ∧
    RunsFp (.fsub f) s f f.ty (f.ops2 f.ty) true
      (fun i => out i (addVal (rdn i) (a i).1 ((b i).1.withSign (!(b i).1.neg))) ((a i).2 ||| (b i).2)) ∧
    RunsFp (.fmul f) s f f.ty (f.ops2 f.ty) true (fun i => out i (mulVal (a i).1 (b i).1) ((a i).2 ||| (b i).2)) ∧
    RunsFp (.fma f) s f f.ty (f.ops3 f.ty) true
      (fun i => out i (fmaVal (rdn i) (a i).1 (b i).1 (c i).1) ((a i).2 ||| (b i).2 ||| (c i).2)) ∧
    RunsFp (.fdiv f) s f f.ty (f.ops2 f.ty) true (fun i => out i (divVal (a i).1 (b i).1) ((a i).2 ||| (b i).2)) ∧
    RunsFp (.fsqrt f) s f f.ty (f.ops1 f.ty) true (fun i => out i (sqrtVal (a i).1) (a i).2) ∧
    RunsFp (.fmin f) s f f.ty (f.ops2 f.ty) true (fun i =>
      ⟨valBits f.ty (s.fpClamp f f.ty i (minMaxVal false f.fn ((a i).2 != 0) ((b i).2 != 0) (a i).1 (b i).1)), 0, (a i).2 ||| (b i).2⟩) ∧
    RunsFp (.fmax f) s f f.ty (f.ops2 f.ty) true (fun i =>
      ⟨valBits f.ty (s.fpClamp f f.ty i (minMaxVal true f.fn ((a i).2 != 0) ((b i).2 != 0) (a i).1 (b i).1)), 0, (a i).2 ||| (b i).2⟩) ∧
    RunsFp (.fdot2 f) s f .f32 (f.d.vecOp false ++ f.a.vecOp true ++ f.b.vecOp true ++ f.c.vecOp false) true (fun i =>
      let m := f.mods
      let a0 := s.dotElt f f.a 0 0 m.absA m.negA i
      let a1 := s.dotElt f f.a 1 3 m.absA m.negA i
      let b0 := s.dotElt f f.b 0 1 m.absB m.negB i
      let b1 := s.dotElt f f.b 1 4 m.absB m.negB i
      let z := s.fpC f .f32 i
      let p := mulVal a0.1 b0.1
      let q := mulVal a1.1 b1.1
      let terms := [p.1, q.1, z.1]
      let x := addVal (rdn i) (addVal (rdn i) p.1 q.1).1 z.1
      s.formed f .f32 i x.1 (a0.2 ||| a1.2 ||| b0.2 ||| b1.2 ||| z.2 ||| p.2 ||| q.2 |||
        (if .inf true ∈ terms ∧ .inf false ∈ terms then fNV else 0)))

/-- The special values of float arithmetic (R159, R163 to R165, R170): NaN operands and invalid cases give the canonical NaN, with
NV for an invalid case; infinities, divisions by zero and the signs of zeros; the fused product and sum of numbers, and its invalid
cases; what `fmin` and `fmax` select, for numbers (−0 below +0) and for NaNs in each of the three variants; and the special functions
at zeros, infinities and negative numbers. That a finite value of R170 which R169 lists as no exact case raises NX is the model's
reading (log entry 92). -/
def Claim.SpecialValues : Prop :=
  ∀ (rdn x y sg : Bool) (v : FVal) (m : FNum), m.isZero = false →
    let zero := fun (n : Bool) => FVal.num ⟨n, 0, 0, false⟩
    let one := fun (n : Bool) => FVal.num ⟨n, 1, 0, false⟩
    let nan := FVal.nan false
    (addVal rdn (.nan sg) v = (nan, 0) ∧ addVal rdn v (.nan sg) = (nan, 0) ∧ mulVal (.nan sg) v = (nan, 0) ∧ mulVal v (.nan sg) = (nan, 0)
      ∧ divVal (.nan sg) v = (nan, 0) ∧ divVal v (.nan sg) = (nan, 0) ∧ sqrtVal (.nan sg) = (nan, 0)) ∧
    (addVal rdn (.inf x) (.inf y) = if x = y then (.inf x, 0) else (nan, fNV)) ∧
    (mulVal (.inf x) (zero y) = (nan, fNV) ∧ mulVal (zero y) (.inf x) = (nan, fNV) ∧ mulVal (.inf x) (.num m) = (.inf (x != m.neg), 0)) ∧
    (divVal (.inf x) (.inf y) = (nan, fNV) ∧ divVal (zero x) (zero y) = (nan, fNV) ∧ divVal (.num m) (zero y) = (.inf (m.neg != y), fDZ)
      ∧ divVal (.inf x) (.num m) = (.inf (x != m.neg), 0) ∧ divVal (.num m) (.inf y) = (zero (m.neg != y), 0)) ∧
    (sqrtVal (.inf true) = (nan, fNV) ∧ sqrtVal (zero x) = (zero x, 0) ∧ (m.neg = true → sqrtVal (.num m) = (nan, fNV))) ∧
    (addVal rdn (zero x) (zero y) = (zero (if x = y then x else rdn), 0) ∧
      ((addVal rdn (.num m) (.num { m with neg := !m.neg })).1.isZero = true ∧
        (addVal rdn (.num m) (.num { m with neg := !m.neg })).1.neg = rdn)) ∧
    (∀ (a b c : FNum) (w : FVal) (z : Bool), a.isZero = true →
      fmaVal rdn (.num m) (.num b) (.num c) = (.num (addNum (mulNum m b) c rdn), 0) ∧
      fmaVal rdn (.num a) (.inf z) w = (nan, fNV) ∧ fmaVal rdn (.inf z) (.num a) w = (nan, fNV) ∧
      fmaVal rdn (.inf x) (.num m) (.num c) = (.inf (x != m.neg), 0) ∧ fmaVal rdn (.num m) (.inf x) (.num c) = (.inf (m.neg != x), 0) ∧
      fmaVal rdn (.inf x) (.inf y) (.inf z) = (if z = (x != y) then (.inf z, 0) else (nan, fNV)) ∧
      fmaVal rdn (.inf x) (.num m) (.inf z) = (if z = (x != m.neg) then (.inf z, 0) else (nan, fNV)) ∧
      fmaVal rdn (.num m) (.num b) (.inf z) = (.inf z, 0) ∧
      fmaVal rdn (.num m) (.num b) (.nan sg) = (nan, 0) ∧ fmaVal rdn (.nan sg) v w = (nan, 0) ∧ fmaVal rdn v (.nan sg) w = (nan, 0)) ∧
    (∀ (p q : FVal) (fn : BitVec 4) (sp sq : Bool), fn.toNat < 3 → p.isNan = false → q.isNan = false →
      let below := fun (k l : FVal) => cmpVal k l == .lt || (k.isZero && l.isZero && k.neg && !l.neg)
      minMaxVal false fn sp sq p q = (if below q p then q else p) ∧ minMaxVal true fn sp sq p q = (if below p q then q else p) ∧
      ∀ great, minMaxVal great fn sp sq (.nan sg) (.nan y) = nan ∧
        minMaxVal great fn sp sq (.nan sg) q = (if fn = 0 ∨ (fn = 2 ∧ sp = true) then nan else q) ∧
        minMaxVal great fn sp sq p (.nan sg) = (if fn = 0 ∨ (fn = 2 ∧ sq = true) then nan else p)) ∧
    ([0, 1].map (fun k => specialFn k .f32 (zero x)) = [(.inf x, fDZ), (.inf x, fDZ)] ∧
      [2, 3, 4, 5, 6].map (fun k => specialFn k .f32 (zero x)) = [(one false, 0), (.inf true, fDZ), (zero x, 0), (one false, 0), (zero x, fNX)] ∧
      [0, 1, 2, 3, 4, 5, 6].map (fun k => specialFn k .f32 (.inf false)) =
        [(zero false, fNX), (zero false, fNX), (.inf false, 0), (.inf false, 0), (nan, fNV), (nan, fNV), (one false, fNX)] ∧
      [0, 1, 2, 3, 4, 5, 6].map (fun k => specialFn k .f32 (.inf true)) =
        [(zero true, fNX), (nan, fNV), (zero false, fNX), (nan, fNV), (nan, fNV), (nan, fNV), (one true, fNX)] ∧
      (m.neg = true → specialFn 1 .f32 (.num m) = (nan, fNV) ∧ specialFn 3 .f32 (.num m) = (nan, fNV)))

/-- What float arithmetic computes before it settles: exact results, and results on special values. -/
def Obligations.ExactAndSpecialValues : Prop := Claim.ExactArithmetic ∧ Claim.SpecialValues

/-- The special functions (R169, R170) complete with the value of `specialFn`, formed; what that value is,
`Claim.SpecialValues` and `Claim.SpecialBounds` say. -/
def Claim.SpecialFunctions : Prop :=
  ∀ (f : VForm) (s : State),
    ∀ r ∈ [(Instr.frcp f, 0), (.frsq f, 1), (.fexp2 f, 2), (.flog2 f, 3), (.fsinpi f, 4), (.fcospi f, 5), (.ftanh f, 6)],
      RunsFp r.1 s f f.ty (f.ops1 f.ty) true (fun i =>
        let a := s.fpA f f.ty i
        let x := specialFn r.2 f.ty a.1
        s.formed f f.ty i x.1 (a.2 ||| x.2))

/-- What the special functions answer for a finite operand that is not zero (R169). In the exact cases (the reciprocal of a power of
two and 2^n, where the format holds the result; the reciprocal root of an even power of two; the logarithm of a power of two; the sine
and cosine of h·π/2) the result is exact and raises nothing. In every other case but a negative operand of `frsq` and `flog2` the
result is a number whose rounding to nearest lies within the function's bound, and NX is raised; that number itself is the device's
own, a free value of the model (log entry 5). The function that the bound is taken about is evaluated to 1400 bits after the point:
for the reciprocal and its root, the largest such fraction not above it. -/
def Claim.SpecialBounds : Prop :=
  ∀ (t : Ty) (a : FNum), a.st = false → a.m ≠ 0 →
    (∀ j : Nat, a.m = 2 ^ j → let n := a.e + j
      (t.emin - t.prec + 1 ≤ -n → -n ≤ FNum.log ⟨false, t.max.1, t.max.2, false⟩ →
        specialFn 0 t (.num a) = (.num ⟨a.neg, 1, -n, false⟩, 0)) ∧
      (a.neg = false → ∀ h : Int, n = 2 * h → specialFn 1 t (.num a) = (.num ⟨false, 1, -h, false⟩, 0)) ∧
      (a.neg = false → specialFn 3 t (.num a) = (intVal n, 0))) ∧
    (∀ (h k : Int), k ≤ a.e → k < 0 →
      (a.scaled k = h * 2 ^ (-k).toNat →
        (t.emin - t.prec + 1 ≤ h → h ≤ FNum.log ⟨false, t.max.1, t.max.2, false⟩ →
          specialFn 2 t (.num a) = (.num ⟨false, 1, h, false⟩, 0)) ∧
        specialFn 4 t (.num a) = (.num ⟨decide (h < 0), 0, 0, false⟩, 0) ∧
        specialFn 5 t (.num a) = (.num ⟨h % 2 == 1, 1, 0, false⟩, 0)) ∧
      (2 * a.scaled k = (2 * h + 1) * 2 ^ (-k).toNat →
        specialFn 4 t (.num a) = (.num ⟨h % 2 == 1, 1, 0, false⟩, 0) ∧
        specialFn 5 t (.num a) = (.num ⟨false, 0, 0, false⟩, 0))) ∧
    (∀ fn : Nat, fn < 7 → specialNum fn t a = none →
      ∃ y : FNum, specialFn fn t (.num a) = (.num y, fNX) ∧ withinBound fn t (exactFn fn a) y) ∧
    (let c := exactFn 0 a
      let n := 2 ^ (1400 - a.e).toNat
      c.neg = a.neg ∧ c.e = -1400 ∧ c.m * a.m ≤ n ∧ n < (c.m + 1) * a.m) ∧
    (let c := exactFn 1 a
      let n := 2 ^ (2800 - a.e).toNat
      c.neg = false ∧ c.e = -1400 ∧ c.m * c.m * a.m ≤ n ∧ n < (c.m + 1) * (c.m + 1) * a.m) ∧
    (∀ (fn : Nat) (c y : FNum), withinBound fn t c y = true →
      let q := c.quantum t
      let r : FNum := ⟨y.neg, y.roundAt 0 (y.quantum t), y.quantum t, false⟩
      ∃ k : Int, k ≤ c.e ∧ k ≤ r.e ∧ k ≤ q ∧ k ≤ -80 ∧
        ((r.scaled k - c.scaled k).natAbs ≤ (if 2 ≤ fn ∧ (t = .f32 ∨ t = .f64) then 2 else 1) * 2 ^ (q - k).toNat ∨
          (fn = 3 ∧ (r.scaled k - c.scaled k).natAbs ≤
            2 ^ ((if t = .f32 then -25 else if t = .f64 then -54 else -((t.prec : Int) + 1)) - k).toNat)))

/-- Float arithmetic and the special functions, with their bounds and exact cases. -/
def Obligations.FloatAndSpecialFunctions : Prop := Claim.FloatArithmetic ∧ Claim.SpecialFunctions ∧ Claim.SpecialBounds

/-- The compares (R166, R167): the relation of two values, with NaN unordered and zeros equal, enters the destination predicate in
the executing lanes; the ordered relations raise NV for any NaN and every relation for a signalling one. With scalar sources only
it is evaluated once. `fcmp.raw` compares the unsettled values with their tails and does not draw. -/
def Claim.FloatCompares : Prop :=
  ∀ (f : VForm) (n : Fin 32) (s : State), f.d = .pred n → Ready s f.g (f.a.vecOp f.ty.is64 ++ f.b.vecOp f.ty.is64) →
    ∀ r ∈ [(Instr.fcmp f, true, fun i => (s.fpA f f.ty i, s.fpB f f.ty i)),
        (.fcmpRaw f, false, fun i => (s.rawOperand f f.a f.mods.absA f.mods.negA i, s.rawOperand f f.b f.mods.absB f.mods.negB i))],
      let at_ := fun i => if f.cmpOnce then 96 else i
      let a := fun i => (r.2.2 (at_ i)).1
      let b := fun i => (r.2.2 (at_ i)).2
      let un := fun i => (a i).1.isNan || (b i).1.isNan
      let c := fun i => cmpVal (a i).1 (b i).1
      let cc := f.fn.toNat % 8
      let rel := fun i => match cc with
        | 0 => !un i && c i == .eq | 1 => un i || c i != .eq | 2 => !un i && c i == .lt | 3 => !un i && c i != .gt
        | 4 => !un i && c i == .gt | 5 => !un i && c i != .lt | 6 => un i | _ => !un i
      let flags := fun i => (a i).2 ||| (b i).2 ||| (if 2 ≤ cc ∧ cc ≤ 5 ∧ un i then fNV else 0)
      (∀ i ∈ s.cmpLanes f, flags i &&& fpcTrapen (s.fpcAt f.g i) = 0) → ∀ k : Lanes, (∀ i, i < 96 → k.getLsbD i = rel i) →
        let old := s.g.pred n.val
        ∃ t, exec r.1 s = .next t ∧ Retired s t (nextPc r.1 s) ∧ KeepsVecs s t ∧ KeepsScals s t ∧ KeepsMask s t ∧
          PredSet s t n.val (s.g.execLanes f.g) (match f.ct with | .set => k | .and => old &&& k | .or => old ||| k) ∧
          (∀ i, t.g.fpcOf i = s.g.fpcOf i ||| ((if ∃ j ∈ s.cmpLanes f, s.fpLane f.g j = i then flags i else 0).setWidth 32 <<< 5)) ∧
          t.g.dix = if r.2.1 && s.draws f f.cmpOnce && !s.g.mode then s.g.dix + 1 else s.g.dix

/-- `rnd` (R72, R171): the lane's value is the mix of the grid's seed plus j, the instruction's DIX value and the lane, as n32 its
bits [63:32], as f32 its top 24 bits divided by 2^24; DIX advances by one in user mode even when no lane executes. -/
def Claim.RandomNumbers : Prop :=
  ∀ (f : VForm) (s : State), Ready s f.g (f.ops1 f.ty) → f.ty = .n32 ∨ f.ty = .f32 →
    ∃ t, exec (.rnd f) s = .next t ∧ Retired s t (nextPc (.rnd f) s) ∧ KeepsPreds s t ∧ (∀ i, t.g.fpcOf i = s.g.fpcOf i) ∧
      t.g.dix = (if s.g.mode then s.g.dix else s.g.dix + 1) ∧
      Writes s t f.g f.ty f.d fun i =>
        let x := mix (s.seed + (s.rdSrc .n32 f.a i).val) s.g.dix (BitVec.ofNat 64 i)
        ⟨if f.ty = .n32 then (x.extractLsb' 32 32).setWidth 64 else numBits .f32 false (x.extractLsb' 40 24).toNat (-24), 0⟩

/-- Float compares, and random numbers. -/
def Obligations.FloatComparesAndDraws : Prop := Claim.FloatCompares ∧ Claim.RandomNumbers

/-! ### Cross-lane instructions (chapter 08) -/

/-- `shfl`, `match` and `ballot` (R176, R181, R182): `shfl` reads the lane that its index names through A's pattern, as a value of the
type (R69), zero with tail 0 for an index of 96 or more or a lane past the pattern's end; `match.any` names the lowest executing lane with an equal value, `match.all` says whether all are
equal; `ballot` writes the set of executing lanes whose predicate holds, or whose word is not zero, to three scalars, unless it is
the never form. -/
def Claim.LaneExchange : Prop :=
  ∀ (f : VForm) (s : State),
    let e := s.g.execLanes f.g
    let a := fun i => (s.rdSrc f.ty f.a i).val
    (Usable s (f.d.vecOp f.ty.is64 ++ f.a.vecOp f.ty.is64 ++ f.b.vecOp false)
        (s.g.windowVia e f.d.vecNum f.ty.is64 some ||| s.g.windowVia e f.a.vecNum f.ty.is64 (s.shflLane f)
          ||| (f.b.vecOp false).foldl (fun m o => m ||| s.g.windowLanes e o) 0) →
      Gives (.shfl f) s f.g f.ty f.d fun i =>
        let j := (s.rdSrc .n32 f.b i).val.toNat % 2 ^ 32
        match (if j < 96 then (srcPat f.a).lane j else none) with
        | some l => valueIn f.ty (s.vval f.a.vecNum f.ty.is64 l)
        | none => ⟨0, 0⟩) ∧
    (Ready s f.g (f.d.vecOp false ++ f.a.vecOp f.ty.is64) → f.d.isScal = false →
      ∀ m : Nat → Nat, (∀ i, i < 96 → e.getLsbD i = true →
          e.getLsbD (m i) = true ∧ m i < 96 ∧ a (m i) = a i ∧ ∀ j, j < m i → e.getLsbD j = true → a j ≠ a i) →
        Gives (.matchAny f) s f.g .n32 f.d fun i => ⟨BitVec.ofNat 64 (m i), 0⟩) ∧
    (Ready s f.g (f.a.vecOp f.ty.is64) → ∀ n : Fin 32, f.d = .pred n →
      ((∀ i j, i < 96 → j < 96 → e.getLsbD i = true → e.getLsbD j = true → a i = a j) → GivesPred (.matchAll f) s n.val e allLanes) ∧
      (∀ i j, i < 96 → j < 96 → e.getLsbD i = true → e.getLsbD j = true → a i ≠ a j → GivesPred (.matchAll f) s n.val e 0)) ∧
    (Ready s f.g (f.a.vecOp false) → ∀ n : Fin 64, f.d = .scal n → n.val + 2 < 64 → ∀ r : Lanes,
      (∀ i, i < 96 → r.getLsbD i = (e.getLsbD i && match f.a with
        | .special q _ => (s.g.pred q.toNat).getLsbD i
        | x => (s.rdSrc .n32 x i).val != 0)) →
      (f.g.isNever = true → Falls (.ballot f) s s) ∧
      (f.g.isNever = false → Falls (.ballot f) s (((s.setS n.val ⟨(r.extractLsb' 0 32).setWidth 64, 0⟩).setS (n.val + 1)
        ⟨(r.extractLsb' 32 32).setWidth 64, 0⟩).setS (n.val + 2) ⟨(r.extractLsb' 64 32).setWidth 64, 0⟩)))

/-- `rdc` and `scan` (R177 to R180, R188): the value of the fixed tree over the executing lanes, a float leaf settled in its lane's mode,
goes to the destination in every executing lane, or to a scalar unless it is the never form; a scan gives each lane its prefix
(`Claim.ScanPrefixes`). The flags go to every executing lane; an enabled one traps in all of them. -/
def Claim.Reductions : Prop :=
  ∀ (f : VForm) (s : State), Ready s f.g (f.ops1 f.ty) →
    let e := s.g.execLanes f.g
    let leaves := (lanesOf e).foldl (fun x i => x ||| ((s.leaf f i).map (·.f)).getD 0) 0
    let r := reduced f.ty f.fn.toNat (treeRoot (combOf f.ty f.fn.toNat (s.nodeRdn f)) (s.leaf f))
    let fl := leaves ||| r.f
    let outs := (lanesOf e).map (s.scanOut f)
    let fs := outs.foldl (fun x o => x ||| o.f) leaves
    let free := fun (x : Flags) => ∀ i, i < 96 → e.getLsbD i = true → x &&& fpcTrapen (s.g.fpcOf i) = 0
    (free fl → GivesReduced (.rdc f) s f fl fun t => match f.d with
      | .vec n => VecSet s t n.toNat f.ty.is64 e (fun _ => ⟨r.v, r.tail⟩) ∧ KeepsScals s t ∧ KeepsMask s t
      | .scal n => KeepsVecs s t ∧ (if f.g.isNever then KeepsScals s t ∧ KeepsMask s t else ScalSet s t n.val ⟨f.ty.widen r.v, r.tail⟩)
      | _ => KeepsVecs s t ∧ KeepsScals s t ∧ KeepsMask s t) ∧
    (¬ free fl → ∃ v, Traps (.rdc f) s .fp 0 (.raw v) e) ∧
    (∀ n, f.d = .vec n → free fs → GivesReduced (.scan f) s f fs fun t =>
      VecSet s t n.toNat f.ty.is64 e (fun i => ⟨(s.scanOut f i).v, (s.scanOut f i).tail⟩) ∧ KeepsScals s t ∧ KeepsMask s t) ∧
    (¬ free fs → ∃ v, Traps (.scan f) s .fp 0 (.raw v) e)

/-- What the tree gives for integers (R178): the wrapped sum, the least and the greatest value, the bitwise and, or and exclusive or
of the executing lanes, whatever their number and places; for no lane the empty-set value. -/
def Claim.IntegerReductions : Prop :=
  ∀ (f : VForm) (s : State), f.ty.isInt = true →
    let t := f.ty
    let e := lanesOf (s.g.execLanes f.g)
    let a := fun i => s.intSrc t f.a i
    let b := fun i => bitsOf t (s.rdSrc t f.a i).val
    let r := fun op => (reduced t op (treeRoot (combOf t op (s.nodeRdn f)) (s.leaf f))).v
    r 0 = t.ofInt ((e.map a).sum) ∧
    (e = [] → r 1 = t.ofInt t.intMax ∧ r 2 = t.ofInt t.intMin) ∧
    (∀ i ∈ e, (∀ j ∈ e, a i ≤ a j) → r 1 = t.ofInt (a i)) ∧
    (∀ i ∈ e, (∀ j ∈ e, a j ≤ a i) → r 2 = t.ofInt (a i)) ∧
    bitsOf t (r 3) = e.foldl (fun x i => x &&& b i) (BitVec.allOnes t.width) ∧
    bitsOf t (r 4) = e.foldl (fun x i => x ||| b i) 0 ∧
    bitsOf t (r 5) = e.foldl (fun x i => x ^^^ b i) 0

/-- The prefixes of a scan (R177, R180). The prefix of the first n lanes of beat b joins the blocks of n's bits from the left: the
block of the lowest bit set in n is the last to be joined. P(i) has the totals of the earlier beats before it, and P(95) is the root of
`rdc`. Lane i of a scan receives P(i), in the exclusive forms P(i − 1) and the empty-set value in lane 0; for integers that is the
tree's result over the executing lanes up to i, or below i. -/
def Claim.ScanPrefixes : Prop :=
  (∀ (comb : FOut → FOut → FOut) (leaf : Nat → Option FOut) (b : Nat), b < 3 →
    let node := treeNode comb
    let blk := fun (k lo : Nat) => treeBlk comb leaf k (32 * b + lo)
    let total := fun (j : Nat) => treeBlk comb leaf 5 (32 * j)
    let w := fun (n : Nat) => prefixFrom comb leaf (32 * b) n 6 0 none
    let before := if b = 0 then none else if b = 1 then total 0 else node (total 0) (total 1)
    (∀ k lo, blk (k + 1) lo = node (blk k lo) (blk k (lo + 2 ^ k)) ∧ blk 0 lo = leaf (32 * b + lo)) ∧
    (w 0 = none ∧ ∀ n k, n ≤ 32 → n % 2 ^ (k + 1) = 2 ^ k → w n = node (w (n - 2 ^ k)) (blk k (n - 2 ^ k))) ∧
    (∀ m, m < 32 → treePrefix comb leaf (32 * b + m) = node before (w (m + 1))) ∧
    treeRoot comb leaf = node (node (total 0) (total 1)) (total 2) ∧ treePrefix comb leaf 95 = treeRoot comb leaf) ∧
  ∀ (f : VForm) (s : State) (i : Nat), i < 96 →
    let op := f.fn.toNat % 8
    let comb := combOf f.ty op (s.nodeRdn f)
    let n := if 8 ≤ f.fn.toNat then i else i + 1
    s.scanOut f i = reduced f.ty op (if n = 0 then none else treePrefix comb (s.leaf f) (n - 1)) ∧
    (f.ty.isInt = true → s.scanOut f i = reduced f.ty op (treeRoot comb fun j => if j < n then s.leaf f j else none))

/-- Reductions and scans over lanes. -/
def Obligations.LaneReductions : Prop := Claim.Reductions ∧ Claim.IntegerReductions ∧ Claim.ScanPrefixes

/-- `isect` (R183, R184) on two runs of keys whose lengths C gives, at most 96 each: `isect.m` gives each lane below the length of
run A the place of its key in run B; `isect.adv` counts the keys of both runs that are not greater than the lesser of the two last
keys. -/
def Claim.RunIntersection : Prop :=
  ∀ (f : VForm) (s : State), Quiet s → s.isectCheck f (f.d.vecOp false) = .ok () →
    let na := min (s.n32 f.c % 256) 96
    let nb := min (s.n32 f.c / 256 % 256) 96
    let a := fun i => (s.rdSrc f.ty f.a i).val
    let b := fun i => (s.rdSrc f.ty f.b i).val
    let found := fun i j => i < na ∧ j < nb ∧ a i = b j ∧ ∀ k, k < j → a i ≠ b k
    (∀ n : Fin 32, f.d = .pred n → ∀ v : Lanes, (∀ i, i < 96 → (v.getLsbD i = true ↔ ∃ j, found i j)) →
      GivesPred (.isectM f) s n.val (s.g.execLanes f.g) v) ∧
    (f.d.isPred = false → ∀ m : Nat → Nat,
      (∀ i, i < 97 → (∀ j, found i j → m i = j) ∧ ((∀ j, ¬ found i j) → m i = 0xFFFFFFFF)) →
      Gives (.isectM f) s f.g .n32 f.d fun i => ⟨BitVec.ofNat 64 (m i), 0⟩) ∧
    (∀ last : DWord, (0 < na → 0 < nb → last = if a (na - 1) < b (nb - 1) then a (na - 1) else b (nb - 1)) →
      Gives (.isectAdv f) s f.g .n32 f.d fun _ =>
        ⟨if na = 0 ∨ nb = 0 then BitVec.ofNat 64 (na + 256 * nb)
         else BitVec.ofNat 64 (((List.range na).countP fun i => a i ≤ last) + 256 * (List.range nb).countP fun i => b i ≤ last), 0⟩)

/-- `cmpct`, `expd` and `lsort` (R185 to R187): the executing lanes' values packed into the lowest lanes, or their number in a
scalar; consecutive values spread over the executing lanes; the executing lanes' values in order, NaNs last. -/
def Claim.LanePermutations : Prop :=
  ∀ (f : VForm) (s : State),
    let e := s.g.execLanes f.g
    let w := f.ty.is64
    let count := (lanesOf e).length
    (∀ n : Fin 64, f.d = .scal n → Usable s (f.a.vecOp w) ((f.a.vecOp w).foldl (fun m o => m ||| s.g.windowLanes e o) 0) →
      (f.g.isNever = true → Falls (.cmpct f) s s) ∧
      (f.g.isNever = false → GivesScal (.cmpct f) s (nextPc (.cmpct f) s) n.val ⟨BitVec.ofNat 64 count, 0⟩)) ∧
    (∀ n, f.d = .vec n →
      (Usable s (f.d.vecOp w ++ f.a.vecOp w) (s.g.windowVia (laneSet fun i => i < count) n.toNat w some
          ||| (f.a.vecOp w).foldl (fun m o => m ||| s.g.windowLanes e o) 0) →
        GivesLanes (.cmpct f) s n.toNat w (laneSet fun i => i < count) fun k =>
          valueIn f.ty (s.rdSrc f.ty f.a ((lanesOf e).getD k 0))) ∧
      (Usable s (f.d.vecOp w ++ f.a.vecOp w) (s.g.windowVia e n.toNat w some
          ||| s.g.windowVia e f.a.vecNum w (fun i => (srcPat f.a).lane (rankIn e i))) →
        GivesLanes (.expd f) s n.toNat w e fun i => valueIn f.ty (s.rdSrc f.ty f.a (rankIn e i))) ∧
      (Ready s f.g (f.ops1 f.ty) → ∃ l : List TVal,
        l.Perm ((lanesOf e).map fun i => s.rdSrc f.ty f.a i) ∧
        l.Pairwise (fun x y => sortBefore f.ty (f.fn == 1) y x = false) ∧
        GivesLanes (.lsort f) s n.toNat w e fun i => l.getD (rankIn e i) ⟨0, 0⟩))

/-- Data that moves between lanes. -/
def Obligations.LaneMovement : Prop := Claim.LaneExchange ∧ Claim.RunIntersection ∧ Claim.LanePermutations

/-! ### Memory (chapters 09 and 10) -/

/-- A write is read back (R2, R40, R70, R195): the n bytes written at a location in HBM, on a stack, in host or peer memory or in
scratchpad hold the value's bytes lowest first, and the location reads as the value; the first of whole words in scratchpad carries
the tail; no other byte changes; the memories keep their canonical form. The model discards bytes for a host that has failed (R419). -/
def Obligations.WriteThenRead : Prop :=
  ∀ (s : State) (k n v : Nat) (nol1 : Bool) (l : Loc) (tail : Tail), 0 < n → MemoriesWf s →
    let t := s.writeLoc k nol1 l n v tail
    MemoriesWf t ∧ OnlyStores s t [l] n ∧ Holds t k l n v tail ∧
    (HostUp s l n → l ≠ .lost → (∀ o, l ≠ .record o) → (∀ c b, l = .scratch c b → InWords b n) →
      t.readHome (t.group k) l n = v % 256 ^ n)

/-- The windows and the checks of an address (R190, R193 to R196): bits [63:57] must repeat bit 56; the address must be a multiple of the
size; then the first window that holds it decides, in the order scratchpad, stack record, stack, Stratus: a scratchpad address must
lie in the team's allocation, the record takes 8 bytes at a scalar address of a supervisor's `ld`, `st` or `atom`, a stack address must
lie below SLANE, and Stratus takes no write (its REASON 5 there is the model's choice, log entry 100); any other address is global. FINFO
shows ACC, LVL, WIN, REASON and the size of the access (R205). -/
def Claim.AddressChecks : Prop :=
  ∀ (s : State) (a : Access) (lane : Nat) (scalar : Bool) (ea : DWord), 0 < a.size →
    let c := s.ctxCore s.g.core s.g.asid
    let r := s.resolve s.g a lane scalar ea
    let off := fun (base : DWord) => (ea - base).toNat
    let err := fun (code : FCode) (win reason : Nat) => Except.error (AccStop.err ⟨code, 7, win, reason, ea, a.acc, Nat.log2 a.size⟩)
    (steer c ea = if off c.apscr < 2 ^ 20 then (.scratch, off c.apscr) else if off (c.apstk - 64) < 64 then (.record, off (c.apstk - 64))
      else if off c.apstk < 2 ^ 32 then (.stack, off c.apstk) else if off c.apstr < 2 ^ 31 then (.stratus, off c.apstr)
      else (.global, ea.toNat)) ∧
    (ea.extractLsb' 57 7 ≠ (if ea.getLsbD 56 then 0x7F else 0) → r = err .aperture 0 0xE) ∧
    (ea.extractLsb' 57 7 = (if ea.getLsbD 56 then 0x7F else 0) →
      (ea.toNat % a.size ≠ 0 → r = err .align (steer c ea).1.num 0xD) ∧
      (ea.toNat % a.size = 0 →
        (∀ o, steer c ea = (.scratch, o) →
          (o + a.size ≤ s.t.scratch → r = .ok (.scratch s.t.core (s.t.base + o))) ∧
          (s.t.pair = true → s.t.scratch < o + a.size → 0x80000 ≤ o → o + a.size ≤ 0x80000 + s.t.scratch →
            r = .ok (.scratch (s.t.core + 1) (s.t.base + (o - 0x80000)))) ∧
          (s.t.scratch < o + a.size → (s.t.pair = false ∨ o < 0x80000 ∨ 0x80000 + s.t.scratch < o + a.size) → r = err .protect 1 6)) ∧
        (∀ o, steer c ea = (.record, o) →
          r = if a.record = true ∧ scalar = true ∧ a.user = false ∧ a.size = 8 then .ok (.record o)
            else .error (.err ⟨.protect, 7, 2, 7, ea, 7, 3⟩)) ∧
        (∀ x, steer c ea = (.stack, x) →
          (s.g.slane.toNat ≤ x → r = err .spillLimit 2 9) ∧
          (x < s.g.slane.toNat → s.g.lbase.toNat + 384 * ((x + a.size - 1) / 4) + 4 * lane + (x + a.size - 1) % 4 < Config.hbmBytes →
            r = .ok (.stack s.g.lbase.toNat x lane))) ∧
        (∀ o, steer c ea = (.stratus, o) →
          r = if a.write || a.atomic then err .protect 3 5 else .ok (.stratus o)) ∧
        (∀ o, steer c ea = (.global, o) → r = s.resolveGlobal s.g.core s.g.asid a ea)))

/-- The walk of the page table (R199, R200, R202): it begins at the root of the ASID, or below the entry of the lowest level that the walk
cache holds, and at each level reads the entry that the address selects: not present or malformed (a peer's entry without a route too, R335), it ends with a
PAGE fault of REASON 0 or 1 at that level (R205); a leaf ends it; any other entry leads to the table it points to. A TLB entry of the ASID's generation spares it. -/
def Claim.PageWalk : Prop :=
  ∀ (s : State) (core : Nat) (asid : BitVec 16) (a : Access) (va : DWord),
    let pa := fun (p : DWord) => (p.extractLsb' 12 40).toNat
    (∀ e, s.tlbFind core asid va = some e →
      e.asid = asid ∧ e.gen = (s.ctx asid).gen ∧ s.leafOf core asid va = some (.ok (e.pte, e.level))) ∧
    (s.tlbFind core asid va = none →
      ((∀ l, l ∈ [1, 2, 3, 4] → s.walkHit (core / 64) asid va l = none) →
        s.leafOf core asid va = s.walkAt va 5 (4096 * pa (s.ctx asid).root)) ∧
      ∀ l e, l ∈ [1, 2, 3, 4] → (∀ m, 1 ≤ m → m < l → s.walkHit (core / 64) asid va m = none) → s.walkHit (core / 64) asid va l = some e →
        e.level = l ∧ s.leafOf core asid va = s.walkAt va l (4096 * pa e.pte)) ∧
    (∀ level table, level < 5 → table < Config.hbmBytes →
      let at_ := table + 8 * (va.toNat / 2 ^ (12 + 9 * level) % 512)
      let p : DWord := BitVec.ofNat 64 (s.hbm.read at_ 8)
      let leaf := p.getLsbD 8 = true
      let mt := (p.extractLsb' 4 2).toNat
      let peer := p.extractLsb' 48 16
      let malformed := p.extractLsb' 10 2 ≠ 0 ∨
        (leaf ∧ (2 < level ∨ (p.extractLsb' 6 2).toNat = 3 ∨ (p.getLsbD 9 = true ∧ level ≠ 0) ∨ (p.extractLsb' 12 36).toNat % 2 ^ (9 * level) ≠ 0
          ∨ (mt ≠ 2 ∧ p.extractLsb' 52 12 ≠ 0) ∨ (mt = 3 ∧ p.extractLsb' 31 21 ≠ 0)
          ∨ (mt = 2 ∧ (peer = s.device ∨ Store.get 0 s.routes peer.toNat = 0)))) ∨
        (¬ leaf ∧ (level = 0 ∨ p.extractLsb' 52 12 ≠ 0))
      let found := s.walkAt va (level + 1) table
      (∀ k, k < 8 → s.poison.contains (.hbm (at_ + k)) = false) →
      (p.getLsbD 0 = false → found = some (.error (level, 0))) ∧
      (p.getLsbD 0 = true → malformed → found = some (.error (level, 1))) ∧
      (p.getLsbD 0 = true → ¬ malformed → leaf → found = some (.ok (p, level))) ∧
      (p.getLsbD 0 = true → ¬ malformed → ¬ leaf → found = s.walkAt va level (4096 * pa p))) ∧
    ∀ level reason, s.leafOf core asid va = some (.error (level, reason)) → reason < 2 →
      s.resolveGlobal core asid a va = .error (.err ⟨.page, level, 0, reason, va, a.acc, Nat.log2 a.size⟩)

/-- The checks of a translated access (R200, R201), for the leaf `p` found at a level: write, execute, user and Stratus permission,
then the atomic path; LVL (R205) is the leaf's level, and 7 for a cached leaf, whose access walked no table (the model's reading, log
entry 54). An access that passes goes to its byte of the leaf's page: 4 KiB, 64 KiB of a C64 leaf,
2 MiB or 1 GiB, in HBM, host, peer or Stratus memory. -/
def Claim.Translation : Prop :=
  ∀ (s : State) (core : Nat) (asid : BitVec 16) (a : Access) (ea p : DWord) (level : Nat),
    s.leafOf core asid ea = some (.ok (p, level)) →
    let r := s.resolveGlobal core asid a ea
    let lvl := if (s.tlbFind core asid ea).isSome then 7 else level
    let err := fun (code : FCode) (reason : Nat) => Except.error (AccStop.err ⟨code, lvl, 0, reason, ea, a.acc, Nat.log2 a.size⟩)
    let store := a.write = true ∨ a.atomic = true
    let mt := p.extractLsb' 4 2
    let ap := p.extractLsb' 6 2
    let size := if p.getLsbD 9 then 2 ^ 16 else 2 ^ (12 + 9 * level)
    let byte := fun (frame : Nat) => 4096 * frame / size * size + ea.toNat % size
    (store → p.getLsbD 1 = false → r = err .protect 2) ∧
    (¬ (store ∧ p.getLsbD 1 = false) → a.acc = 3 → p.getLsbD 2 = false → r = err .protect 3) ∧
    (¬ (store ∧ p.getLsbD 1 = false) → ¬ (a.acc = 3 ∧ p.getLsbD 2 = false) →
      (a.user = true → p.getLsbD 3 = true → r = err .protect 4) ∧
      (¬ (a.user = true ∧ p.getLsbD 3 = true) →
        (store → mt = 3 → r = err .protect 5) ∧
        (a.atomic = true → mt ≠ 3 → ap = 0 ∨ (a.sys = true ∧ ap = 1) → r = err .atomicPath 8) ∧
        (¬ (store ∧ mt = 3) → ¬ (a.atomic = true ∧ (ap = 0 ∨ (a.sys = true ∧ ap = 1))) →
          (mt = 0 → byte (p.extractLsb' 12 40).toNat < Config.hbmBytes → r = .ok (.hbm (byte (p.extractLsb' 12 40).toNat))) ∧
          (mt = 1 → r = .ok (.host (byte (p.extractLsb' 12 40).toNat))) ∧
          (mt = 2 → r = .ok (.peer (p.extractLsb' 48 16).toNat (byte (p.extractLsb' 12 36).toNat))) ∧
          (mt = 3 → r = .ok (.stratus (byte (p.extractLsb' 12 19).toNat))))))

/-- What an address means: the windows and the checks before an access, the walk of the page table, and the checks of its leaf. -/
def Obligations.AddressesAndTranslation : Prop := Claim.AddressChecks ∧ Claim.PageWalk ∧ Claim.Translation

/-- `ld`, `spld` and `xlp` (R212, R217, R220): a fault of a check traps; else, when nothing makes it wait, the instruction completes; what
it has read, the value of the type with a scratchpad word's tail, or the image's word and tail, or the translation's answer, is in
flight to its destination; its path's counter has risen; no memory and no register has changed. -/
def Claim.Loads : Prop :=
  ∀ (f : MForm) (s : State), Quiet s →
    let e := s.g.execLanes f.g
    let sent := fun (i : Instr) (d : LoadDst) (path : Option Path) (bad : Bool) => ∃ t p, exec i s = .next t ∧ MemFrame i s t ∧ MemoryKept s t ∧
      RecordKept s t ∧ KeepsFp s t ∧ t.g.acks = s.g.acks ∧ t.g.loads = s.g.loads ++ [p] ∧ p.dst = d ∧ p.path = path ∧
      p.bad.isSome = bad ∧ t.g.inflight = s.g.inflight.raise path.toList
    (let n := f.ty.size
     Readable s e (f.d.vecOp f.ty.is64 ++ f.a.vecOp true) →
     Checked (.ld f) s (s.memCheck f { acc := 0, size := n, user := !s.g.mode, record := true } (s.perLane f false (!f.d.isScal)) noExtra)
       fun ls =>
         let path := if ls.any (fun l => l.loc.counted) then some Path.ldg else none
         Accesses (.ld f) s ls n false path.toList (sent (.ld f) (s.g.loadDst f.g f.d f.ty (ls.map fun l =>
           (l.lane, ldValue f.ty (s.readLoc s.g f.nol1 l.loc n).1 (s.readLoc s.g f.nol1 l.loc n).2))) path (badByteBy (s.loadBad s.g f.nol1) n ls).isSome)) ∧
    (let vec := !f.d.isScal
     let n := if vec then 8 else 16
     Readable s e (f.d.vecOp false ++ f.a.vecOp true) →
     Checked (.spld f) s (s.memCheck f { acc := 4, size := n, user := !s.g.mode } (s.perLane f false vec) noExtra) fun ls =>
       let path := if ls = [] then none else some Path.spl
       Accesses (.spld f) s ls n false path.toList (sent (.spld f) (s.g.loadDst f.g f.d (if vec then .n32 else .n64) (ls.map fun l =>
         let m := (s.readLoc s.g f.nol1 l.loc n).1
         (l.lane, if vec then ⟨BitVec.ofNat 64 (m % 2 ^ 32), BitVec.ofNat 3 (m / 2 ^ 32)⟩ else ⟨BitVec.ofNat 64 m, BitVec.ofNat 3 (m / 2 ^ 64)⟩)))
         path (badByteBy (s.loadBad s.g f.nol1) n ls).isSome)) ∧
    (let plan := s.memPlan f (s.perLane f false (!f.d.isScal))
     let path := if plan = [] then none else some Path.ldg
     let ans := fun (q : Nat × DWord) => s.xlpValue (if q.1 = 96 then firstLane e else q.1) (!f.a.isVec) q.2
     Readable s e (f.d.vecOp true ++ f.a.vecOp true) → (∀ q ∈ plan, (ans q).isSome = true) →
     Accesses (.xlp f) s [] 0 false path.toList
       (sent (.xlp f) (s.g.loadDst f.g f.d .n64 (plan.map fun q => (q.1, ⟨(ans q).getD 0, 0⟩))) path (s.badByte 1 (s.xlpLost plan)).isSome))

/-- What a load reads and what it makes of it (R40, R207, R208, R212, R231): a byte of HBM comes from a line of the core's L1 that the
group may use, else, and always under `nol1`, from its home; the group may use a line that its context filled, or that was filled since
the context's last acquire on the core, and since its own. After a wait on an owned line it uses none, nor for a byte that it has read
past the line (log entry 79). Other bytes come from their home; a scratchpad word read whole brings its tail. A byte is uncorrectable
where it comes from. An integer is extended, f32 and f64 keep bits and tail, every other float is decoded from its memory encoding with
tail 0. -/
def Claim.LoadedValues : Prop :=
  (∀ (s : State) (g : Group) (nol1 : Bool) (l : Loc) (n : Nat),
    (∀ pa,
      let used := fun (w : Nat) => let x := s.l1Way g.core (pa / 128) w
        nol1 = false ∧ s.l1Find g.core (pa / 128) = some w ∧ (x.filler = g.asid ∨ (s.ctxCore g.core g.asid).acq ≤ x.order) ∧
          g.l1Floor ≤ x.order ∧ g.ownWait = false ∧ (pa, x.order) ∉ g.newer
      (∀ w, used w → s.loadByte g nol1 pa = (s.l1Way g.core (pa / 128) w).data.getD (pa % 128) 0 ∧
        ∀ j, l.hbmByte j = some pa → (s.loadBad g nol1 l j = true ↔ BadCell.l1 g.core pa (s.l1Way g.core (pa / 128) w).order ∈ s.poison)) ∧
      ((∀ w, ¬ used w) → s.loadByte g nol1 pa = s.hbm.byte pa ∧
        ∀ j, l.hbmByte j = some pa → (s.loadBad g nol1 l j = true ↔ BadCell.hbm pa ∈ s.poison))) ∧
    ((∀ j a, l.hbmByte j = some a → s.loadByte g nol1 a = s.hbm.byte a) → (s.readLoc g nol1 l n).1 = s.readHome g l n) ∧
    (s.readLoc g nol1 l n).2 = match l with | .scratch c b => if n = 4 ∨ n = 8 then (s.sword c b).tail else 0 | _ => 0) ∧
  ∀ (t : Ty) (m : Nat) (tail : Tail),
    (t.isFlt = false → ldValue t m tail = ⟨t.ofInt (t.toInt (BitVec.ofNat 64 m)), 0⟩) ∧
    (t = .f32 ∨ t = .f64 → ldValue t m tail = ⟨BitVec.ofNat 64 m, tail⟩) ∧
    (t = .f4 → ldValue t m tail = ⟨valBits t (decodeMem t (m % 16)), 0⟩) ∧
    (t ∈ [.f16, .bf16, .f8e4, .f8e5] → ldValue t m tail = ⟨valBits t (decodeMem t m), 0⟩)

/-- LOAD_DATA_RETURN (R31, R51, R85, R212, R261): unless matrix operations or older writes hold it back, the oldest read of a group writes
its destination, in the lanes and through the view of its issue, and lowers its path's counter; a read whose data is lost writes nothing
and leaves its loss at the destination. WRITE_ACKNOWLEDGE lowers the counters of the oldest write that may go (R211), and tells the group what
of it has become unknown; while none may go, the oldest one that has not yet completes at its home. The group has not ended. -/
def Claim.AccessesComplete : Prop :=
  ∀ (s : State) (k : Nat), Unwatched s k → (s.group k).ended = false →
    let g := s.group k
    (∀ p rest, g.loads = p :: rest →
      let held := p.dst.places.any (s.mxWriteWaits k) = true ∨ (p.path = some .spl ∧ g.ackBefore .spl p.serial = true)
      let usable := g.aLen = 0 ∨ ((s.team g.team).mxHolds = true ∧ (s.team g.team).mxLost = false)
      (held → exec (.loadDataReturn k) s = .next s) ∧
      (¬ held → ∃ t, exec (.loadDataReturn k) s = .next t ∧ MemoryKept s t ∧ (t.group k).loads = rest ∧
        (t.group k).inflight = g.inflight.lower p.path.toList ∧ (t.group k).pc = g.pc ∧ (∀ j, j ≠ k → t.group j = s.group j) ∧
        (∀ n v, p.bad = none → p.dst = .scal n v → 0 < n → n < 61 → (t.group k).sreg n = v) ∧
        (∀ gd ty n vals, p.bad = none → p.dst = g.loadDst gd (.vec n) ty vals → usable →
          ((vals.map Prod.fst).Nodup → (∀ q ∈ vals, q.1 < 96) →
            ∀ q ∈ vals, State.vval { t with cur := k } n.toNat ty.is64 q.1 = shown ty.is64 q.2) ∧
          ∀ v, vals = [(96, v)] → ∀ i, i < 96 → (g.execLanes gd).getLsbD i = true →
            State.vval { t with cur := k } n.toNat ty.is64 i = shown ty.is64 v) ∧
        (∀ b, p.bad = some b → (t.group k).scal = g.scal ∧ (t.group k).regs = g.regs ∧ t.accum = s.accum ∧
          (∀ n v, p.dst = .scal n v → ⟨.scal n, b.1, b.2.1, b.2.2⟩ ∈ (t.group k).lost) ∧
          (∀ l, p.dst = .words l → ∀ q ∈ l, ⟨.word q.1, b.1, b.2.1, b.2.2⟩ ∈ (t.group k).lost) ∧
          (∀ q, p.path = some q → ⟨.path q, b.1, b.2.1, b.2.2⟩ ∈ (t.group k).lost)))) ∧
    (∀ a rest, g.acks = a :: rest → s.ackFree k a = true →
      exec (.writeAcknowledge k) s = .next (s.putGroup k { g with
        acks := rest, inflight := g.inflight.lower a.paths, lost := g.lost ++ a.lose })) ∧
    ((∀ a ∈ g.acks, s.ackFree k a = false) →
      ((∀ a ∈ g.acks, a.home = true) → exec (.writeAcknowledge k) s = .next s) ∧
      ∀ pre a post, g.acks = pre ++ a :: post → (∀ b ∈ pre, b.home = true) → a.home = false → a ∉ post →
        exec (.writeAcknowledge k) s = .next (s.putGroup k { g with acks := pre ++ { a with home := true } :: post }))

/-- Loads, and the events that complete accesses. -/
def Obligations.LoadsAndCompletion : Prop := Claim.Loads ∧ Claim.LoadedValues ∧ Claim.AccessesComplete

/-- `st` and `spst` (R213, R214, R217): a fault of a check traps; else, when nothing makes it wait, the instruction completes; the bytes
of each lane's location, in HBM, on a stack, in scratchpad, host or peer memory, hold the lane's data unless a later lane writes them
too; no byte outside the locations changes; a store outside scratchpad is counted until it is acknowledged; a store that settles
ORs its lane's flags into FPC, and DIX advances in user mode when one settles stochastically. -/
def Claim.Stores : Prop :=
  ∀ (f : MForm) (s : State), Quiet s →
    let e := s.g.execLanes f.g
    let stored := fun (i : Instr) (n : Nat) (ls : List LaneLoc) (paths : List Path) (data : LaneLoc → Nat × Tail × Flags) =>
      ∃ t, exec i s = .next t ∧ MemFrame i s t ∧ Stored s t n (ls.map fun l => (l.loc, (data l).1, (data l).2.1)) ∧
        t.g.inflight = s.g.inflight.raise paths ∧ t.g.loads = s.g.loads ∧ ((∀ l ∈ ls, ∀ o, l.loc ≠ .record o) → RecordKept s t) ∧
        (t.g.dix = if s.g.mode = false ∧ i = .st f ∧ (∃ l ∈ ls, storeSettles f.ty l.loc = true ∧ s.effModeM f l.lane = 5 ∧ (l.lane ≠ 96 ∨ e ≠ 0))
          then s.g.dix + 1 else s.g.dix) ∧
        ∀ j, t.g.fpcOf j = s.g.fpcOf j |||
          ((ls.foldl (fun x l => if s.fpLane f.g l.lane = j then x ||| (data l).2.2 else x) 0).setWidth 32 <<< 5)
    (let n := f.ty.size
     Readable s e (f.a.vecOp true ++ f.b.vecOp f.ty.is64) →
     Checked (.st f) s (s.memCheck f { acc := 1, size := n, write := true, user := !s.g.mode, record := true } (s.perLane f f.b.isVec false)
       (s.storeExtra f)) fun ls =>
         let paths := if ls.any (fun l => l.loc.counted) then [Path.stg] else []
         Accesses (.st f) s ls n true paths (stored (.st f) n ls paths (s.storeData f))) ∧
    (let n := if f.b.isVec then 8 else 16
     Readable s e (f.a.vecOp true ++ f.b.vecOp false) →
     Checked (.spst f) s (s.memCheck f { acc := 4, size := n, write := true, user := !s.g.mode } (s.perLane f f.b.isVec false) noExtra) fun ls =>
       let paths := if ls = [] then [] else [Path.spl]
       Accesses (.spst f) s ls n true paths (stored (.spst f) n ls paths (fun l => (match f.b with
         | .vec _ _ => (s.rdSrc .n32 f.b l.lane).val.toNat % 2 ^ 32 + (s.rdSrc .n32 f.b l.lane).tail.toNat * 2 ^ 32
         | _ => (s.rdSrc .n64 f.b l.lane).val.toNat + (s.rdSrc .n64 f.b l.lane).tail.toNat * 2 ^ 64, 0, 0))))

/-- What `st` writes for a lane (R213): an integer's low bytes, a scratchpad word's with the tail; a float whose word goes to scratchpad
whole keeps its bits and its tail; every other float is settled by the lane's mode and encoded. That an f32 or f64 NaN moves unchanged and
raises no flag, where R213 settles, is the model's reading of the last sentence of R131 (log entry 50). -/
def Claim.StoredData : Prop :=
  ∀ (f : MForm) (s : State) (l : LaneLoc),
    let w := s.rdSrc f.ty f.b l.lane
    let inScratch := ∃ c b, l.loc = .scratch c b
    let word := w.val.toNat % 256 ^ f.ty.size
    (f.ty.isFlt = false → (inScratch ∧ 4 ≤ f.ty.size → s.storeData f l = (word, w.tail, 0)) ∧
      (¬ (inScratch ∧ 4 ≤ f.ty.size) → s.storeData f l = (word, 0, 0))) ∧
    (f.ty.isFlt = true → inScratch → 4 ≤ f.ty.size → s.storeData f l = (word, w.tail, 0)) ∧
    (f.ty.isFlt = true → ¬ (inScratch ∧ 4 ≤ f.ty.size) →
      let v := readFloat f.ty w.val
      let m := s.effModeM f l.lane
      let r := finalRound f.ty m (if m = 5 then s.rho l.lane 0 else 0) (fpcFtz (s.fpcAt f.g l.lane)) false (w.tail.getLsbD 0)
        (tailedVal f.ty v w.tail)
      s.storeData f l = if v.isNan ∧ (f.ty = .f32 ∨ f.ty = .f64) then (w.val.toNat, 0, 0) else (encodeMem f.ty r.1, 0, r.2))

/-- Stores, and the bytes that they leave. -/
def Obligations.StoresAndData : Prop := Claim.Stores ∧ Claim.StoredData

/-- `atom` and `red` (R196, R211, R215, R216): a fault of a check traps; else, when nothing makes it wait, the instruction completes. The
lanes act in ascending order, each on what the lower lanes have left at its location, in HBM, on a stack, in scratchpad, host or peer
memory or in the stack record; the old values are in flight to the destination of `atom`, the last results stand at the locations, and
nothing else changes. In deterministic mode a float one on global memory goes to the deferral area instead, and answers the canonical
NaN. Locations that meet are equal, hosts are up, and no location lies behind an entry that cannot be read. -/
def Claim.Atomics : Prop :=
  ∀ (f : MForm) (s : State), Quiet s →
    let n := f.ty.size
    let e := s.g.execLanes f.g
    let op := fun (l : LaneLoc) => (s.atomOp f l.lane).apply
    let put := fun (l : LaneLoc) => s.det && decide (9 ≤ f.fn.toNat) && l.loc.isGlobal
    let after := fun (lower : List LaneLoc) (l : LaneLoc) =>
      (lower.filter fun q => q.loc = l.loc).foldl (fun m q => op q m) (s.readHome s.g l.loc n)
    let value := fun (m : Nat) => if f.ty.isFlt then BitVec.ofNat 64 m else f.ty.ofInt (f.ty.toInt (BitVec.ofNat 64 m))
    let common := fun (i : Instr) (ls : List LaneLoc) (t : State) => exec i s = .next t ∧ MemFrame i s t ∧
      OnlyStores s t ((ls.filter fun l => !put l).map fun l => l.loc) n ∧ ((∀ l ∈ ls, ∀ o, l.loc ≠ .record o) → RecordKept s t) ∧
      t.g.deferred = (s.g.deferred || s.g.groupExec f.g) ∧ (∀ j, t.g.fpcOf j = s.g.fpcOf j) ∧
      t.g.dix = (if s.atomDraws f ls && !s.g.mode then s.g.dix + 1 else s.g.dix) ∧
      t.deferred = s.deferred ++ (ls.filter put).map (fun l => s.deferEntry l (s.atomOp f l.lane)) ∧
      ∀ l ∈ ls, put l = false → Holds t s.cur l.loc n (after (ls.filter fun l => !put l) l) 0
    let fair := fun (ls : List LaneLoc) => (∀ l ∈ ls, HostUp s l.loc n ∧ l.loc ≠ .lost ∧ (∀ c b, l.loc = .scratch c b → InWords b n)) ∧
      ls.Pairwise fun l m => l.loc = m.loc ∨ NoShare l.loc m.loc n
    let counted := fun (ls : List LaneLoc) => ls.any fun l => match l.loc with | .scratch _ _ => false | _ => true
    ((Instr.atom f).wf = true → Readable s e (f.d.vecOp f.ty.is64 ++ f.a.vecOp true ++ f.b.vecOp f.ty.is64) →
      Checked (.atom f) s (s.memCheck f (s.atomAccess f (f.fn = 0 || f.fn = 7))
        (s.perLane f (f.b.isVec || f.fn = 7 && !f.d.isScal) (!f.d.isScal)) (s.atomExtra f true)) fun ls =>
          let path := if counted ls then some Path.ldg else none
          let now := ls.filter fun l => !put l
          Accesses (.atom f) s ls n true path.toList (fair ls → ∃ t p, common (.atom f) ls t ∧ t.g.acks = s.g.acks ∧
            t.g.inflight = s.g.inflight.raise path.toList ∧ t.g.loads = s.g.loads ++ [p] ∧ p.path = path ∧
            p.dst = s.g.loadDst f.g f.d f.ty ((now.mapIdx fun k l => (l.lane, (⟨value (after (now.take k) l), 0⟩ : TVal))) ++
              (ls.filter put).map fun l => (l.lane, ⟨value (nanBits f.ty).toNat, 0⟩)))) ∧
    ((Instr.red f).wf = true → Readable s e (f.a.vecOp true ++ f.b.vecOp f.ty.is64) →
      Checked (.red f) s (s.memCheck f (s.atomAccess f false) (s.perLane f f.b.isVec false) (s.atomExtra f false)) fun ls =>
        let paths := if counted ls then [Path.stg] else []
        Accesses (.red f) s ls n true paths (fair ls → ∃ t, common (.red f) ls t ∧ t.g.loads = s.g.loads ∧
          t.g.inflight = s.g.inflight.raise paths))

/-- The functions of the atomics (R215): add, min and max by the signedness of the type, and, or, exclusive or, exchange and
compare-and-swap; a float addition is exact and rounded once into the memory encoding, and the float minimum and maximum take the
number beside a NaN. -/
def Claim.AtomicFunctions : Prop :=
  ∀ (o : AtomOp) (m : Nat), m < 256 ^ o.ty.size → o.b < 256 ^ o.ty.size →
    let x := o.ty.toInt (BitVec.ofNat 64 m)
    let y := o.ty.toInt (BitVec.ofNat 64 o.b)
    let u := decodeMem o.ty m
    let v := decodeMem o.ty o.b
    (o.fn = 0 → o.apply m = (m + o.b) % 256 ^ o.ty.size) ∧
    (o.ty.isInt = true → o.fn = 1 → o.ty.toInt (BitVec.ofNat 64 (o.apply m)) = min x y) ∧
    (o.ty.isInt = true → o.fn = 2 → o.ty.toInt (BitVec.ofNat 64 (o.apply m)) = max x y) ∧
    (o.fn = 3 → o.apply m = m &&& o.b) ∧ (o.fn = 4 → o.apply m = m ||| o.b) ∧ (o.fn = 5 → o.apply m = m ^^^ o.b) ∧
    (o.fn = 6 → o.apply m = o.b) ∧ (o.fn = 7 → o.apply m = if m = o.cmp then o.b else m) ∧
    (o.fn = 9 → o.apply m = encodeMem o.ty (finalRound o.ty o.mode o.draw o.ftz false false
      (addVal (o.mode == 3) (dazVal o.daz o.ty u) (dazVal o.daz o.ty v)).1).1) ∧
    (o.fn = 10 → o.apply m = encodeMem o.ty (minMaxVal false 1 false false u v)) ∧
    (o.fn = 11 → o.apply m = encodeMem o.ty (minMaxVal true 1 false false u v))

/-- Atomic accesses and their functions. -/
def Obligations.AtomicAccesses : Prop := Claim.Atomics ∧ Claim.AtomicFunctions

/-- The cache and ordering instructions (R208, R210, R218, R219, R231, R234, R237): `prf`, `cinv.line` and `cinv.all` change cached lines,
translations and their counters only. `prf` waits while an engine owns a line that it names; with the suffix .l1 it then fills the lines
that miss, and no other, from their home into ways of WAYMASK, as lines of its context; a line alone is there afterwards. `cinv.line`
removes the named lines and adds none, and `cinv.all` removes exactly those of the core that the context filled. A `fence` waits while the
group's earlier reads, or for a release its writes, are outstanding, and then completes with its acquire: the group's loads hit no line
filled before; at cluster scope or wider, and for a pair team, every line that its context filled on the core goes. -/
def Obligations.CachesAndFences : Prop :=
  ∀ (f : MForm) (s : State), Quiet s →
    (Readable s (s.g.execLanes f.g) (f.a.vecOp true) →
      (let ls := s.softLines f
       let core := s.g.core
       let wanted := fun (line : Nat) => f.fn = 0 ∧ f.nol1 = false ∧ s.l1Hit s.g (128 * line) = false ∧
         ∃ l ∈ ls, ∃ pa, l.loc.hbmByte 0 = some pa ∧ pa / 128 = line
       (s.lanesOwned ls 1 false = true → WaitsOwned (.prf f) s) ∧
       (s.lanesOwned ls 1 false = false → ∃ x, Falls (.prf f) s x ∧
         x = { s with l1 := x.l1, l1Ctr := x.l1Ctr, tlb := x.tlb, l1tlb := x.l1tlb, walks := x.walks, counts := x.counts } ∧
         (∀ k v, (k, v) ∈ x.l1 → (k, v) ∈ s.l1 ∨ (wanted v.line ∧ v.data = s.hbm.bytes (v.line * 128) 128 ∧ v.filler = s.g.asid ∧
           k / 1024 = core ∧ (s.waysOf s.g).getLsbD (k % 16) = true)) ∧
         ((∀ line, ¬ wanted line) → x.l1 = s.l1) ∧
         ∀ line, wanted line → (∀ l, wanted l → l = line) → s.waysOf s.g ≠ 0 → s.badLine line = false → s.l1Find core line = none →
           ∃ w, x.l1Find core line = some w ∧ (x.l1Way core line w).data = s.hbm.bytes (line * 128) 128)) ∧
      (∃ x, Falls (.cinvLine f) s x ∧ x = { s with l1 := x.l1 } ∧
        (∀ k v, (k, v) ∈ x.l1 → (k, v) ∈ s.l1) ∧
        ∀ l ∈ s.softLines f, ∀ pa, l.loc.hbmByte 0 = some pa →
          let holds := fun w => w < 16 ∧ (s.l1Way s.g.core (pa / 128) w).data ≠ [] ∧ (s.l1Way s.g.core (pa / 128) w).line = pa / 128
          (∀ w w', holds w → holds w' → w = w') → x.l1Find s.g.core (pa / 128) = none)) ∧
    (s.g.groupExec f.g = false → Falls (.cinvAll f) s s ∧ Falls (.fence f) s s) ∧
    (s.g.groupExec f.g = true →
      (∃ x, Falls (.cinvAll f) s x ∧ x = { s with l1 := x.l1 } ∧
        ∀ p, p ∈ x.l1 ↔ p ∈ s.l1 ∧ ¬ (p.1 / 1024 = s.g.core ∧ p.2.filler = s.g.asid)) ∧
      let waits := s.g.loads ≠ [] ∨ ((f.order = .release ∨ f.order = .acqrel) ∧ ∃ a ∈ s.g.acks, a.home = false)
      (waits → Waits (.fence f) s s 9) ∧
      (¬ waits → (f.order = .acquire ∨ f.order = .acqrel) → ∃ x, Falls (.fence f) s x ∧ x.g.l1Floor = s.l1Ctr + 1 ∧ MemoryKept s x ∧
        (f.scope = .team ∧ s.t.pair = false → x.l1 = s.l1) ∧
        (f.scope ≠ .team ∨ s.t.pair = true → (x.ctxCore s.g.core s.g.asid).acq = s.l1Ctr + 1 ∧
          ∀ p, p ∈ x.l1 ↔ p ∈ s.l1 ∧ ¬ (p.1 / 1024 = s.g.core ∧ p.2.filler = s.g.asid))) ∧
      (¬ waits → f.order = .plain ∨ f.order = .release → Falls (.fence f) s s))

/-- `tlbi` and `ggen` (R221, R222): PRIVILEGE in user mode; an operand with undefined bits faults RESERVED; in supervisor mode the command
of a `tlbi` is queued on the group's die, STG rises and the group goes on, waiting first for a place among 64 (17) and in its counter (15);
`ggen` is queued and holds the group until its generation is complete. No other group, register or byte changes. -/
def Claim.TranslationControl : Prop :=
  ∀ (f : VForm) (s : State), Quiet s →
    let all := [Instr.tlbiRange f, .tlbiAsid f, .ggen f]
    (s.g.mode = false → ∀ i ∈ all, Traps i s .privilege 0 (.generic 0) s.g.mask) ∧
    (s.g.mode = true → s.g.groupExec f.g = true →
      let a := s.s64 f.a
      let die := s.g.core / 64
      let full := 64 ≤ (s.tlbis.filter fun c => c.die == die).length
      let legal := a.toNat < 2 ^ 19 ∧ (a.extractLsb' 16 3).toNat ≤ 4
      (∀ r ∈ [(Instr.tlbiRange f, false), (.tlbiAsid f, true)],
        (¬ legal → Traps r.1 s .reserved 0 (.generic 0) (s.g.execLanes f.g)) ∧
        (legal → full → Waits r.1 s s 17) ∧
        (legal → ¬ full → s.g.counterFull [.stg] = true → Waits r.1 s s 15) ∧
        (legal → ¬ full → s.g.counterFull [.stg] = false → ∃ x c, Falls r.1 s x ∧
          x = { s with groups := x.groups, counts := x.counts, tlbis := s.tlbis ++ [c] } ∧ OthersKept s x ∧
          x.g = { s.g with inflight := s.g.inflight.raise [.stg] } ∧ c.grp = s.cur ∧ c.die = die ∧ c.asid = a.extractLsb' 0 16 ∧
          c.hint = (a.extractLsb' 16 3).toNat ∧ c.all = r.2 ∧ c.lo = (s.s64 f.b).toNat % 2 ^ 57 ∧ c.len = (s.s64 f.c).toNat ∧ c.swept = none)) ∧
      (2 ^ 16 ≤ a.toNat → Traps (.ggen f) s .reserved 0 (.generic 0) (s.g.execLanes f.g)) ∧
      (a.toNat < 2 ^ 16 → ∃ x, Falls (.ggen f) s x ∧ OthersKept s x ∧ x.g = { s.g with waiting := .ggen } ∧
        x = { s with groups := x.groups, counts := x.counts, ggens := s.ggens ++ [{ grp := s.cur, asid := a.setWidth 16, dst := f.d.scalNum }] })) ∧
    (s.g.mode = true → s.g.groupExec f.g = false → ∀ i ∈ all, Falls i s s)

/-- The events of translation (R202, R204, R221, R222): after TRANSLATION_WALK every die whose walk of the address ends at a leaf holds that
translation, and one whose walk ends in a fault caches nothing; nothing else changes. TLBI_COMPLETE first removes exactly the entries that
the oldest command of the group names, from every TLB and walk cache, and completes, lowering STG, once every access that used one has
completed and older writes are acknowledged. GGEN_COMPLETE raises the generation and delivers it; a generation that wraps to 0 first
removes the ASID's entries and waits for their uses. -/
def Claim.TranslationEvents : Prop :=
  ∀ (s : State) (k : Nat) (asid : BitVec 16) (va : DWord),
    (∃ t, exec (.translationWalk asid va) s = .next t ∧ t = { s with tlb := t.tlb, walks := t.walks } ∧
      ∀ d, d < 4 →
        let walk := s.walkAt va (s.walkFrom d asid va).1 (s.walkFrom d asid va).2
        (∀ e, s.tlbHit s.tlb d asid va = some e → e ∈ t.tlb) ∧
        (s.tlbHit s.tlb d asid va = none → ∀ leaf level, walk = some (.ok (leaf, level)) →
          let shift := if leaf.getLsbD 9 then 16 else 12 + 9 * level
          (⟨d, asid, (s.ctx asid).gen, shift, va.toNat % 2 ^ 57 / 2 ^ shift, leaf, level⟩ : TlbEntry) ∈ t.tlb) ∧
        ((∀ l, walk ≠ some (.ok l)) → ∀ e ∈ t.tlb, e.unit = d → e ∈ s.tlb)) ∧
    ((s.group k).ended = false → ∀ c, s.tlbis.find? (fun c => c.grp == k) = some c →
      let n := c.swept.getD s.clock
      let pending := s.usesOf c n = true ∨ (s.group k).ackBefore .stg c.serial = true
      ∃ t, exec (.tlbiComplete k) s = .next t ∧
        t = { s with groups := t.groups, tlbis := t.tlbis, tlb := t.tlb, l1tlb := t.l1tlb, walks := t.walks } ∧
        (c.swept = none → t.tlb = s.tlb.filter (fun e => !c.removes e) ∧ t.l1tlb = s.l1tlb.filter (fun e => !c.removes e) ∧
          t.walks = s.walks.filter (fun e => !c.removesWalk e)) ∧
        (c.swept ≠ none → t.tlb = s.tlb ∧ t.l1tlb = s.l1tlb ∧ t.walks = s.walks) ∧
        (pending → t.groups = s.groups ∧ { c with swept := some n } ∈ t.tlbis) ∧
        (¬ pending → t.tlbis = s.tlbis.erase c ∧ (∀ j, j ≠ k → t.group j = s.group j) ∧
          t.group k = { s.group k with inflight := (s.group k).inflight.lower [.stg] })) ∧
    (∀ c, s.ggens.find? (fun c => c.grp == k) = some c →
      let gen := (s.ctx c.asid).gen + 1
      let n := c.swept.getD s.clock
      let drains := gen = 0 ∧ s.usesOf c.removal n = true
      ∃ t, exec (.ggenComplete k) s = .next t ∧
        t = { s with groups := t.groups, ctxs := t.ctxs, ggens := t.ggens, tlb := t.tlb, l1tlb := t.l1tlb, walks := t.walks } ∧
        (gen = 0 → c.swept = none → ∀ e ∈ t.tlb ++ t.l1tlb, e.asid ≠ c.asid) ∧
        (drains → t.groups = s.groups ∧ t.ctx c.asid = s.ctx c.asid ∧ { c with swept := some n } ∈ t.ggens) ∧
        (¬ drains → (t.ctx c.asid).gen = gen ∧ (t.group k).waiting = .no ∧ t.ggens = s.ggens.erase c ∧
          (0 < c.dst → c.dst < 61 → (t.group k).sreg c.dst = ⟨gen.setWidth 64, 0⟩)))

/-- Invalidation of cached translations and generations, with the events that complete it. -/
def Obligations.TranslationInvalidation : Prop := Claim.TranslationControl ∧ Claim.TranslationEvents

/-- `stsig` (R239 to R242): a fault of a check, of the payload's addresses or then of the flag's, traps with nothing written; in
deterministic mode it faults DETERMINISM at the flag's address; when nothing makes it wait, the payload is written first, in lane order,
and then the flag, a store or an addition at its home, which sees the payload's bytes where they meet; nothing else changes, and STG
rises, with FAB when a target is a peer's. Without an executing lane it does nothing. -/
def Obligations.SignalStores : Prop :=
  ∀ (f : MForm) (s : State), Quiet s →
    let n := f.ty.size
    let e := s.g.execLanes f.g
    let ea := s.g.sval f.d.scalNum
    let v := (s.g.sval (f.d.scalNum + 1)).toNat % 2 ^ (8 * n)
    let acc : Access := if f.fn = 0 then { acc := 1, size := n, write := true, user := !s.g.mode }
      else { acc := 2, size := n, write := true, atomic := true, sys := f.scope == .system, user := !s.g.mode }
    Readable s e (f.a.vecOp true ++ f.b.vecOp f.ty.is64) →
    (s.g.groupExec f.g = false → Falls (.stsig f) s s) ∧
    (s.g.groupExec f.g = true →
      Checked (.stsig f) s (s.memCheck f { acc := 1, size := n, write := true, user := !s.g.mode } true noExtra) fun ls =>
      Checked (.stsig f) s (s.checkLanes s.g acc true (firstLane e) (some e) noExtra [(96, ea)]) fun fs =>
        ∀ flag, fs = [flag] →
          (s.det = true → Traps (.stsig f) s .determinism ea (.generic 0) e) ∧
          (s.det = false →
            let paths := Path.stg :: (if (flag :: ls).any fun l => (match l.loc with | .peer _ _ => true | _ => false) then [.fab] else [])
            Accesses (.stsig f) s (ls ++ [flag]) n true paths
              (∃ t u, exec (.stsig f) s = .next t ∧ MemFrame (.stsig f) s t ∧ KeepsFp s t ∧ t.g.loads = s.g.loads ∧
                t.g.inflight = s.g.inflight.raise paths ∧
                Stored s u n (ls.map fun l => (l.loc, (s.rdSrc f.ty f.b l.lane).val.toNat % 2 ^ (8 * n),
                  match l.loc with | .scratch _ _ => (s.rdSrc f.ty f.b l.lane).tail | _ => 0)) ∧
                Stored u t n [(flag.loc, if f.fn = 0 then v else (u.readHome u.g flag.loc n + v) % 2 ^ (8 * n), 0)])))
/-! ### Asynchronous copies and barriers (chapter 11) -/

/-- `ab.init` and `ab.inval` (R264 to R266, R269) on an aligned record of the team's scratchpad; a bad address faults, and a record that an
engine owns makes them wait. `ab.init` faults RESERVED for counts that are not legal, arms a disarmed record with its counts and the
team's groups, faults BARRIER_CLOBBER where it would overlap another record (the model's reading, log entry 42), and over an armed one
does nothing when the counts are the same and faults BARRIER_CLOBBER when they differ; only the destination of a matrix operation does not
make it wait (R292); `ab.inval` disarms a record and lets its waiters go on with 0. No other byte changes. -/
def Claim.BarrierRecords : Prop :=
  ∀ (f : VForm) (s : State), Quiet s →
    let e := s.g.execLanes f.g
    (s.g.groupExec f.g = false → Falls (.abInit f) s s ∧ Falls (.abInval f) s s) ∧
    (s.g.groupExec f.g = true →
      let w := (s.s64 f.b).toNat
      let n := w % 1024
      let bytes := s.n32 f.c
      let legal := w < 2 ^ 11 ∧ ¬ (n = 0 ∧ bytes = 0)
      let clob (i : Instr) := Traps i s .barrierClobber (s.s64 f.a) (.generic 0) e
      (Checks (.abInit f) s (s.scratchRec f 32 (s.s64 f.a)) fun r =>
        (¬ legal → Traps (.abInit f) s .reserved 0 (.generic 0) e) ∧
        (legal → s.armWaits r 32 = true → WaitsOwned (.abInit f) s) ∧
        (legal → s.armWaits r 32 = false →
          (s.armedAt r.1 r.2 = none → s.clobbers (.scratch r.1 r.2) 32 = true → clob (.abInit f)) ∧
          (s.armedAt r.1 r.2 = none → s.clobbers (.scratch r.1 r.2) 32 = false → FallsWith (.abInit f) s fun x =>
            x = { s with scratch := x.scratch, armed := x.armed } ∧ OnlyStores s x [.scratch r.1 r.2] 32 ∧ (x.armedAt r.1 r.2).isSome = true ∧
            x.readBar r.1 r.2 = { arm := true, phase := false, expected := n, pending := n, scope := decide (1024 ≤ w), overrun := false
                                  expBytes := bytes, pendBytes := bytes, gen := 0, await := s.aliveGroups s.g.team, ftag := 0 }) ∧
          ((s.armedAt r.1 r.2).isSome = true →
            let old := s.readBar r.1 r.2
            let same := old.expected = n ∧ old.expBytes = bytes ∧ old.scope = decide (1024 ≤ w)
            (same → Falls (.abInit f) s s) ∧ (¬ same → clob (.abInit f))))) ∧
      Checks (.abInval f) s (s.scratchRec f 32 (s.s64 f.a)) fun r =>
        (s.barOwned r = true → WaitsOwned (.abInval f) s) ∧
        (s.barOwned r = false → s.armedAt r.1 r.2 = none → Falls (.abInval f) s s) ∧
        (s.barOwned r = false → (s.armedAt r.1 r.2).isSome = true → s.g.waiting = .no → GroupsWf s → FallsWith (.abInval f) s fun x =>
          x = { s with scratch := x.scratch, armed := x.armed, groups := x.groups } ∧ OnlyStores s x [.scratch r.1 r.2] 32 ∧
          x.armedAt r.1 r.2 = none ∧ x.readBar r.1 r.2 = { s.readBar r.1 r.2 with arm := false } ∧
          ∀ k, x.group k = freed r.1 r.2 false (s.readBar r.1 r.2).acqScope (s.group k)))

/-- `ab.arrive` (R263, R267) on a record named by its window address or its handle: the parity before the arrival goes to the scalar;
of an armed record the pending count falls, the arriving group is awaited no more, the first arrival's tag is kept, and the arrival that
brings count and bytes to zero starts the next phase and lets the waiters go on with 1. Bad operands fault, and an owned record makes it
wait. -/
def Claim.BarrierArrivals : Prop :=
  ∀ (f : VForm) (s : State), Quiet s →
    (s.g.groupExec f.g = false → Falls (.abArrive f) s s) ∧
    (s.g.groupExec f.g = true → Checks (.abArrive f) s (s.barOperand f (s.s64 f.a)) fun r =>
      let n := s.n32 f.b
      let old := s.readBar r.1 r.2
      let left := old.pending - n
      let v : TVal := ⟨if old.phase then 1 else 0, 0⟩
      (¬ (1 ≤ n ∧ n ≤ 1023) → Traps (.abArrive f) s .reserved 0 (.generic 0) (s.g.execLanes f.g)) ∧
      (1 ≤ n → n ≤ 1023 → s.barOwned r = true → WaitsOwned (.abArrive f) s) ∧
      (1 ≤ n → n ≤ 1023 → s.barOwned r = false → s.g.waiting = .no → GroupsWf s →
        (s.armedAt r.1 r.2 = none → FallsWith (.abArrive f) s fun x =>
          x = { s with groups := x.groups, seqs := x.seqs } ∧ OthersKept s x ∧ SetsScal s x s.g f.d.scalNum v) ∧
        (∀ a, s.armedAt r.1 r.2 = some a → FallsWith (.abArrive f) s fun x =>
          let new := x.readBar r.1 r.2
          let mine : DWord := if a.team = s.g.team then (1 : DWord) <<< s.g.index else 0
          x = { logged s x with groups := x.groups, scratch := x.scratch, armed := x.armed } ∧ OnlyStores s x [.scratch r.1 r.2] 32 ∧
          SetsScal s x s.g f.d.scalNum v ∧
          new.arm = old.arm ∧ new.expected = old.expected ∧ new.expBytes = old.expBytes ∧ new.scope = old.scope ∧
          new.overrun = (old.overrun || decide (old.pending < n)) ∧
          (¬ (left = 0 ∧ old.pendBytes = 0) → OthersKept s x ∧ new.phase = old.phase ∧ new.gen = old.gen ∧ new.pending = left ∧
            new.pendBytes = old.pendBytes ∧ new.await = old.await &&& ~~~mine ∧
            new.ftag = if old.ftag = 0 then s.device ++ BitVec.ofNat 12 s.g.engine ++ (s.seqOf s.g.engine + 1) else old.ftag) ∧
          (left = 0 ∧ old.pendBytes = 0 → (∀ k, k ≠ s.cur → x.group k = freed r.1 r.2 true old.acqScope (s.group k)) ∧ new.phase = !old.phase ∧
            new.gen = (old.gen + 1) % 2 ^ 32 ∧ new.pending = old.expected ∧ new.pendBytes = old.expBytes ∧
            new.await = s.aliveGroups a.team ∧ new.ftag = 0))))

/-- `ab.wait` and `ab.try` (R231, R268, R270): a disarmed record answers 0, a phase that differs from the parity 1, with an acquire at team
scope, or at cluster scope for a record with SCOPE; a phase that has not completed makes `ab.wait` wait, its tag kept beside the record,
and `ab.try` answer 2, or false in a predicate. A group that the end of a phase or `ab.inval` has let go answers what that gave it,
whatever the record holds by now. Bad operands fault, and an owned record makes them wait. -/
def Claim.BarrierWaits : Prop :=
  ∀ (f : VForm) (s : State), Quiet s →
    (s.g.groupExec f.g = false → Falls (.abWait f) s s ∧ Falls (.abTry f) s s) ∧
    (s.g.groupExec f.g = true →
      let e := s.g.execLanes f.g
      let acquires := fun (done : Bool) (scope : Scope) (x : State) => x = { s with groups := x.groups, l1 := x.l1, ctxCores := x.ctxCores } ∧
        OthersKept s x ∧ (done = true → x.g.l1Floor = s.l1Ctr + 1) ∧ (done = false → x.g.l1Floor = s.g.l1Floor) ∧
        (done = false ∨ (scope = .team ∧ s.t.pair = false) → x.l1 = s.l1) ∧
        (done = true → scope = .cluster → ∀ p, p ∈ x.l1 ↔ p ∈ s.l1 ∧ ¬ (p.1 / 1024 = s.g.core ∧ p.2.filler = s.g.asid))
      let waited := fun (done : Bool) (scope : Scope) (x : State) => acquires done scope x ∧
        SetsScal s x { s.g with barDone := none, l1Floor := x.g.l1Floor, newer := x.g.newer } f.d.scalNum ⟨if done then 1 else 0, 0⟩
      (∀ d, s.g.barDone = some d → (d.pc = s.g.pc → FallsWith (.abWait f) s (waited d.result d.scope)) ∧
        (d.pc ≠ s.g.pc → Waits (.abWait f) s (s.setG { s.g with barDone := none }) 11)) ∧
      (∀ c a info m, s.barOperand f (s.s64 f.a) = .error (.trap c a info m) →
        (s.g.barDone = none → Traps (.abWait f) s c a info m) ∧ Traps (.abTry f) s c a info m) ∧
      ∀ r, s.barOperand f (s.s64 f.a) = .ok r →
      let scope : Scope := if (s.readBar r.1 r.2).scope then .cluster else .team
      (s.barOwned r = true → (s.g.barDone = none → WaitsOwned (.abWait f) s) ∧ WaitsOwned (.abTry f) s) ∧
      (s.barOwned r = false → ∀ res : Nat,
        (s.armedAt r.1 r.2 = none → res = 0) →
        ((s.armedAt r.1 r.2).isSome = true → res = if (s.readBar r.1 r.2).phase = (s.s64 f.b).getLsbD 0 then 2 else 1) →
        (s.g.barDone = none → res < 2 → FallsWith (.abWait f) s (waited (res == 1) scope)) ∧
        (s.g.barDone = none → res = 2 → WaitsWith (.abWait f) s 11 fun x =>
          x = { s with groups := x.groups, armed := x.armed } ∧ OthersKept s x ∧ x.g = { s.g with waiting := .abar r.1 r.2 } ∧
          ∃ a, x.armedAt r.1 r.2 = some a ∧ (s.cur, s.tagOf s.g.engine) ∈ a.waits) ∧
        FallsWith (.abTry f) s fun x => acquires (res == 1) scope x ∧
          x.g = { s.g with
            scal := x.g.scal, preds := x.g.preds, mask := x.g.mask, full := x.g.full, l1Floor := x.g.l1Floor, newer := x.g.newer } ∧
          (∀ n : Fin 64, f.d = .scal n → ScalSet s x n.val ⟨BitVec.ofNat 64 res, 0⟩ ∧ KeepsPreds s x) ∧
          (∀ n : Fin 32, f.d = .pred n → PredSet s x n.val e (if res = 1 then allLanes else 0) ∧ KeepsScals s x ∧ KeepsMask s x)))

/-- Barrier records: setting up, arriving, waiting. -/
def Obligations.Barriers : Prop := Claim.BarrierRecords ∧ Claim.BarrierArrivals ∧ Claim.BarrierWaits

/-- `wait.path`, `pcnt` and `stw` (R86, R207, R262, R271, R273, R354): a path above its limit makes the group wait; lost accumulators, a
loss of the path or the error of a collective over which a wait on FAB returns fault there; else the wait returns with its acquire. `pcnt`
reads the counter. `stw` gives the bank and die of a Stratus address, whether a refresh window is open, and one of two distances; those
are free values within the calendar's bounds (log entry 6). Of several losses of a path the oldest is raised (the model's reading, log
entry 44). -/
def Claim.PathWaits : Prop :=
  ∀ (f : VForm) (s : State), Quiet s →
    let p := pathOf (s.s64 f.a).toNat
    let count := s.g.inflight.get p
    let loss := s.g.lost.find? fun l => l.reg == .path p
    let failed := s.colls.find? fun c => c.status == 3 && c.lowered && !c.told && c.grp == s.cur && c.team == s.g.team
    let e := s.g.execLanes f.g
    (s.g.groupExec f.g = false → Falls (.waitPath f) s s ∧ Falls (.pcnt f) s s ∧ Falls (.stw f) s s) ∧
    (s.g.groupExec f.g = true →
      (min (s.n32 f.b) 1023 < count → Waits (.waitPath f) s s 9) ∧
      (count ≤ min (s.n32 f.b) 1023 →
        (p = .mtx → s.t.mxLost = true → Traps (.waitPath f) s .matrixLost 0 (.generic 0) e) ∧
        (¬ (p = .mtx ∧ s.t.mxLost = true) →
          (∀ l, loss = some l → Traps (.waitPath f) s l.code l.faddr (.raw l.finfo) e) ∧
          (loss = none → p = .fab → ∀ c, failed = some c → Traps (.waitPath f) s (c.code.getD .collMismatch) 0 (.raw c.finfo) e) ∧
          (loss = none → (p = .fab → failed = none) → FallsWith (.waitPath f) s fun x =>
            x = { s with groups := x.groups, l1 := x.l1, ctxCores := x.ctxCores } ∧ OthersKept s x ∧
            x.g = { s.g with l1Floor := x.g.l1Floor, newer := x.g.newer, cluBar := x.g.cluBar } ∧
            (p = .copy ∨ p = .mtx ∨ p = .fab → x.g.l1Floor = s.l1Ctr + 1) ∧
            (p = .ldg ∨ p = .stg ∨ p = .spl → x = s)))) ∧
      GivesScal (.pcnt f) s (nextPc (.pcnt f) s) f.d.scalNum ⟨BitVec.ofNat 64 count, 0⟩ ∧
      let o := (s.s64 f.a - (s.ctxCore s.g.core s.g.asid).apstr).toNat
      FallsWith (.stw f) s fun x => x = { s with groups := x.groups, freeCtr := x.freeCtr } ∧ OthersKept s x ∧
        ∃ v : DWord, SetsScal s x s.g f.d.scalNum ⟨v, 0⟩ ∧
          (0x80000000 ≤ o → v = BitVec.allOnes 64) ∧
          (o < 0x80000000 →
            v.extractLsb' 32 6 = BitVec.ofNat 6 (o / 8192) ∧ v.extractLsb' 38 2 = BitVec.ofNat 2 (o / 2 ^ 29) ∧
            v.getLsbD 40 = s.inRefresh (.stratus o) ∧
            (v.getLsbD 40 = true → v.extractLsb' 0 32 = 0 ∧ 1 ≤ (v.extractLsb' 41 23).toNat ∧ (v.extractLsb' 41 23).toNat ≤ 544) ∧
            (v.getLsbD 40 = false → v.extractLsb' 41 23 = 0 ∧ 1 ≤ (v.extractLsb' 0 32).toNat ∧ (v.extractLsb' 0 32).toNat ≤ 53856)))

/-- `tc.ld` and `tc.st` (R234, R244, R245, R251 to R255, R271): a bad record, tile or barrier faults, and a record that an engine owns, or
that lies in a bank in its refresh window, makes the instruction wait before it is read; a full queue of the engine or a full COPY counter
makes it wait. Else one command stands behind the others with the layout, origin, tile and barrier named; COPY rises by one, the tile is
owned, and of a `tc.st` every line of its destination that can be translated, and the group waits for acceptance. What is checked at the
issue, and what by the engine, is the model's reading (log entry 41). -/
def Claim.CopyCommands : Prop :=
  ∀ (f : VForm) (s : State), Quiet s → ∀ r ∈ [(Instr.tcLd f, false), (.tcSt f, true)],
    let ea := s.g.sval f.a.scalNum
    let tva := s.g.sval (f.a.scalNum + 1)
    (s.g.groupExec f.g = false → Falls r.1 s s) ∧
    (s.g.groupExec f.g = true → Checks r.1 s (s.layoutLoc f ea) fun loc =>
      (s.isOwned loc 64 false = true → WaitsOwned r.1 s) ∧
      (s.isOwned loc 64 false = false → s.inRefresh loc = true → Waits r.1 s s 16) ∧
      (s.isOwned loc 64 false = false → s.inRefresh loc = false → Checks r.1 s (s.recordLost f 64 ea loc) fun _ => Checks r.1 s (s.layoutAt f loc r.2) fun l =>
        Checks r.1 s (s.tileAt f tva l.tileBytes) fun tile => Checks r.1 s (s.cmdBar f) fun bar =>
        let room := (s.copies.filter fun c => c.core == s.g.core).length < Config.copyQueue
        let draws := r.2 = true ∧ s.narrowMode f l = 5 ∧ s.g.mode = false
        (¬ room → Waits r.1 s s 14) ∧
        (room → s.g.counterFull [.copy] = true → Waits r.1 s s 15) ∧
        (room → s.g.counterFull [.copy] = false → FallsWith r.1 s fun x => ∃ c : CopyCmd,
          x = { s with groups := x.groups, copies := s.copies ++ [c], owned := x.owned, cmdCtr := c.id } ∧ OthersKept s x ∧
          x.g = { s.g with
            inflight := s.g.inflight.raise [.copy], waiting := .accept, dix := if draws then s.g.dix + 1 else s.g.dix } ∧
          c.id = s.cmdCtr + 1 ∧ c.grp = s.cur ∧ c.store = r.2 ∧ c.lay = l ∧ c.origin = s.originOf f l ∧ c.tcore = tile.1 ∧
          c.tbyte = tile.2 ∧ c.bar = bar ∧ c.mode = s.narrowMode f l ∧ c.accepted = false ∧ c.stopped = none ∧
          ⟨c.id, r.2, some tile.1, tile.2, tile.2 + l.tileBytes⟩ ∈ x.owned ∧
          (r.2 = true → ∀ i j, i < l.rows → j < l.tl0 → c.inside i j = true → ∀ pa, s.tcSteer c 1 (c.elemAt i j).va = .ok (.hbm pa) →
            ⟨c.id, false, none, 128 * (pa / 128), 128 * (pa / 128 + 1)⟩ ∈ x.owned))))

/-- The granule order of a tile (R250): a row takes G granules of 128 bytes, the least power of two that holds its containers, and granule
g of row r lies at granule g XOR (r mod min(8, G)) of the row's part. So every byte of a row has a place of its own in the tile region. -/
def Claim.TilePlaces : Prop :=
  (∀ (l : Layout) (r j : Nat), let g := l.granules
    let bytes := l.tl0 * (if l.can = .c64 ∨ (l.can = .raw ∧ l.bits = 64) then 8 else 4)
    (∃ k, g = 2 ^ k ∧ bytes ≤ 128 * g ∧ (k = 0 ∨ 128 * 2 ^ (k - 1) < bytes)) ∧ l.pitch = 128 * g ∧ l.tileBytes = l.rows * l.pitch ∧
    l.place r j = r * l.pitch + 128 * (j / 128 ^^^ r % min 8 g) + j % 128) ∧
  ∀ (l : Layout) (r j r' j' : Nat), r < l.rows → j < l.pitch → r' < l.rows → j' < l.pitch →
    l.place r j < l.tileBytes ∧ l.place r j / l.pitch = r ∧ l.place r j % 128 = j % 128 ∧
    (l.place r j = l.place r' j' → r = r' ∧ j = j')

/-- What a finished `tc.ld` leaves in scratchpad (R250, R253): every container of the tile holds the expansion of its stored element,
or +0 with tail 0 outside the tensor and in the padding of a row. -/
def Claim.TileLoads : Prop :=
  ∀ (s t : State) (c : CopyCmd), c.store = false → c.tbyte % 128 = 0 → c.tbyte + c.lay.tileBytes ≤ 2 ^ 19 → s.tcRun c = (t, none) →
    let n := c.lay.contBytes
    ∀ r p, r < c.lay.rows → n * p < c.lay.pitch →
      (¬ (p < c.lay.tl0 ∧ c.inside r p = true) → t.container c r p = (0, 0)) ∧
      (p < c.lay.tl0 → c.inside r p = true → ∃ raw scale, s.readElem c (c.elemAt r p) = .ok (raw, scale) ∧
        t.container c r p = ((c.lay.expand raw scale).1 % 256 ^ n, (c.lay.expand raw scale).2))

/-- What `tc.ld` makes of a stored element (R247, R248, R249, R253), for the pairings of R247: raw and rns bits as they are; an integer's
residues; a float's value, times its block's scale, exactly, with tail 0, and f32k with its tail; a NaN, or a scale of 0xFF, is a NaN that
does not signal. A stored element is read where it lies: whole bytes, or one half of a byte, with its scale byte. -/
def Claim.ExpandedElements : Prop :=
  (∀ (l : Layout) (raw : Nat) (scale : Option Nat), raw < 2 ^ l.bits → l.can ∈ l.storage.canons →
    let x := l.expand raw scale
    let shows := fun (t : Ty) (v : FVal) => match v with
      | .nan _ => l.can.decode x.1 = .nan false
      | .inf n => l.can.decode x.1 = .inf n
      | .num m => ∃ y, l.can.decode x.1 = .num y ∧ y.neg = m.neg ∧ y.st = false ∧ t.isFlt = true ∧
        ∀ k : Int, k ≤ y.e → k ≤ m.e → y.scaled k = m.scaled k
    (l.storage = .raw ∨ l.storage = .rns → x = (raw, 0)) ∧
    (∀ signed, l.storage = .int signed →
      x = ((rnsEncode (if signed = true ∧ 2 ^ (l.bits - 1) ≤ raw then (raw : Int) - 2 ^ l.bits else raw)).toNat, 0)) ∧
    (∀ t, l.storage = .float t → x.2 = 0 ∧ shows t (decodeMem t raw)) ∧
    (∀ t k, l.storage = .block t → scale = some k → k < 256 → x.2 = 0 ∧
      (k = 255 → l.can.decode x.1 = .nan false) ∧ (k ≠ 255 → shows t ((decodeMem t raw).scale ((k : Int) - 127)))) ∧
    (l.storage = .f32k → x.2 = BitVec.ofNat 3 (raw / 2 ^ 32) ∧ shows .f32 (decodeMem .f32 (raw % 2 ^ 32)))) ∧
  ∀ (s : State) (c : CopyCmd) (a : ElemAt) (raw : Nat) (scale : Option Nat), s.readElem c a = .ok (raw, scale) →
    let n := if c.lay.bits = 4 then 1 else c.lay.bits / 8
    ∃ l, s.tcLoc c (max 1 n) a.va = .ok l ∧
      raw = (let v := s.homeValue l (max 1 n); if c.lay.bits = 4 then (if a.high then v / 16 else v % 16) else v) ∧
      match a.scale with
      | none => scale = none
      | some va => ∃ m, s.tcLoc c 1 va = .ok m ∧ scale = some (s.homeValue m 1)

/-- What `tc.st` makes of a container and its tail (R254): raw and rns bits as they are; a residue's integer, wrapped to the width or clamped
under SAT; an f32k image, of another encoding formed as f32 with the tail's sticky bit kept; a float settled with its tail in the storage
format, but a NaN unchanged where the encodings are one. A block's scale is 2^c, c from its largest magnitude less emax within −127 to
127, and every element is settled over it; in that magnitude a value counts with its tail at the quantum of its own encoding (log entry
106: the model's choice). -/
def Claim.NarrowedElements : Prop :=
  (∀ (l : Layout) (v : Nat) (tail : Tail) (mode rho : Nat),
    let y := l.narrow v tail mode rho
    let x := l.can.decode v
    (l.storage = .raw ∨ l.storage = .rns → y = v % 2 ^ l.bits) ∧
    (∀ signed, l.storage = .int signed → 0 < l.bits →
      let z := rnsDecode (BitVec.ofNat 64 v)
      let lo : Int := if signed then -(2 ^ (l.bits - 1)) else 0
      let hi : Int := if signed then 2 ^ (l.bits - 1) - 1 else 2 ^ l.bits - 1
      y < 2 ^ l.bits ∧ ((y : Int) - (if l.sat then (if z < lo then lo else if hi < z then hi else z) else z)) % 2 ^ l.bits = 0) ∧
    (l.storage = .f32k → l.can = .c32 → y = v % 2 ^ 32 + tail.toNat * 2 ^ 32) ∧
    (l.storage = .f32k → l.can ≠ .c32 →
      let r := formOut .f32 0 false false (gridTail l.can.grid x tail)
      y = r.v.toNat % 2 ^ 32 + (r.tail ||| (tail &&& 1)).toNat * 2 ^ 32) ∧
    (∀ t, l.storage = .float t →
      y = if x.isNan ∧ ((t = .f32 ∧ l.can = .c32) ∨ (t = .f64 ∧ l.can = .c64)) then v
        else encodeMem t (finalRound t mode rho false l.sat (tail.getLsbD 0) (tailedVal t x tail)).1)) ∧
  ∀ (t : Ty) (vs : List FVal),
    let emax : Int := if t = .f8e4 then 8 else if t = .f8e5 then 15 else 2
    ((∃ v ∈ vs, v.isNan = true) → blockScale t vs = none) ∧
    ((∀ v ∈ vs, v.isNan = false) → (∀ m, FVal.num m ∈ vs → m.isZero = true) → blockScale t vs = some (-127)) ∧
    ((∀ v ∈ vs, v.isNan = false) → ∀ m, FVal.num m ∈ vs → m.isZero = false →
      (∀ n, FVal.num n ∈ vs → n.isZero = false → n.log ≤ m.log) → blockScale t vs = some (max (-127) (min 127 (m.log - emax)))) ∧
    ∀ (sat : Bool) (mode rho : Nat) (tail : Tail) (v : FVal),
      blockElem t sat none mode rho tail v = (if t = .f4 then 0 else encodeMem t (.nan false)) ∧
      ∀ k : Int, blockElem t sat (some k) mode rho tail v =
        encodeMem t (finalRound t mode rho false sat (tail.getLsbD 0) (tailedVal t (v.scale (-k)) tail)).1

/-- What a finished `tc.st` leaves of formats of whole bytes without block scales (R254): every element in the tensor, at a place of its
own that no failed host holds, is its narrowed container, drawn under STO with the group's seed plus 3, the DIX of the issue and the
element's number; the scratchpad is as before. The tile does not overwrite the tables through which its addresses are translated. -/
def Claim.TileStores : Prop :=
  ∀ (s t : State) (c : CopyCmd), c.store = true → c.lay.isBlock = false → 8 ≤ c.lay.bits → s.tcRun c = (t, none) →
    let n := c.lay.bits / 8
    let at_ := fun (r p : Nat) (l : Loc) => s.tcSteer c n (c.elemAt r p).va = .ok l
    let moves := fun (r p : Nat) => r < c.lay.rows ∧ p < c.lay.tl0 ∧ c.inside r p = true
    t.scratch = s.scratch ∧
    ((∀ u : State, u = { s with hbm := u.hbm, stratus := u.stratus, host := u.host, peer := u.peer } →
      (∀ a, (∀ r p l, moves r p → at_ r p l → ∀ j, j < n → l.hbmByte j ≠ some a) → u.hbm.byte a = s.hbm.byte a) →
      ∀ r p, moves r p → u.tcSteer c n (c.elemAt r p).va = s.tcSteer c n (c.elemAt r p).va) →
    ∀ r p l, moves r p → at_ r p l → HostUp s l n →
      (∀ r' p' l', moves r' p' → (r', p') ≠ (r, p) → at_ r' p' l' →
        NoShare l l' n ∧ ∀ o o', l = .stratus o → l' = .stratus o' → o + n ≤ o' ∨ o' + n ≤ o) →
      let x := s.container c r p
      let rho := if c.mode = 5 then
          ((mix (c.seed + 3) c.dix (BitVec.ofNat 64 (c.elem + r * c.lay.tl0 + p))).extractLsb' 32 32).toNat else 0
      t.homeValue l n = c.lay.narrow x.1 x.2 c.mode rho % 256 ^ n)

/-- Where the elements of a tile lie, and what a tile load and a tile store move. -/
def Obligations.Tiles : Prop :=
  Claim.TilePlaces ∧ Claim.TileLoads ∧ Claim.ExpandedElements ∧ Claim.NarrowedElements ∧ Claim.TileStores

/-- `tc.ring` (R245, R257, R258): the record must be aligned in the team's scratchpad and not in use, the layout that it names must pass
the checks of a copy, its fields be legal (a STEP along dimension 0 of a block-scaled format must be a multiple of 32: log entry 107, the
model's choice) and its slots lie in the allocation; a record or layout that an engine owns (17), a layout in a bank's refresh window
(16), four active rings or a full queue of the core (14) or a full COPY counter (15) make it wait. Else a ring starts, with DONE and GIVEN
zero and its record guarded; a filling ring begins its first tile and owns its slot, unless a context switch holds it (R274). COPY rises
by one and the group waits for acceptance. That a tile owns its slot from when the slot is available is the model's choice (log entry 18).
-/
def Claim.RingStarts : Prop :=
  ∀ (f : VForm) (s : State), Quiet s → ∀ q ∈ [(Instr.tcRingFill f, false), (.tcRingDrain f, true)],
    let ea := s.s64 f.a
    let e := s.g.execLanes f.g
    (s.g.groupExec f.g = false → Falls q.1 s s) ∧
    (s.g.groupExec f.g = true → Checks q.1 s (s.scratchRec f 64 ea) fun r =>
      (s.clobbers (.scratch r.1 r.2) 64 = true → Traps q.1 s .barrierClobber ea (.generic 0) e) ∧
      (s.clobbers (.scratch r.1 r.2) 64 = false →
        (s.armWaits r 64 = true → WaitsOwned q.1 s) ∧
        (s.armWaits r 64 = false → Checks q.1 s (s.recordLost f 64 ea (.scratch r.1 r.2)) fun _ =>
          let lay : DWord := BitVec.ofNat 64 (s.ringWord r 0)
          let w1 := s.ringWord r 1
          let sbase := w1 % 2 ^ 32
          let pitch := 128 * (w1 / 2 ^ 32 % 2 ^ 16)
          Checks q.1 s (s.layoutLoc f lay) fun loc =>
          (s.isOwned loc 64 false = true → WaitsOwned q.1 s) ∧
          (s.isOwned loc 64 false = false → s.inRefresh loc = true → Waits q.1 s s 16) ∧
          (s.isOwned loc 64 false = false → s.inRefresh loc = false → Checks q.1 s (s.recordLost f 64 lay loc) fun _ => Checks q.1 s (s.layoutAt f loc q.2) fun l =>
            let w2 := s.ringWord r 2
            let fields := w1 / 2 ^ 58 % 2 ^ 6 = 0 ∧ sbase % 128 = 0 ∧ 1 ≤ w1 / 2 ^ 48 % 2 ^ 7 ∧ w1 / 2 ^ 48 % 2 ^ 7 ≤ 64 ∧
              w1 / 2 ^ 55 % 8 < l.ndim ∧ w2 / 2 ^ 32 % 2 ^ 32 ≤ 2 ^ 31 ∧ l.tileBytes ≤ pitch ∧
              (l.isBlock = true → w1 / 2 ^ 55 % 8 = 0 → w2 % 2 ^ 32 % 32 = 0)
            let slots := s.t.slotsOk sbase pitch (w1 / 2 ^ 48 % 2 ^ 7) l.tileBytes
            let four := 4 ≤ (s.rings.filter fun x => x.cmd.core == s.g.core).length ∨
              Config.copyQueue ≤ (s.copies.filter fun c => c.core == s.g.core).length
            (¬ fields → Traps q.1 s .reserved 0 (.generic 0) e) ∧
            (fields → slots = false → ∃ v, Traps q.1 s .protect ((s.ctxCore s.g.core s.g.asid).apscr + BitVec.ofNat 64 sbase) (.raw v) e) ∧
            (fields → slots = true → four → Waits q.1 s s 14) ∧
            (fields → slots = true → ¬ four → s.g.counterFull [.copy] = true → Waits q.1 s s 15) ∧
            (fields → slots = true → ¬ four → s.g.counterFull [.copy] = false → FallsWith q.1 s fun x => ∃ y ∈ x.rings,
              x = { s with groups := x.groups, scratch := x.scratch, armed := x.armed, counts := x.counts, cmdCtr := x.cmdCtr
                           owned := x.owned, rings := x.rings } ∧
              x.rings.length = s.rings.length + 1 ∧ (∀ z ∈ s.rings, z.cmd.id ≠ y.cmd.id → z ∈ x.rings) ∧
              OthersKept s x ∧ x.g = { s.g with
                inflight := s.g.inflight.raise [.copy], waiting := .accept,
                dix := if q.2 = true ∧ s.narrowMode f l = 5 ∧ s.g.mode = false then s.g.dix + 1 else s.g.dix } ∧
              OnlyStores s x [.scratch r.1 (r.2 + 0x18)] 16 ∧ x.ringDone r = 0 ∧ x.ringGiven r = 0 ∧
              x.ringWord r 4 = (if q.2 then 3 else 1) ∧ x.clobbers (.scratch r.1 r.2) 64 = true ∧
              y.rcore = r.1 ∧ y.rbyte = r.2 ∧ y.cmd.id = s.cmdCtr + 1 ∧ y.cmd.grp = s.cur ∧ y.cmd.store = q.2 ∧ y.cmd.lay = l ∧ y.next = 0 ∧
              y.count = w2 / 2 ^ 32 % 2 ^ 32 ∧ (q.2 = true → y.tile = 0) ∧
              (s.ringsHeld y.cmd = true → y.tile = 0) ∧
              (q.2 = false → s.ringsHeld y.cmd = false → ∃ c, x.ringCmd y = some c ∧ c.id = y.tile ∧ y.tile = s.cmdCtr + 2 ∧
                ⟨c.id, false, some c.tcore, c.tbyte, c.tbyte + l.tileBytes⟩ ∈ x.owned))))))

/-- `tc.stop`, `sl.take` and `sl.give` (R258 to R260) on an aligned ring record of the team's scratchpad: `tc.stop` does nothing to a record
that is not active; it marks a ring with a tile in flight, which then ends with that tile (`Claim.RingEvents`), and ends another at once,
once no engine owns its record; `sl.take`
answers the address of an available slot, with an acquire of a filled one, 0 when the ring has ended, or waits; `sl.give` raises GIVEN in
serial order, does nothing for a slot already given, or waits. -/
def Claim.RingUse : Prop :=
  ∀ (f : VForm) (s : State), Quiet s →
    (s.g.groupExec f.g = false → ∀ i ∈ [Instr.tcStop f, .slTake f, .slGive f], Falls i s s) ∧
    (s.g.groupExec f.g = true →
      (∀ i ∈ [Instr.tcStop f, .slTake f, .slGive f], ∀ c a info m, s.scratchRec f 64 (s.s64 f.a) = .error (.trap c a info m) →
        Traps i s c a info m) ∧
      ∀ r : Nat × Nat, s.scratchRec f 64 (s.s64 f.a) = .ok r →
      let n := s.n32 f.b
      let nslot := s.ringWord r 1 / 2 ^ 48 % 2 ^ 7
      let drain := (s.ringWord r 4).testBit 1
      let lim := if drain then s.ringDone r + nslot else s.ringDone r
      (s.ringAt r = none → Falls (.tcStop f) s s) ∧
      (∀ y, s.ringAt r = some y → y.tile ≠ 0 → FallsWith (.tcStop f) s fun x =>
        x = { s with rings := x.rings } ∧ { y with stopping := true } ∈ x.rings ∧ x.rings.length = s.rings.length) ∧
      (∀ y, s.ringAt r = some y → y.tile = 0 →
        (s.isOwned (.scratch r.1 r.2) 64 true = true → WaitsOwned (.tcStop f) s) ∧
        (s.isOwned (.scratch r.1 r.2) 64 true = false → FallsWith (.tcStop f) s fun x =>
          x.rings = s.rings.erase y ∧ OnlyStores s x [.scratch r.1 (r.2 + 0x20)] 8 ∧ x.ringWord r 4 = (if y.cmd.store then 6 else 4) ∧
          x.owned = s.owned.filter (fun o => o.cmd != 0) ∧ CopyFalls s x y.cmd.grp y.cmd.id s.copies (s.rings.erase y))) ∧
      (s.isOwned (.scratch r.1 r.2) 64 false = true → WaitsOwned (.slTake f) s) ∧
      (s.isOwned (.scratch r.1 r.2) 64 false = false →
        (serialLt n lim = true → FallsWith (.slTake f) s fun x =>
          x = { s with groups := x.groups, l1 := x.l1, ctxCores := x.ctxCores } ∧ OthersKept s x ∧
          (drain = false → x.g.l1Floor = s.l1Ctr + 1) ∧
          SetsScal s x { s.g with l1Floor := x.g.l1Floor, newer := x.g.newer } f.d.scalNum ⟨(s.ctxCore s.g.core s.g.asid).apscr +
            BitVec.ofNat 64 (s.ringWord r 1 % 2 ^ 32 + n % nslot * (128 * (s.ringWord r 1 / 2 ^ 32 % 2 ^ 16))), 0⟩) ∧
        (serialLt n lim = false → s.ringAt r = none → GivesScal (.slTake f) s (nextPc (.slTake f) s) f.d.scalNum ⟨0, 0⟩) ∧
        (serialLt n lim = false → (s.ringAt r).isSome = true → Waits (.slTake f) s s 11)) ∧
      (s.isOwned (.scratch r.1 r.2) 64 true = true → WaitsOwned (.slGive f) s) ∧
      (s.isOwned (.scratch r.1 r.2) 64 true = false →
        (serialLt n (s.ringGiven r) = true → Falls (.slGive f) s s) ∧
        (n = s.ringGiven r → FallsWith (.slGive f) s fun x =>
          x = { s with scratch := x.scratch, rings := x.rings, owned := x.owned, cmdCtr := x.cmdCtr } ∧
          OnlyStores s x [.scratch r.1 (r.2 + 0x1C)] 4 ∧ x.ringGiven r = (n + 1) % 2 ^ 32) ∧
        (serialLt n (s.ringGiven r) = false → n ≠ s.ringGiven r → Waits (.slGive f) s s 11)))

/-- The events of single copies (R234, R243, R244, R252, R256, R261, R267, R434): acceptance lets the group go on; a finished command has
written its side, counts the bytes of its tile onto its armed barrier, whose phase completes when nothing is pending, leaves the engine,
frees what it owned and lowers COPY in issue order; a command on peer pages keeps its requests until its next turn (log entry 111); one
that waits on an owned line is only counted; a fault stops the command, with what it has written, and its group; a fault that the control
processor can repair is replayed: the command and its group go on; one that it cannot repair is abandoned: it leaves its trap to the
group and lowers COPY without counting on its barrier. -/
def Claim.CopyEvents : Prop :=
  ∀ (s : State) (k core : Nat),
    let others := fun (c : CopyCmd) => (∀ y ∈ s.copies, y.grp = c.grp → y.id ≠ c.id → y.stopped = none) ∧
      (∀ y ∈ s.rings, y.cmd.grp = c.grp → y.cmd.stopped = none) ∧ ∀ y ∈ s.colls, y.grp = c.grp → y.stopped = none
    ((s.group k).waiting ≠ .accept → exec (.tcAccept k) s = .next s) ∧
    ((s.group k).waiting = .accept → Answers (.tcAccept k) s fun t =>
      t = { s with groups := t.groups, copies := t.copies, counts := t.counts } ∧
      t.group k = { s.group k with waiting := .no, stall := 0 } ∧ (∀ j, j ≠ k → t.group j = s.group j) ∧
      t.copies = s.copies.map fun c => if c.grp == k then { c with accepted := true } else c) ∧
    (s.nextCopy core = none → Answers (.tcComplete core) s fun t => t = { s with counts := t.counts, waited := t.waited }) ∧
    (∀ c x, s.nextCopy core = some (c, .done x) →
      (c.carry.sent = true → x = s) ∧
      (c.carry.sent = false → ∃ y, s.tcRun c = (y, none) ∧ MemoryKept y x ∧ x.armed = s.armed) ∧
      Answers (.tcComplete core) s fun t =>
      t.copies = s.copies.filter (fun y => y.id != c.id) ∧ t.owned = s.owned.filter (fun o => o.cmd != c.id) ∧
      t.hbm = x.hbm ∧ t.stratus = x.stratus ∧ t.host = x.host ∧ t.peer = x.peer ∧ (c.bar = none → t.scratch = x.scratch) ∧
      (∀ b a, c.bar = some b → x.armedAt b.core b.byte = some a → (∀ l ∈ (x.group c.grp).copyLost, l.1 ≠ c.id) →
        let old := x.readBar b.core b.byte
        let new := t.readBar b.core b.byte
        let left := old.pendBytes - c.lay.tileBytes
        OnlyStores x t [.scratch b.core b.byte] 32 ∧ new.overrun = (old.overrun || decide (old.pendBytes < c.lay.tileBytes)) ∧
        (¬ (old.pending = 0 ∧ left = 0) → new.pendBytes = left ∧ new.pending = old.pending ∧ new.phase = old.phase ∧ new.gen = old.gen) ∧
        (old.pending = 0 ∧ left = 0 → new.phase = !old.phase ∧ new.gen = (old.gen + 1) % 2 ^ 32 ∧ new.pending = old.expected ∧
          new.pendBytes = old.expBytes)) ∧
      CopyFalls s t c.grp c.id (s.copies.filter fun y => y.id != c.id) s.rings) ∧
    (∀ c x y, s.nextCopy core = some (c, .carry x y) → Answers (.tcComplete core) s fun t =>
      t = { x with copies := x.copies.map fun z => if z.id == c.id then { z with carry := y } else z }) ∧
    (∀ c x e n, s.nextCopy core = some (c, .stop x (.trap e) n) → exec (.tcComplete core) s = .next s ∧ Answers (.tcReplayableFault core) s fun t =>
      (t.group c.grp).parked = true ∧ (t.group c.grp).inflight = (s.group c.grp).inflight ∧ MemoryKept x t ∧
      t.copies = s.copies.map fun y => if y.id == c.id then { y with stopped := some e, undone := n } else y) ∧
    (∀ c e u, (s.stoppedCopies core).findSome? (fun p => (s.repair p.1.asid p.2).map fun t => (p, t)) = some ((c, e), u) →
      e.code = .page ∧ Answers (.tcReplay core) s fun t =>
        MemoryKept u t ∧ t.copies = s.copies.map (fun y => if y.id == c.id then { y with stopped := none } else y) ∧
        (others c → (t.group c.grp).parked = false)) ∧
    (∀ c e, (s.stoppedCopies core).find? (fun p => (s.repair p.1.asid p.2).isNone) = some (c, e) → (s.group c.grp).ended = false →
      Answers (.tcAbandon core) s fun t =>
        t.copies = s.copies.filter (fun y => y.id != c.id) ∧ t.owned = s.owned.filter (fun o => o.cmd != c.id) ∧
        (t.group c.grp).asyncTraps = (s.group c.grp).asyncTraps ++ [e] ∧ MemoryKept s t ∧ t.armed = s.armed ∧
        CopyFalls s t c.grp c.id (s.copies.filter fun y => y.id != c.id) s.rings ∧ (others c → (t.group c.grp).parked = false))

/-- The events of rings (R234, R243, R245, R256, R258, R259, R274): a ring moves its tile in flight and raises DONE, also when `tc.stop` has
come or a context switch holds it; with its last tile, or after a `tc.stop`, it ends, STOPPED set in the latter case; else the next tile
begins when its slot is available and no switch holds the ring. A ring without a tile in flight, or stopped by a fault, does nothing, and
one that waits on an owned line is only counted; a fault of a tile stops the ring and its group. -/
def Claim.RingEvents : Prop :=
  ∀ (s : State) (core rec : Nat),
    (∀ r, s.ringNum core rec = some r →
      (r.cmd.stopped.isSome = true ∨ r.tile = 0 → exec (.ringTile core rec) s = .next s) ∧
      (∀ c x, s.ringMove r = some (c, .done x) → r.rbyte % 64 = 0 →
        s.ringCmd r = some c ∧ (c.carry.sent = true → x = s) ∧ (c.carry.sent = false → ∃ y, s.tcRun c = (y, none) ∧ MemoryKept y x) ∧
        Answers (.ringTile core rec) s fun t => t.ringDone (r.rcore, r.rbyte) = (r.next + 1) % 2 ^ 32 ∧ t.copies = s.copies ∧
          t.hbm = x.hbm ∧ t.stratus = x.stratus ∧ t.host = x.host ∧ t.peer = x.peer ∧
          (r.stopping = true ∨ r.count = r.next + 1 →
            (t.ringWord (r.rcore, r.rbyte) 4).testBit 0 = false ∧ (t.ringWord (r.rcore, r.rbyte) 4).testBit 2 = r.stopping ∧
            t.rings.length + 1 = s.rings.length) ∧
          (r.stopping = false → r.count ≠ r.next + 1 → ∃ y ∈ t.rings, y.next = r.next + 1 ∧ y.rcore = r.rcore ∧ y.rbyte = r.rbyte ∧
            ((∃ w ∈ s.switches, w.core = r.cmd.core ∧ w.outgoing = r.cmd.asid) → y.tile = 0))) ∧
      (∀ c x y, s.ringMove r = some (c, .carry x y) → Answers (.ringTile core rec) s fun t =>
        t = { x with rings := t.rings } ∧ { r with cmd := { r.cmd with carry := y } } ∈ t.rings) ∧
      ∀ c x n, s.ringMove r = some (c, .stop x (.wait true) n) → Answers (.ringTile core rec) s fun t =>
        t = { s with counts := t.counts, waited := t.waited } ∧ (0, c.id) ∈ t.waited) ∧
    ((∀ c x e n, s.nextCopy core ≠ some (c, .stop x (.trap e) n)) → ∀ r x e n, s.faultyRing core = some (r, x, e, n) →
      Answers (.tcReplayableFault core) s fun t =>
        (t.group r.cmd.grp).parked = true ∧ MemoryKept x t ∧ { r with cmd := { r.cmd with stopped := some e, undone := n } } ∈ t.rings)

/-- First touch (R206): an entry of the last level that is missing receives the next page of the context's pool, which becomes zero, as a
present leaf with its address; no other byte changes. That the page is writable and takes every atomic is the model's choice (log
entry 83). -/
def Claim.FirstTouch : Prop :=
  ∀ (va : DWord) (table f : Nat) (rest : List Nat) (m : Memory),
    let at_ := table + 8 * (va.toNat / 2 ^ 12 % 512)
    table % 4096 = 0 → f < 2 ^ 40 → table ≠ 4096 * f → m.read at_ 8 % 2 = 0 →
    ∃ m', fillWalk va 1 table (f :: rest) m = some (m', rest) ∧ m'.read at_ 8 = 4096 * f + 0x183 ∧
      (∀ a, a / 4096 = f → m'.byte a = 0) ∧ ∀ a, a / 4096 ≠ f → ¬ (at_ ≤ a ∧ a < at_ + 8) → m'.byte a = m.byte a

/-- Commands of the copy engine. `tc.ld` and `tc.st` check the record, the tile and the barrier, wait for room, and queue one command that
owns its lines; `tc.ring` starts a ring on a legal record, `tc.stop` ends one, after the tile in flight, and `sl.take` and `sl.give` hand
its slots over in order. The events: a command is accepted, moves its tile, counts its bytes onto its barrier and finishes, lowering COPY
in issue order; a fault stops it,
and it is replayed when the control processor can repair the fault, by first touch of a page, or abandoned; a ring moves its tiles one by
one, and ends with the last or when it was stopped. -/
def Obligations.CopiesAndRings : Prop :=
  Claim.CopyCommands ∧ Claim.RingStarts ∧ Claim.RingUse ∧ Claim.CopyEvents ∧ Claim.RingEvents ∧ Claim.FirstTouch

/-- The events of waits (R109, R270, R271): a group that waits at a barrier has one record sent in each phase, with the barrier, its
generation and the group; a Stratus bank enters or leaves its refresh window, one bank of a die at a time. -/
def Claim.WaitEvents : Prop :=
  ∀ (s : State) (k : Nat),
    let g := s.group k
    let record := fun (i : Instr) (e : Nat) (p : BitVec 96) =>
      (g.waitTold = some p → exec i s = .next s) ∧
      (g.waitTold ≠ some p → Answers i s fun t => t = { logged s t with groups := t.groups } ∧
        t.group k = { g with waitTold := some p } ∧ (∀ j, j ≠ k → t.group j = s.group j) ∧ RecordsOf s t e 7 p)
    (∀ c b, g.waiting = .abar c b →
      record (.abWaitRecord k) (engScratch c) (barrierPayload 1 (c * 2 ^ 36 + b % 2 ^ 19) (s.readBar c b).gen g.index)) ∧
    (g.waiting = .barrier →
      record (.tbarWaitRecord k) g.engine (barrierPayload 0 (s.team g.team).barObj (s.team g.team).bar.gen.toNat g.index)) ∧
    ∀ (die bank : Nat) (enters : Bool), Answers (.stratusRefreshWindow die bank enters) s fun t =>
      let x := die % 4 * 64 + bank % 64
      t = { s with refresh := t.refresh } ∧
      ∀ y, y ∈ t.refresh ↔ (enters = true ∧ (y = x ∨ (y / 64 ≠ die % 4 ∧ y ∈ s.refresh))) ∨ (enters = false ∧ y ≠ x ∧ y ∈ s.refresh)

/-- Waits for paths, the distance to refresh windows, and the events of waiting groups and refreshed banks. -/
def Obligations.WaitsOnPathsAndEvents : Prop := Claim.PathWaits ∧ Claim.WaitEvents

/-! ### Matrix engines (chapter 12) -/

/-- `mx.acq`, `mx.rel` and `mx.q` (R278, R287, R288, R293): a group of a pair team on its leader takes a free engine of its pair with
its accumulators zeroed, keeps one that the team holds, and is refused one that is held or in reset; it faults MATRIX_OWNER elsewhere.
A release waits for the pair's operations. The status word shows who holds the engine, its flags and its queue. -/
def Claim.MatrixReservation : Prop :=
  ∀ (f : VForm) (s : State), Quiet s →
    let p := s.pairNo
    let m := s.mxPair p
    let e := s.g.execLanes f.g
    let here := s.t.pair = true ∧ s.g.core = s.t.core
    let got := m.reset = false ∧ (m.holder = none ∨ m.holder = some s.g.team)
    (s.g.groupExec f.g = false → Falls (.mxAcq f) s s ∧ Falls (.mxRel f) s s ∧ Falls (.mxQ f) s s) ∧
    (s.g.groupExec f.g = true →
      (¬ here → Traps (.mxAcq f) s .matrixOwner 0 (.generic 0) e) ∧
      (here → ∀ n : Fin 32, f.d = .pred n → FallsWith (.mxAcq f) s fun x =>
        x = { s with groups := x.groups, mx := x.mx, teams := x.teams, accum := x.accum, counts := x.counts } ∧ OthersKept s x ∧
        x.g = { s.g with preds := x.g.preds } ∧ PredSet s x n.val e (if got then allLanes else 0) ∧
        (m.reset = false → m.holder = none → (x.mxPair p).holder = some s.g.team ∧ (x.mxPair p).ops = m.ops ∧
          (x.team s.g.team).mxHolds = true ∧ (x.team s.g.team).mxLost = false ∧
          ∀ a, Store.get TWord.zero x.accum a = if a / 131072 = p then TWord.zero else Store.get TWord.zero s.accum a) ∧
        (m.reset = true ∨ m.holder ≠ none → x.mx = s.mx ∧ x.teams = s.teams ∧ x.accum = s.accum)) ∧
      (m.holder ≠ some s.g.team → Falls (.mxRel f) s s) ∧
      (m.holder = some s.g.team → m.ops ≠ [] → Waits (.mxRel f) s s 13) ∧
      (m.holder = some s.g.team → m.ops = [] → FallsWith (.mxRel f) s fun x => x = { s with mx := x.mx, teams := x.teams } ∧
        (x.mxPair p).holder = none ∧ (x.team s.g.team).mxHolds = false ∧ (∀ k, k ≠ s.g.team → x.team k = s.team k)) ∧
      ∃ v : DWord, GivesScal (.mxQ f) s (nextPc (.mxQ f) s) f.d.scalNum ⟨v, 0⟩ ∧ (m.queued < 8 →
        v.getLsbD 0 = (m.holder == some s.g.team) ∧ v.getLsbD 1 = m.holder.isSome ∧ v.getLsbD 2 = m.reset ∧ v.getLsbD 3 = s.t.mxLost ∧
        v.getLsbD 4 = m.nv ∧ v.getLsbD 5 = m.ovf ∧ v.getLsbD 6 = (s.spares.contains (2 * p) || s.spares.contains (2 * p + 1)) ∧ v.getLsbD 7 = false ∧
        (v.extractLsb' 8 3).toNat = m.queued ∧ v.getLsbD 11 = (m.ops.any fun o => o.begun) ∧ v.extractLsb' 12 4 = 0 ∧
        (m.holder = none → v.extractLsb' 16 48 = 0) ∧
        ∀ tk, m.holder = some tk → v.extractLsb' 16 16 = (if (s.team tk).asid = s.g.asid then s.g.asid else 0xFFFF) ∧
          v.extractLsb' 32 32 = if (s.team tk).asid = s.g.asid then BitVec.ofNat 32 (s.team tk).lin else 0))

/-- `mx.mma`, `mx.ld`, `mx.st` and `mx.zero` (R276, R277, R279, R280, R282, R289 to R292, R295): a team that has lost its engine faults
MATRIX_LOST, one that does not hold it MATRIX_OWNER; a control word that is not legal faults RESERVED, a tile that an f64 image does not
have OPERAND, a bad region, quarter, scale or barrier as its check says, and an image over an armed record BARRIER_CLOBBER. With operands
that pass, one operation is queued behind the others with MTX raised, and its regions are held, as sources or as destinations; a full
queue or counter makes the group wait. -/
def Claim.MatrixCommands : Prop :=
  ∀ (f : VForm) (s : State), Quiet s →
    let p := s.pairNo
    let m := s.mxPair p
    let e := s.g.execLanes f.g
    let all := [Instr.mxMma f, .mxLd f, .mxSt f, .mxZero f]
    let halves := fun (src : Bool) (byte n : Nat) => [(src, s.t.core, byte, byte + n), (src, s.t.core + 1, byte, byte + n)]
    let queues := fun (i : Instr) (w : MxWork) (tile byte : Nat) (held : List (Bool × Nat × Nat × Nat)) (more : MxOp → Prop) =>
      (Config.matrixQueue ≤ m.queued → Waits i s s 13) ∧
      (m.queued < Config.matrixQueue → s.g.counterFull [.mtx] = true → Waits i s s 15) ∧
      (m.queued < Config.matrixQueue → s.g.counterFull [.mtx] = false → FallsWith i s fun x => ∃ o : MxOp,
        x = { s with groups := x.groups, mx := x.mx, owned := x.owned, cmdCtr := o.id } ∧ OthersKept s x ∧
        x.g = { s.g with inflight := s.g.inflight.raise [.mtx], deferred := s.g.deferred || o.bar.isSome } ∧
        (∀ q, x.mxPair q = if q = p then { m with ops := m.ops ++ [o] } else s.mxPair q) ∧
        x.owned = s.owned ++ held.map (fun h => ⟨o.id, h.1, some h.2.1, h.2.2.1, h.2.2.2⟩) ∧ o.id = s.cmdCtr + 1 ∧
        o.work = w ∧ o.tile = tile ∧ o.byte = byte ∧ o.grp = s.cur ∧ o.team = s.g.team ∧ o.begun = false ∧ more o)
    (s.g.groupExec f.g = false → ∀ i ∈ all, Falls i s s) ∧
    (s.g.groupExec f.g = true → s.t.mxLost = true → ∀ i ∈ all, Traps i s .matrixLost 0 (.generic 0) e) ∧
    (s.g.groupExec f.g = true → s.t.mxLost = false → ¬ (s.t.pair = true ∧ s.t.mxHolds = true) →
      ∀ i ∈ all, Traps i s .matrixOwner 0 (.generic 0) e) ∧
    (s.g.groupExec f.g = true → s.t.mxLost = false → s.t.pair = true → s.t.mxHolds = true →
      (let ctl := s.s64 f.c
       let c := mmaCanon ctl
       let n := 64 * 128 * aGranules c
       (mmaOk ctl = false → Traps (.mxMma f) s .reserved 0 (.generic 0) e) ∧
       (mmaOk ctl = true → Checks (.mxMma f) s (s.pairRegion f n (s.s64 f.a)) fun byte =>
        Checks (.mxMma f) s ((List.range 4).mapM fun q => s.quarter f.b.specialNum (rowsNeeded c (mmaK ctl)) e q) fun qs =>
        queues (.mxMma f) (.mma ctl) (mmaTile ctl) byte (halves true byte n) fun o => o.quarters = qs ∧ o.bar = none)) ∧
      (let f64 := s.s64 f.b == 1
       (2 ≤ (s.s64 f.b).toNat → Traps (.mxLd f) s .reserved 0 (.generic 0) e) ∧
       (s.s64 f.b = 1 → 4 ≤ f.d.specialNum → Traps (.mxLd f) s .operand 0 (.generic 0) e) ∧
       ((s.s64 f.b).toNat < 2 → (s.s64 f.b = 1 → f.d.specialNum < 4) →
        Checks (.mxLd f) s (s.pairRegion f (imgHalf f64) (s.s64 f.a)) fun byte =>
        queues (.mxLd f) (.load f64) f.d.specialNum byte (halves true byte (imgHalf f64)) fun o => o.bar = none)) ∧
      queues (.mxZero f) .zero f.d.specialNum 0 [] (fun o => o.bar = none) ∧
      (let n := f.c.scalNum
       let w := s.g.sval n
       let f64 := w.getLsbD 0
       let legal := w.toNat < 32 ∧ ¬ (f64 = true ∧ w.getLsbD 3 = true)
       let asked := fun (b : Nat) (v : DWord) => if w.getLsbD b then s.scaleRegion f v else Except.ok []
       let held := fun (r : List (Nat × Nat)) => r.map fun x => (true, x.1, x.2, x.2 + 128)
       (¬ legal → Traps (.mxSt f) s .reserved 0 (.generic 0) e) ∧
       (legal → f64 = true → 4 ≤ f.b.specialNum → Traps (.mxSt f) s .operand 0 (.generic 0) e) ∧
       (legal → (f64 = true → f.b.specialNum < 4) → Checks (.mxSt f) s (s.pairRegion f (imgHalf f64) (s.s64 f.a)) fun byte =>
        Checks (.mxSt f) s (asked 1 (s.g.sval (n + 1))) fun rs => Checks (.mxSt f) s (asked 2 (s.g.sval (n + 2))) fun cs =>
        let v := s.g.sval (n + 3)
        let bars := fun (bar : Option BarRef) =>
          let covers := s.clobbers (.scratch s.t.core byte) (imgHalf f64) || s.clobbers (.scratch (s.t.core + 1) byte) (imgHalf f64)
          (covers = true → Traps (.mxSt f) s .barrierClobber (s.s64 f.a) (.generic 0) e) ∧
          (covers = false → queues (.mxSt f) (.store f64 (w.getLsbD 1) (w.getLsbD 2) (w.getLsbD 3)) f.b.specialNum byte
            (halves false byte (imgHalf f64) ++ held rs ++ held cs) fun o => o.rowScale = rs ∧ o.colScale = cs ∧ o.bar = bar)
        (w.getLsbD 4 = false → bars none) ∧
        (w.getLsbD 4 = true → (s.barOperand f v).toBool = false → ∃ info, Traps (.mxSt f) s .protect v (.raw info) e) ∧
        (w.getLsbD 4 = true → ∀ r, s.barOperand f v = .ok r → bars (some ⟨r.1, r.2, (s.readBar r.1 r.2).scope⟩)))))

/-- Holding a matrix engine and giving it commands. -/
def Obligations.MatrixUse : Prop := Claim.MatrixReservation ∧ Claim.MatrixCommands

/-- The events of a pair's engine (R31, R234, R243, R277, R289, R292, R294, R435): the next operation begins with the operands that it
reads, which are held no longer, and not while the engine is in reset, an older one still writes behind it or writes a tile in which a
quarter of its B lies; one that an older command's lines hold is counted as waiting; the oldest that has begun retires, frees what it
owned and lowers MTX, a store only when no older command owns its image or its barrier's record; the watchdog
takes the engine from its holder, discards the queue with its counts and zeroes the accumulators; the engine leaves reset. -/
def Claim.MatrixEvents : Prop :=
  ∀ (s : State) (p : Nat), GroupsWf s →
    let m := s.mxPair p
    let isStore := fun (o : MxOp) => o.kind = 2
    (∀ o, m.ops.find? (fun o => !o.begun) = some o →
      let due := m.reset = false ∧ (m.ops.filter fun x => x.begun).length ≤ 1 ∧ s.quarterWaits p o = false
      let free := (¬ isStore o → s.mxHeld o false = false) ∧ s.scalesHeld o = false
      (due → free → Answers (.mxOpBegin p) s fun t =>
        (t.mxPair p).ops = m.ops.map (fun x => if x.id == o.id then { o with begun := true, data := s.mxRead o } else x) ∧
        t.owned = s.owned.filter (fun w => !(w.cmd == o.id && w.src)) ∧ MemoryKept s t ∧ t.accum = s.accum) ∧
      (due → ¬ free → Answers (.mxOpBegin p) s fun t => t = { s with counts := t.counts, waited := t.waited }) ∧
      (¬ due → Answers (.mxOpBegin p) s fun t => t = s)) ∧
    (∀ o rest, m.ops = o :: rest → o.begun = true →
      let free := isStore o → s.mxHeld o true = false ∧ s.mxBarHeld o = false
      (free → Answers (.mxOpRetire p) s fun t =>
        (t.mxPair p).ops = rest ∧ t.owned = s.owned.filter (fun w => w.cmd != o.id) ∧
        (t.group o.grp).inflight = (s.group o.grp).inflight.lower [.mtx]) ∧
      (¬ free → Answers (.mxOpRetire p) s fun t => t = { s with counts := t.counts, waited := t.waited })) ∧
    (∀ tk, m.holder = some tk → Answers (.matrixWatchdog p) s fun t =>
      t.mxPair p = { m with holder := none, reset := true, ops := [] } ∧ (t.team tk).mxLost = true ∧ (t.team tk).mxHolds = false ∧
      t.owned = s.owned.filter (fun w => !m.ops.any fun o => o.id == w.cmd) ∧
      (∀ k, (t.group k).inflight = (s.group k).inflight.lower ((m.ops.filter fun o => o.grp == k).map fun _ => .mtx)) ∧
      ∀ a, Store.get TWord.zero t.accum a = if a / 131072 = p then TWord.zero else Store.get TWord.zero s.accum a) ∧
    (m.holder = none → Answers (.matrixWatchdog p) s fun t => t = s) ∧
    Answers (.matrixResetEnd p) s fun t => t = { s with mx := t.mx } ∧ ∀ q, t.mxPair q = if q = p then { m with reset := false } else s.mxPair q

/-- What a retiring `mx.mma` and `mx.zero` leave in the accumulators (R281, R283, R285, R291): each of the 128 · 128 elements of the
tile is the block-wise sum of its row of A and its column of B over the old element, or +0 without ACC, or the residue product; or
zero. No element of another tile changes. -/
def Claim.MatrixProducts : Prop :=
  ∀ (s : State) (p : Nat) (o : MxOp) (rest : List MxOp), (s.mxPair p).ops = o :: rest → o.begun = true →
    (∀ ctl, o.work = .mma ctl →
      let c := mmaCanon ctl
      let k := mmaK ctl
      let f64 := c == .c64
      o.tile < (if f64 then 4 else 8) → Answers (.mxOpRetire p) s fun t =>
        (∀ i j, i < 128 → j < 128 →
          let old := s.accElem p f64 o.tile i j
          t.accElem p f64 o.tile i j = if c = .rns then
              rnsOut (ctl.getLsbD 4) (ctl.getLsbD 5) (mmaAcc ctl) ((o.aElems c k i).map fun v => v.val) ((o.bElems c k j).map fun v => v.val) old
            else
              let r := mxDot c ((o.aElems c k i).map c.elem) ((o.bElems c k j).map c.elem) (if mmaAcc ctl then old else TVal.zero)
              shown f64 ⟨r.v, r.tail⟩) ∧
        ∀ q n i j, n < (if f64 then 4 else 8) → i < 128 → j < 128 → (q ≠ p ∨ n ≠ o.tile) → t.accElem q f64 n i j = s.accElem q f64 n i j) ∧
    (o.work = .zero → o.tile < 8 → Answers (.mxOpRetire p) s fun t => ∀ q n i j, n < 8 → i < 128 → j < 128 →
      t.accElem q false n i j = if q = p ∧ n = o.tile then TVal.zero else s.accElem q false n i j)

/-- The sum of an output element (R283): blocks of 16, 8 or 4 products in the order of k, each on what the blocks before it have formed, in a
window of 40, 52 or 110 bits. A NaN among a block's terms, or infinities of both signs, make it the canonical NaN; else an infinite term
makes it that infinity; else its non-zero terms are cut toward zero to multiples of 2^(e_max + 2 − W) and summed exactly, the sum is
formed, and the tail's sticky bit is set when something was cut off or an element read for the block was sticky. A zero sum is −0 only
when every term is. -/
def Claim.MatrixSums : Prop :=
  (∀ (c : Canon) (as bs : List MxElem) (acc : TVal), as ≠ [] → as.length = bs.length →
    let t : Ty := if c = .c64 then .f64 else .f32
    let kb := if c = .cx then 16 else if c = .c64 then 4 else 8
    let w : Int := if c = .cx then 40 else if c = .c64 then 110 else 52
    let first := mxDot c (as.take kb) (bs.take kb) acc
    let later := mxDot c (as.drop kb) (bs.drop kb) ⟨first.v, first.tail⟩
    (kb < as.length → mxDot c as bs acc = { later with nv := first.nv || later.nv, ovf := first.ovf || later.ovf }) ∧
    (as.length ≤ kb →
      let terms := tailedVal t (readFloat t acc.val) acc.tail :: List.zipWith (fun x y => prodVal x.1 y.1) as bs
      let r := mxDot c as bs acc
      let wrong := (∃ x ∈ terms, x.isNan = true) ∨ (.inf true ∈ terms ∧ .inf false ∈ terms)
      let stickies := acc.tail.getLsbD 0 = true ∨ (∃ x ∈ as, x.2 = true) ∨ ∃ y ∈ bs, y.2 = true
      let nonzero := (numsOf terms).filter fun x => !x.isZero
      (wrong → r = ⟨nanBits t, 0, true, false⟩) ∧
      (¬ wrong → ∀ n, .inf n ∈ terms → r = ⟨infBits t n, 0, false, false⟩) ∧
      (¬ wrong → (∀ n, .inf n ∉ terms) →
        let formed := fun (z : FNum) (sticky : Prop) =>
          let f := formNum t z
          r.v = f.1 ∧ (sticky → r.tail = f.2.1 ||| 1) ∧ (¬ sticky → r.tail = f.2.1) ∧ r.nv = false ∧
          r.ovf = (r.tail == 7 && r.v == maxBits t z.neg)
        let zero : FNum := ⟨(numsOf terms).all fun x => x.isZero && x.neg, 0, 0, false⟩
        (nonzero = [] → formed zero stickies) ∧
        ∀ top ∈ nonzero, (∀ x ∈ nonzero, x.log ≤ top.log) →
          let g := top.log + 2 - w
          let cut := fun (x : FNum) => if x.neg then -((x.at g).1 : Int) else ((x.at g).1 : Int)
          let sum := (nonzero.map cut).sum
          formed (if sum = 0 then zero else ⟨decide (sum < 0), sum.natAbs, g, false⟩) (stickies ∨ ∃ x ∈ nonzero, (x.at g).2 = true)))) ∧
  (∀ a b : FVal, let p := prodVal a b
    (a.isNan = true ∨ b.isNan = true ∨ (a.isInf = true ∧ b.isZero = true) ∨ (a.isZero = true ∧ b.isInf = true) → p = .nan false) ∧
    (∀ n, a = .inf n → b.isNan = false → b.isZero = false → p = .inf (n != b.neg)) ∧
    (∀ n, b = .inf n → a.isNan = false → a.isZero = false → p = .inf (a.neg != n)) ∧
    ∀ x y, a = .num x → b = .num y → p = .num (mulNum x y)) ∧
  ∀ (x : FNum) (g k : Int), x.st = false → k ≤ x.e → k ≤ g →
    let m := x.m * 2 ^ (x.e - k).toNat
    (x.at g).1 * 2 ^ (g - k).toNat ≤ m ∧ m < ((x.at g).1 + 1) * 2 ^ (g - k).toNat ∧
      ((x.at g).2 = true ↔ (x.at g).1 * 2 ^ (g - k).toNat ≠ m)

/-- What a retiring `mx.ld` and `mx.st` leave (R290 to R292): a load copies every word of its image with its tail into the tile and
changes no other word of the accumulators; a store writes every word of its image, raw or scaled, rows 64 to 127 into the follower's
scratchpad, and no other word of scratchpad, then counts the image's bytes onto its barrier; where the image meets an armed record it is
not counted, and its group takes BARRIER_CLOBBER. -/
def Claim.MatrixImages : Prop :=
  ∀ (s : State) (p : Nat) (o : MxOp) (rest : List MxOp), (s.mxPair p).ops = o :: rest → o.begun = true →
    (∀ f64, o.work = .load f64 → o.tile < (if f64 then 4 else 8) → Answers (.mxOpRetire p) s fun t =>
      let place := fun r w => accWordKey p (if f64 then accByte true o.tile r (w / 2) + 4 * (w % 2) else accByte false o.tile r w)
      let words := if f64 then 256 else 128
      (∀ r w, r < 128 → w < words → Store.get TWord.zero t.accum (place r w) = (o.data.getD r []).getD w TWord.zero) ∧
      ∀ a, (∀ r w, r < 128 → w < words → a ≠ place r w) → Store.get TWord.zero t.accum a = Store.get TWord.zero s.accum a) ∧
    (∀ f64 rs cs outf, o.work = .store f64 rs cs outf → s.mxHeld o true = false → s.mxBarHeld o = false →
      let x := (s.mxWrite p o).1
      (∀ a, (s.mxWrite p o).2 = some a → GroupsWf s → Answers (.mxOpRetire p) s fun t => MemoryKept x t ∧
        ∃ tr : TrapInfo, tr.code = .barrierClobber ∧ tr.faddr = a ∧ (t.group o.grp).asyncTraps = (s.group o.grp).asyncTraps ++ [tr]) ∧
      ((s.mxWrite p o).2 = none → Answers (.mxOpRetire p) s fun t => MemoryKept (x.mxCount p o) t ∧ t.accum = s.accum ∧
        (let place := fun r w => scratchKey (o.core + r / 64) (o.byte + placeIn (imgGranules f64) (r % 64) (4 * w))
          let per := if f64 then 2 else 1
          (o.byte + imgHalf f64 ≤ Config.scratchBytes → ∀ r j d, r < 128 → j < 128 → d < per →
            Store.get TWord.zero x.scratch (place r (per * j + d)) = (s.imageElem p o f64 rs cs outf r j).1.getD d TWord.zero) ∧
          ∀ a, (∀ r w, r < 128 → w < 128 * per → a ≠ place r w) → Store.get TWord.zero x.scratch a = Store.get TWord.zero s.scratch a)))

/-- The work of a matrix engine, the products that it computes, and the images that it moves. -/
def Obligations.MatrixWork : Prop := Claim.MatrixEvents ∧ Claim.MatrixProducts ∧ Claim.MatrixSums ∧ Claim.MatrixImages

/-! ### Tasks and the launcher (chapter 13) -/

/-- `rgn` (R314, R315, R323): a range beyond the view faults OPERAND; inside a handler it does nothing; it waits while a checkpoint is
being written (20) or an engine owns a line of its slot; a slot that is too small faults SPILL_LIMIT at the first byte beyond it; else it
writes every byte of the group's next slot, whose HEADPC is the address after it, whose SEQ is one above the current slot's and whose
RETIRED counts the `rgn`, and changes no other byte. That MASK of a slot is the whole live mask is the model's reading (log entry 20). -/
def Obligations.RegionHeads : Prop :=
  ∀ (f : VForm) (s : State), Quiet s →
    let g := s.g
    let fits := ∀ r ∈ rgnRanges f, r.2 = 0 ∨ r.1 + r.2 ≤ g.vCount
    let runs := g.groupExec f.g = true ∧ g.inHandler = false
    let slot := s.nextSlot g
    let base := g.slotBase slot
    let size := 2688 + 768 * (rangeRegs (rgnRanges f)).length
    let seq := s.slotSeq g (s.currentSlot g) + 1
    let count := if g.mode then g.retired else g.retired + 1
    (¬ fits → Traps (.rgn f) s .operand 0 (.generic 0) g.mask) ∧
    (fits → ¬ runs → Falls (.rgn f) s s) ∧
    (fits → runs → g.pendCk.isSome = true → Waits (.rgn f) s s 20) ∧
    (fits → runs → g.pendCk = none →
      (s.slotOwned s.cur (rgnRanges f) = true → WaitsOwned (.rgn f) s) ∧
      (s.slotOwned s.cur (rgnRanges f) = false → g.slotSize < size →
        ∃ v, Traps (.rgn f) s .spillLimit (BitVec.ofNat 64 (base + g.slotSize)) (.raw v) g.mask) ∧
      (s.slotOwned s.cur (rgnRanges f) = false → size ≤ g.slotSize → base + size ≤ Config.hbmBytes → FallsWith (.rgn f) s fun x =>
        x = { s with groups := x.groups, hbm := x.hbm, counts := x.counts, l1 := x.l1, poison := x.poison } ∧ OthersKept s x ∧
        x.g = { g with pendCk := some slot, ckSeq := BitVec.ofNat 64 seq, ckAt := s.clock + 1, ranges := rgnRanges f, deferred := false } ∧
        (∀ a, ¬ (base ≤ a ∧ a < base + size) → x.hbm.byte a = s.hbm.byte a) ∧
        (g.stack.length ≤ 16 →
          (∀ i, i < size → x.hbm.byte (base + i) =
            (Group.slotHead { g with retired := count } (g.pc + 12) seq (rgnRanges f) ++ s.slotRegs g (rgnRanges f)).getD i 0) ∧
          x.hbm.read base 8 = (g.pc + 12).toNat ∧ x.hbm.read (base + 8) 8 = seq % 2 ^ 64 ∧ x.hbm.read (base + 16) 8 = count.toNat)))

/-- `launch` and `tcbd` (R207, R302, R307, R309, R312, R324, R325): a bad TCB address faults, a line of the TCB that an engine owns and a
full ready queue with a full overflow make them wait, and uncorrectable data faults DATA_LOST. `launch` faults OPERAND for a TCB that is
not idle and DEPTH at the tenth level; else it registers a child task of the issuing team, which is ready at once when its count is 0.
`tcbd` lowers the count, and the task becomes ready at 0; a count of 0 faults COUNT_UNDER, after the launcher has recorded it. That both
wait while the ready structures are full is the model's reading (log entry 57). -/
def Claim.ChildTasks : Prop :=
  ∀ (f : VForm) (s : State), Quiet s →
    let ea := s.s64 f.a
    let e := s.g.execLanes f.g
    let k := taskKey s.g.asid ea
    let s0 := s.noteVas s.g.core s.g.asid [ea]
    let queued := fun (x : State) (level : Nat) => (level, k) ∈ x.ready ∨ ∃ y ∈ x.overflow, y.level = level ∧ y.task = k
    (s.g.groupExec f.g = false → Falls (.launch f) s s ∧ Falls (.tcbd f) s s) ∧
    (s.g.groupExec f.g = true → ∀ i ∈ [Instr.launch f, .tcbd f], Checks i s (s.tcbLoc f ea) fun l =>
      (s.isOwned l 128 true = true → WaitsOwned i s) ∧
      (s.isOwned l 128 true = false → s.readyRoom = 0 → Waits i s s 17) ∧
      (s.isOwned l 128 true = false → s.readyRoom ≠ 0 → Checks i s (s.recordLost f 128 ea l) fun _ =>
        let v := s.homeValue l 128
        (i = .launch f →
          (field v 0x44 1 ≠ 0 → Traps i s .operand 0 (.generic 0x51) e) ∧
          (field v 0x44 1 = 0 → 10 ≤ (s.taskOf s.t).depth → Traps i s .depth ea (.generic 0) e) ∧
          (field v 0x44 1 = 0 → (s.taskOf s.t).depth < 10 → FallsWith i s fun x =>
            x.groups = s.groups ∧ (x.task k).live = true ∧ (x.task k).parent = s.g.team ∧ (x.task k).depth = (s.taskOf s.t).depth + 1 ∧
            (x.task k).graph = (s.taskOf s.t).graph ∧ (x.task k).prio = bitsAt v 16 3 ∧ k ∈ (x.team s.g.team).children ∧
            (bitsAt v 0 16 = 0 → (x.task k).state = 1 ∧ queued x (bitsAt v 16 3)) ∧
            (bitsAt v 0 16 ≠ 0 → MemoryKept s x ∧ (x.task k).state = 0 ∧ x.ready = s.ready ∧ x.overflow = s.overflow))) ∧
        (i = .tcbd f →
          (∀ n, field v 0 2 ≠ 0 → s0.lxRead s.g.asid ea 2 = some n → 0 < n → (s0.lxLoc s.g.asid true ea).isSome = true →
            (1 < n ∨ (s.task k).live = false ∨ (s.task k).state ≠ 0 → Falls i s (s0.lxWrite s.g.asid ea 2 (n - 1))) ∧
            (n = 1 → (s.task k).live = true → (s.task k).state = 0 → FallsWith i s fun x =>
              x.groups = s.groups ∧ (x.task k).state = 1 ∧ queued x (s.task k).prio)) ∧
          (field v 0 2 = 0 → ∃ t, exec i s = .next t ∧
            t = State.raise (s.tcbdUnder ea (field v 0x40 4)) i .countUnder ea (.generic 0) e))))

/-- `qpush` (R207, R298, R326): a queue number above 2,047 faults OPERAND; a bad address, a record outside global memory and scratchpad, a
queue of another context, and uncorrectable data fault; an owned line or a refresh window of the record, and of the queue's slot, makes it
wait (R234, R271). Its answer is 2 for a queue that is disabled or stopped, 0 for a full one, and 1 when the record is written at TAIL and
TAIL is one higher; a slot that cannot be written stops the queue (the model's choice, log entry 22). A record on a peer's page is read by
a request over which the group issues nothing (R339; its data is read at issue, log entry 4). -/
def Claim.QueuePushes : Prop :=
  ∀ (f : VForm) (s : State), Quiet s →
    let q := s.n32 f.a
    let ea := s.s64 f.b
    let x := s.queue q
    let e := s.g.execLanes f.g
    let slot := x.recAddr x.tail
    let full := (x.tail - x.head).toNat = 2 ^ x.log2n.toNat
    let meets := fun (r : Nat) => ∃ l, s.lxLoc x.asid true slot = some l ∧ s.locWait l 64 true = some r
    let answers := fun (l : LaneLoc) (y : State) (n : Nat) =>
      (l.loc.isPeer = false → Falls (.qpush f) s (y.setS f.d.scalNum ⟨BitVec.ofNat 64 n, 0⟩)) ∧
      (l.loc.isPeer = true → FallsWith (.qpush f) s fun z => ScalSet y z f.d.scalNum ⟨BitVec.ofNat 64 n, 0⟩ ∧ z.queues = y.queues ∧
        MemoryKept y z ∧ ∃ p, z.g.loads = s.g.loads ++ [p] ∧ p.holds = true)
    (s.g.groupExec f.g = false → Falls (.qpush f) s s) ∧
    (s.g.groupExec f.g = true → 2048 ≤ q → Traps (.qpush f) s .operand 0 (.generic 0) e) ∧
    (s.g.groupExec f.g = true → q < 2048 →
      Checks (.qpush f) s (s.checkLanes s.g { acc := 0, size := 64, user := !s.g.mode } true (firstLane e) (some e) noExtra [(96, ea)]) fun ls =>
      ∀ l rest, ls = l :: rest →
        let s0 := s.noteLanes ls
        let mine := s.winOf ea < 2 ∧ x.asid = s.g.asid
        (¬ mine → ∃ v, Traps (.qpush f) s .protect ea (.raw v) e) ∧
        (mine → s.locWait l.loc 64 false = some 17 → WaitsOwned (.qpush f) s) ∧
        (mine → s.locWait l.loc 64 false = some 16 → Waits (.qpush f) s s 16) ∧
        (mine → s.locWait l.loc 64 false = none →
          (x.en = false ∨ x.err ≠ 0 → Checks (.qpush f) s (s.recordLost f 64 ea l.loc) fun _ => answers l s0 2) ∧
          (x.en = true → x.err = 0 → full → Checks (.qpush f) s (s.recordLost f 64 ea l.loc) fun _ => answers l s0 0) ∧
          (x.en = true → x.err = 0 → ¬ full →
            (meets 17 → WaitsOwned (.qpush f) s) ∧
            (meets 16 → Waits (.qpush f) s s 16) ∧
            (¬ meets 16 → ¬ meets 17 → Checks (.qpush f) s (s.recordLost f 64 ea l.loc) fun _ =>
              ((s0.lxLoc x.asid true slot).isSome = true →
                answers l ((s0.lxWrite x.asid slot 64 (s.readHome s.g l.loc 64)).putQueue q { x with tail := x.tail + 1 }) 1) ∧
              (s0.lxLoc x.asid true slot = none → answers l (s0.putQueue q { x with err := 3, faddr := slot }) 2)))))

/-- `poll` (R207, R320, R327, R339): a bad address faults, in a deterministic task global and stack memory fault DETERMINISM; an owned
line, a refresh window and the quadrant's full requests make it wait. Else one read at its home; the unsigned comparison goes to the
predicate in the executing lanes, or to the scalar. When it holds, the back-off starts again and an acquire takes effect; when it does
not, the back-off grows by one step, up to 7, and the group waits. A read of a peer, and one of uncorrectable data, is a read in flight
over which the group issues nothing. -/
def Claim.Polls : Prop :=
  ∀ (f : MForm) (s : State), Quiet s →
    let n := f.ty.size
    let e := s.g.execLanes f.g
    let acc : Access := { acc := 0, size := n, user := !s.g.mode }
    (s.g.groupExec f.g = false → Falls (.poll f) s s) ∧
    (s.g.groupExec f.g = true → s.det = true → ∀ l, s.memCheck f acc false noExtra = .ok [l] →
      (l.translated s s.g = true ∨ ∃ b o w, l.loc = .stack b o w) → Traps (.poll f) s .determinism l.ea (.generic 0) e) ∧
    (s.g.groupExec f.g = true → Checks (.poll f) s (s.memCheck f acc false (s.pollDet f)) fun ls => ∀ l rest, ls = l :: rest →
      (s.locWait l.loc n false = some 17 → WaitsOwned (.poll f) s) ∧
      (s.locWait l.loc n false = some 16 → Waits (.poll f) s s 16) ∧
      (s.locWait l.loc n false = none → s.requestsFull = true → Waits (.poll f) s s 17) ∧
      (s.locWait l.loc n false = none → s.requestsFull = false →
        let m := s.readHome s.g l.loc n
        let b := (s.rdSrc f.ty f.b 96).val.toNat % 2 ^ (8 * n)
        let met := (f.fn = 0 ∧ m = b) ∨ (f.fn = 1 ∧ m ≠ b) ∨ (f.fn = 2 ∧ b ≤ m) ∨ (3 ≤ f.fn.toNat ∧ m < b)
        let plain := (∀ y ∈ ls, y.loc.isPeer = false) ∧ s.badByte n ls = none
        let result := fun (x : State) (r : Bool) =>
          MemoryKept s x ∧ OthersKept s x ∧
          x = { s with groups := x.groups, l1 := x.l1, ctxCores := x.ctxCores, tlb := x.tlb, l1tlb := x.l1tlb, walks := x.walks
                       counts := x.counts, seqs := x.seqs, outbox := x.outbox, linkSeqs := x.linkSeqs, replayBuf := x.replayBuf } ∧
          (∀ d : Fin 32, f.d = .pred d → PredSet s x d.val e (if r then allLanes else 0) ∧ KeepsScals s x ∧ KeepsMask s x) ∧
          (∀ d : Fin 64, f.d = .scal d → ScalSet s x d.val ⟨if r then 1 else 0, 0⟩ ∧ KeepsPreds s x) ∧
          (plain → x.g.loads = s.g.loads) ∧
          (¬ plain → ∃ p, x.g.loads = s.g.loads ++ [p] ∧ p.holds = true ∧ p.bad = s.badAccess s.g 0 n ls)
        let kept := fun (x : State) => { s.g with
          preds := x.g.preds, scal := x.g.scal, mask := x.g.mask, full := x.g.full, l1Floor := x.g.l1Floor, newer := x.g.newer
          loads := x.g.loads }
        (met → FallsWith (.poll f) s fun x => result x true ∧ x.g = { kept x with pollTries := 0, pollStep := 0 } ∧
          (f.order = .acquire → x.g.l1Floor = s.l1Ctr + 1) ∧ (plain → f.order = .plain → x.g.l1Floor = s.g.l1Floor)) ∧
        (¬ met → FallsWith (.poll f) s fun x => result x false ∧
          x.g = { kept x with waiting := .poll, pollTries := s.g.pollTries + 1, pollStep := min (s.g.pollTries + 1) 7 } ∧
          (plain → x.g.l1Floor = s.g.l1Floor))))

/-- Queue pushes and polls. -/
def Obligations.PushesAndPolls : Prop := Claim.QueuePushes ∧ Claim.Polls

/-- `dwait`, `cwait` and `clk` (R328, R329): a wait for an earlier team of the grid, for a child task or for all children returns with an
acquire when it has retired, and else makes the group wait; `clk` reads the count of retired instructions. `cwait` with s0 names the TCB
at address 0 (the model's reading, log entry 60). -/
def Claim.TaskWaits : Prop :=
  ∀ (f : VForm) (s : State), Quiet s →
    let task := s.taskOf s.t
    let done := fun (i : Instr) => FallsWith i s fun x =>
      x = { s with groups := x.groups, l1 := x.l1, ctxCores := x.ctxCores } ∧ OthersKept s x ∧ x.g = { s.g with l1Floor := s.l1Ctr + 1, newer := [] }
    (s.g.groupExec f.g = false → Falls (.dwait f) s s ∧ Falls (.cwait f) s s ∧ Falls (.clk f) s s) ∧
    (s.g.groupExec f.g = true →
      GivesScal (.clk f) s (nextPc (.clk f) s) f.d.scalNum ⟨s.g.retired, 0⟩ ∧
      (let j := s.n32 f.a
       (s.t.lin ≤ j ∨ task.teams ≤ j → Traps (.dwait f) s .operand 0 (.generic 0) (s.g.execLanes f.g)) ∧
       (j < s.t.lin → j < task.teams → (j ∈ task.retired → done (.dwait f)) ∧ (j ∉ task.retired → Waits (.dwait f) s s 25))) ∧
      (∀ n : Fin 64, f.a = .scal n →
        let k := taskKey s.g.asid (s.g.sval n.val)
        (k ∈ s.t.children → (s.task k).live = true → Waits (.cwait f) s s 25) ∧
        (k ∈ s.t.children → (s.task k).live = false → (s.task k).state = 3 → done (.cwait f)) ∧
        (k ∉ s.t.children ∨ ((s.task k).live = false ∧ (s.task k).state ≠ 3) →
          Traps (.cwait f) s .operand 0 (.generic 0) (s.g.execLanes f.g))) ∧
      ((∀ n, f.a ≠ .scal n) →
        ((∀ k ∈ s.t.children, (s.task k).live = false) → done (.cwait f)) ∧
        ((∃ k ∈ s.t.children, (s.task k).live = true) → Waits (.cwait f) s s 25)))

/-- Child tasks, and waits for tasks and teams. -/
def Obligations.ChildrenAndWaits : Prop := Claim.ChildTasks ∧ Claim.TaskWaits

/-- The launcher's records (R298 to R300, R303): the queue that is next has the highest level of those from which a record may be taken; its
record is taken in order, and a bad one stops it, HEAD staying on it, with FADDR zero unless an address failed (the model's choices, log
entries 108 and 109); a `nop` completes, a wait completes when its word has reached its value and is read
again else, a signal writes its value once every earlier record has completed, a graph starts with its base and its number of tasks. -/
def Claim.LaunchRecords : Prop :=
  ∀ (s : State) (q : Nat) (r : QRec), s.owned = [] → s.refresh = [] →
    let x := s.queue q
    let taken := fun (t : State) => (t.queue q).head = x.head + 1
    let gone := fun (t : State) => ∀ y ∈ (t.queue q).recs, y.index ≠ r.index
    let s0 := s.lxNote x.asid (x.recAddr x.head)
    let noted := fun (u t : State) => t = { u with counts := t.counts, tlb := t.tlb, l1tlb := t.l1tlb, walks := t.walks, waited := t.waited }
    (s.winner = some q → ∃ y, (q, y) ∈ s.queues ∧ s.canTake y = true ∧ ∀ p ∈ s.queues, s.canTake p.2 = true → p.2.prio.toNat ≤ y.prio.toNat) ∧
    (s.winner = some q → s.readRec x = .ok r → r.index = x.head →
      (r.kind = 0 → Answers (.recordNop q) s fun t => taken t ∧ gone t ∧ MemoryKept s t) ∧
      (r.kind = 1 → s.waitingRec q 1 = none → Answers (.recordGraph q) s fun t => taken t ∧
        (r.serial = true → x.recs ≠ [] → (∀ y ∈ x.recs, y.index ≠ r.index) → noted (s.takeRec q r) t) ∧
        (t.graphCtr = s.graphCtr + 1 → let g := t.graph t.graphCtr; g.base = r.addr ∧ g.ntask = r.ntask ∧ g.queue = q ∧ g.asid = x.asid)) ∧
      (r.kind = 2 → Answers (.recordWait q) s fun t => ∀ v, (s0.lxNote x.asid r.addr).lxRead x.asid r.addr 8 = some v → taken t ∧
        (r.value.toNat ≤ v → gone t) ∧ (v < r.value.toNat → ∃ y ∈ (t.queue q).recs, y.index = r.index ∧ y.kind = 2)) ∧
      (r.kind = 3 → s.waitingRec q 3 = none → Answers (.recordSignal q) s fun t =>
        ((s0.lxLoc x.asid true r.addr).isSome = true → taken t ∧
          (x.recs = [] → gone t ∧ MemoryKept (s0.lxWrite x.asid r.addr 8 r.value.toNat) t)) ∧
        (x.recs ≠ [] → (∀ y ∈ x.recs, y.index ≠ r.index) → noted (s.takeRec q r) t))) ∧
    (∀ e, s.winner = some q → s.readRec x = .error e → s.waitingRec q 1 = none → s.waitingRec q 3 = none →
      ∀ i ∈ [Instr.recordNop q, .recordGraph q, .recordWait q, .recordSignal q],
        Answers i s fun t => noted (s.putQueue q { x with err := e.1, faddr := e.2 }) t) ∧
    (∀ v, x.recs.find? (fun r => r.kind == 2) = some r → (s.lxNote x.asid r.addr).lxRead x.asid r.addr 8 = some v →
      Answers (.waitRecordReread q) s fun t =>
      (r.value.toNat ≤ v → gone t) ∧
      (v < r.value.toNat → ∃ tag, noted (s.putQueue q { x with
        recs := x.recs.map fun y => if y.index == r.index then { r with began := true, tries := r.tries + 1, tag := tag } else y }) t))

/-- The launcher's tasks (R305 to R308, R311): a task that fails a check is refused without placing a team, one that passes has its next
team placed; the oldest entry of the overflow's highest level enters the ready queue while a place is free; a team whose groups have all
ended ends; a task whose teams have all retired retires, unless another due retirement comes before it (the model's choice, log entry 86).
Where in a core's scratchpad a team is placed is the model's choice (log entry 58). -/
def Claim.LaunchTasks : Prop :=
  ∀ (s : State) (k core team : Nat), s.owned = [] → s.refresh = [] →
    (∀ e, s.headTask = some k → (s.task k).checked = false → s.checkTask (s.task k) = .error e →
      Answers (.teamPlacement core) s fun t => t.groups = s.groups ∧ (t.task k).live = false ∧ (t.task k).state = 4 ∧
        (t.task k).fault = some (e.1, e.2.1) ∧ (∀ y ∈ t.ready, y.2 ≠ k)) ∧
    (∀ base lin, s.headTask = some k → (s.task k).checked = true → (s.task k).pair = false → (s.task k).cores = false →
      s.fitsOn k (s.task k) core = some base → (s.task k).nextLin = some lin → Answers (.teamPlacement core) s fun t =>
        (t.task k).state = 2 ∧ (t.task k).placed = (s.task k).placed + 1 ∧ t.teamCtr = s.teamCtr + 1 ∧
        (t.team t.teamCtr).task = k ∧ (t.team t.teamCtr).lin = lin ∧ (t.team t.teamCtr).core = core ∧ (t.team t.teamCtr).base = base ∧
        (t.team t.teamCtr).live = true) ∧
    (∀ e, s.overflowHead = some e → s.ready.length < Config.readyMax →
      e ∈ s.overflow ∧ (∀ y ∈ s.overflow, y.level ≤ e.level) ∧
      exec .readyOverflowMove s = .next { s with ready := s.ready ++ [(e.level, e.task)], overflow := s.overflow.erase e }) ∧
    (s.overflow = [] ∨ Config.readyMax ≤ s.ready.length → exec .readyOverflowMove s = .next s) ∧
    ((s.team team).live = true → (s.team team).allEnded = true → Answers (.teamEnd team) s fun t =>
      (t.team team).live = false ∧ (∀ a ∈ t.armed, a.team ≠ team) ∧ ∀ y ∈ t.rings, y.cmd.team ≠ team) ∧
    (s.retiringTask = none → s.retireDue k = true → s.retiresFirst k = true → Answers (.taskRetire k) s fun t =>
      (t.task k).state = 3 ∧ ((s.task k).succ = [] → (t.task k).live = false)) ∧
    (s.retiringTask = none → s.retireDue k = false ∨ s.retiresFirst k = false →
      Answers (.taskRetire k) s fun t => t = { s with waited := t.waited })

/-- A step of the launcher waits while an access of it meets a line that an engine owns or a bank in its refresh window (R234, R271): as a
whole (the model's choice, log entry 19), changing nothing but the note and the count of that wait (R243), and else it does what it does
with no line owned and no window open. -/
def Claim.LauncherWaits : Prop :=
  ∀ (s : State) (q k core team : Nat),
    ∀ i ∈ [Instr.recordNop q, .recordGraph q, .recordWait q, .recordSignal q, .waitRecordReread q, .teamPlacement core, .teamEnd team, .taskRetire k],
      ∃ t u, exec i s = .next t ∧ exec i { s with owned := [], refresh := [] } = .next u ∧
        (t = { s with counts := t.counts, waited := t.waited } ∨
          { t with owned := [], refresh := [] } = { u with owned := [], refresh := [] })

/-- The launcher's events. -/
def Obligations.LauncherEvents : Prop := Claim.LaunchRecords ∧ Claim.LaunchTasks ∧ Claim.LauncherWaits

/-! ### Fabric and collectives (chapter 14) -/

/-- `cl.go`, `cl.ck` and `cl.abort` (R234, R343, R349, R350, R352 to R355): in a deterministic task they fault DETERMINISM. A call record
and route map that cannot be read and a call that fails its checks fault, and owned lines and refresh windows make them wait, `cl.go` also
256 collectives in flight and a full counter; else it takes the communicator's next sequence, writes its ticket and raises FAB, and the collective, which
owns the lines of its results, runs at once or waits for its gate, unless something for the sequence has already come (kept until the issue: the model's reading,
log entry 63); a record on a peer's page is read by a request over which the group issues nothing (log entry 111). `cl.ck` answers
how a sequence stands, with an acquire when it is over, and faults once with its error; `cl.abort` ends a sequence in progress and leaves
one that is over; a bad ticket faults. -/
def Obligations.Collectives : Prop :=
  ∀ (f : VForm) (s : State), Quiet s →
    let e := s.g.execLanes f.g
    let all := [Instr.clGo f, .clCk f, .clAbort f]
    let waits := fun (i : Instr) (w : Option Nat) => (w = some 17 → WaitsOwned i s) ∧ (w = some 16 → Waits i s s 16)
    (s.g.groupExec f.g = false → ∀ i ∈ all, Falls i s s) ∧
    (s.g.groupExec f.g = true → s.det = true → ∀ i ∈ all, Traps i s .determinism 0 (.generic 0) e) ∧
    (s.g.groupExec f.g = true → s.det = false →
      (Checks (.clGo f) s (s.recordLoc f (s.s64 f.a)) fun r => waits (.clGo f) r.2 ∧ (r.2 = none →
        let v := Call.ofBytes (s.readHome s.g r.1 64)
        waits (.clGo f) (s.callWait f v) ∧ (s.callWait f v = none → Checks (.clGo f) s (s.checkCall f v) fun c =>
          let room := (s.colls.filter fun x => x.core == s.g.core && x.status == 0).length < 256
          let ticket : TVal := ⟨BitVec.ofNat 64 (c.comm + 2 ^ 12 * c.seq.toNat), 0⟩
          (¬ room → Waits (.clGo f) s s 17) ∧
          (room → s.g.counterFull [.fab] = true → Waits (.clGo f) s s 15) ∧
          (room → s.g.counterFull [.fab] = false → FallsWith (.clGo f) s fun x =>
            OthersKept s x ∧ MemoryKept s x ∧ ScalSet s x f.d.scalNum ticket ∧ c.seq = (s.comm c.comm).nextseq ∧
            (x.comm c.comm).nextseq = (s.comm c.comm).nextseq + 1 ∧
            (r.1.isPeer = true → ∃ p, x.g.loads = s.g.loads ++ [p] ∧ p.holds = true) ∧
            (r.1.isPeer = false → (∀ n ∈ s.notices, n.comm = c.comm → n.seq ≠ c.seq) → (∀ p ∈ s.offers, p.comm = c.comm → p.seq ≠ c.seq) →
              (∀ p ∈ s.credits, p.comm = c.comm → p.seq ≠ c.seq) →
              SetsScal s x { s.g with inflight := s.g.inflight.raise [.fab] } f.d.scalNum ticket ∧
              (∀ o ∈ s.bufOwned c 1 ++ s.bufOwned c 2, o ∈ x.owned) ∧
              ∃ y ∈ x.colls, y.comm = c.comm ∧ y.seq = c.seq ∧ y.status = 0 ∧ y.running = c.gate.isNone ∧ y.bufs = c.bufs ∧ y.nodes = c.nodes))))) ∧
      ∀ i ∈ [Instr.clCk f, .clAbort f], waits i (s.ticketWait f) ∧ (s.ticketWait f = none → Checks i s (s.ticket f true) fun t =>
        let young := ((s.comm t.1).nextseq - t.2).toNat ≤ 4096
        let known := fun (st : Nat) => ∃ c, s.coll t.1 t.2 = some c ∧ c.status = st ∧ young
        (i = .clCk f →
          (∀ r, ((r = 0 ∨ r = 1 ∨ r = 2) ∧ known r) ∨ (r = 3 ∧ known 3 ∧ ∀ c, s.coll t.1 t.2 = some c → c.told = true) ∨
              (r = 4 ∧ (s.coll t.1 t.2 = none ∨ ¬ young)) →
            FallsWith i s fun x => x = { s with groups := x.groups, l1 := x.l1, ctxCores := x.ctxCores } ∧ OthersKept s x ∧
              SetsScal s x { s.g with l1Floor := x.g.l1Floor, newer := x.g.newer } f.d.scalNum ⟨BitVec.ofNat 64 r, 0⟩ ∧
              (r = 1 ∨ r = 2 → x.g.l1Floor = s.l1Ctr + 1)) ∧
          (∀ c, s.coll t.1 t.2 = some c → c.status = 3 → young → c.told = false →
            Traps i s (c.code.getD .collMismatch) 0 (.raw c.finfo) e)) ∧
        (i = .clAbort f →
          ((∀ c, s.coll t.1 t.2 = some c → c.status ≠ 0) → Falls i s s) ∧
          (∀ c, s.coll t.1 t.2 = some c → c.status = 0 → FallsWith i s fun x => MemoryKept s x ∧
            (∀ y ∈ x.colls, y.comm = t.1 → y.seq = t.2 → y.status = 2) ∧ ∀ o ∈ x.owned, o.cmd ≠ c.cmd))))

/-- `awr` and `cl.tpl` (R352, R356 to R358): in a deterministic task they fault DETERMINISM. `awr` writes the eight words of the record of
the team's barrier, of an asynchronous barrier or of a pending step of a ticket to eight scalars, and faults for a bad operand. `cl.tpl`
frees a slot, or loads a template whose nodes are well formed, whose counts of predecessors are right and which has no cycle, with status
0, answers 1 when there is no room, and names a node that is not so with status 2; a slot that is in use, or belongs to another context,
answers 3 and is left as it is; a bad slot and a bad address fault, and owned lines make it wait. -/
def Claim.RecordsAndTemplates : Prop :=
  ∀ (f : VForm) (s : State), Quiet s →
    let e := s.g.execLanes f.g
    let status := fun (x : State) (v : DWord) => Falls (.clTpl f) s (x.setS f.d.scalNum ⟨v, 0⟩)
    let gives := fun (ws : List DWord) => Falls (.awr f) s (s.setWords f.d.scalNum ws)
    let waits := fun (i : Instr) (w : Option Nat) => (w = some 17 → WaitsOwned i s) ∧ (w = some 16 → Waits i s s 16)
    (s.g.groupExec f.g = false → Falls (.awr f) s s ∧ Falls (.clTpl f) s s) ∧
    (s.g.groupExec f.g = true → s.det = true →
      Traps (.awr f) s .determinism 0 (.generic 0) e ∧ Traps (.clTpl f) s .determinism 0 (.generic 0) e) ∧
    (s.g.groupExec f.g = true → s.det = false →
      (s.s64 f.b = 0 → f.a.scalNum ≠ 0 → Traps (.awr f) s .operand 0 (.generic 0) e) ∧
      (s.s64 f.b = 0 → f.a.scalNum = 0 → gives [s.word0 0 s.t.barObj, word1 false false true 0 0 s.t.bar.gen.toNat,
        s.aliveGroups s.g.team, s.t.bar.arrived, oldestTag s.t.bar.waits, oldestTag s.t.bar.waits, 0, 0]) ∧
      (s.s64 f.b = 1 → (s.barOperand f (s.s64 f.a)).toBool = false → Traps (.awr f) s .operand 0 (.generic 0) e) ∧
      (∀ r, s.s64 f.b = 1 → s.barOperand f (s.s64 f.a) = .ok r → gives (s.barWords r)) ∧
      (2 ≤ (s.s64 f.b).toNat → waits (.awr f) (s.ticketWait f)) ∧
      (2 ≤ (s.s64 f.b).toNat → s.ticketWait f = none → Checks (.awr f) s (s.ticket f false) fun t => gives (s.ticketWords t (s.n32 f.c)) ∧
        (serialLt t.2.toNat (s.comm t.1).nextseq.toNat = true → (∀ c, s.coll t.1 t.2 = some c → c.pending.length ≤ s.n32 f.c) →
          gives (List.replicate 8 0))) ∧
      (let slot := s.n32 f.b
       (64 ≤ slot → Traps (.clTpl f) s .operand 0 (.generic 0) e) ∧
       (slot < 64 → s.s64 f.a = 0 → s.slotBusy slot = true → status s 3) ∧
       (slot < 64 → s.s64 f.a = 0 → s.slotBusy slot = false → status { s with tpls := Store.erase slot s.tpls } 0) ∧
       (slot < 64 → s.s64 f.a ≠ 0 → Checks (.clTpl f) s (s.recordLoc f (s.s64 f.a)) fun r => waits (.clTpl f) r.2 ∧ (r.2 = none →
          let reads := fun (x : State) (v : DWord) =>
            (r.1.isPeer = false → status x v) ∧
            (r.1.isPeer = true → FallsWith (.clTpl f) s fun z => ScalSet s z f.d.scalNum ⟨v, 0⟩ ∧ z.tpls = x.tpls ∧ MemoryKept s z ∧
              ∃ p, z.g.loads = s.g.loads ++ [p] ∧ p.holds = true)
          let h := s.readHome s.g r.1 64
          let nn := bitsAt h 0 16
          let legal := 1 ≤ nn ∧ nn ≤ 4096 ∧ 1 ≤ bitsAt h 16 8 ∧ bitsAt h 24 8 = 0 ∧ h < 2 ^ 64
          let held := s.tplWait f h (s.s64 f.a)
          (s.slotBusy slot = true → status s 3) ∧ (s.slotBusy slot = false → waits (.clTpl f) held) ∧
          (s.slotBusy slot = false → ¬ legal → reads s (2 + 65536 * 0xFFFF)) ∧
          (s.slotBusy slot = false → legal → held = none → 6144 < s.tplUsed slot + nn → reads s 1) ∧
          (s.slotBusy slot = false → legal → held = none → s.tplUsed slot + nn ≤ 6144 → Checks (.clTpl f) s
            (s.checkLanes s.g { acc := 0, size := 32, user := !s.g.mode } true (firstLane e) (some e) noExtra (nodeEntries nn (s.s64 f.a))) fun ls =>
            Checks (.clTpl f) s (s.readsLost f 32 ls) fun _ =>
            let read := nodesOf nn 0 (ls.map fun l => s.readHome s.g l.loc 32)
            (∀ i nodes, read = .error i ∨ (read = .ok nodes ∧ badNode nodes = some i) → reads s (BitVec.ofNat 64 (2 + 65536 * i))) ∧
            (∀ nodes, read = .ok nodes → badNode nodes = none →
              reads { s with tpls := Store.put slot ⟨s.g.asid, BitVec.ofNat 32 (bitsAt h 32 32), bitsAt h 16 8, nodes⟩ s.tpls } 0))))))

/-- A loaded template can run to its end (R356): when every node's count is that of the nodes that name it and no cycle keeps a node,
then every set of nodes that is closed under "all predecessors are in it" holds every node. -/
def Claim.TemplatesComplete : Prop :=
  ∀ nodes : List TplNode, badNode nodes = none →
    (∀ i n, nodes[i]? = some n → n.dep = (nodes.filter fun m => m.succ.contains i).length) ∧
    ∀ done : Nat → Prop,
      (∀ i, i < nodes.length → (∀ j n, nodes[j]? = some n → i ∈ n.succ → done j) → done i) → ∀ i, i < nodes.length → done i

/-- Call records and templates of collectives. -/
def Obligations.CollectiveTables : Prop := Claim.RecordsAndTemplates ∧ Claim.TemplatesComplete

/-- What the nodes of a collective read, combine and write (R344, R345, R347, R350): the elements of a chunk; an element read as it
stands at its home; one written, or combined with the destination as left operand, by OP for the element type; several in increasing
order. -/
def Claim.Combining : Prop :=
  ∀ (s : State) (c : Coll) (n : TplNode) (red : Bool) (b e m old v : Nat),
    let es := c.esize
    let t := (collTy c.ty).getD .i32
    let at_ := fun (k : Nat) => c.bufs.getD b 0 + BitVec.ofNat 64 (k * es)
    let x := t.toInt (BitVec.ofNat 64 old)
    let y := t.toInt (BitVec.ofNat 64 v)
    let z := combineElem c.ty c.op old v
    let k := (((n.cadd : Int) + n.cmul.toInt * c.myrank) % c.nchunk).toNat
    ((c.chunk n).1 = k * c.count / c.nchunk ∧ (c.chunk n).1 + (c.chunk n).2 = (k + 1) * c.count / c.nchunk) ∧
    (c.ty < 4 → old < 256 ^ es → v < 256 ^ es →
      (c.op = 0 → z = (old + v) % 256 ^ es) ∧ (c.op = 1 → t.toInt (BitVec.ofNat 64 z) = min x y) ∧
      (c.op = 2 → t.toInt (BitVec.ofNat 64 z) = max x y) ∧
      (c.op = 3 → z = old &&& v) ∧ (c.op = 4 → z = old ||| v) ∧ (c.op = 5 → z = old ^^^ v)) ∧
    (8 ≤ c.ty → c.ty ≤ 11 →
      (c.op = 0 → z = encodeMem t (finalRound t 0 0 false false false (addVal false (decodeMem t old) (decodeMem t v)).1).1) ∧
      (c.op = 1 → z = encodeMem t (minMaxVal false 1 false false (decodeMem t old) (decodeMem t v))) ∧
      (c.op = 2 → z = encodeMem t (minMaxVal true 1 false false (decodeMem t old) (decodeMem t v)))) ∧
    (∀ vs, State.collRead s c b e m = .ok vs → vs.length = m ∧ ∀ j, j < m →
      ∃ l, s.collLoc c false es (at_ (e + j)) = .ok l ∧ vs[j]? = some (s.homeValue l es)) ∧
    (∀ l, s.collLoc c true es (at_ e) = .ok l → (red = true → s.collLoc c false es (at_ e) = .ok l) → c.overlaps = false → HostUp s l es →
      ∃ u, State.collPut s c red b e v = .ok u ∧
        Stored s u es [(l, if red then combineElem c.ty c.op (s.homeValue l es) v else v, 0)]) ∧
    (∀ vs u, State.collWrite c red b e (v :: vs) s = .ok u ↔
      ∃ w, State.collPut s c red b e v = .ok w ∧ State.collWrite c red b (e + 1) vs w = .ok u) ∧
    (∀ src sb u, State.collMove c red src sb b e (m + 1) s = .ok u ↔
      ∃ w a, State.collGet s c src sb = .ok a ∧ State.collPut s c red b e a = .ok w ∧ State.collMove c red src (sb + 1) b (e + 1) m w = .ok u)

/-- Chunk data that arrives (R338, R345 to R347, R349): a write request, delivered once and answered: again from the filter when it is
known, not at all when it is too old; a full filter leaves it with its issuer. It is kept while its sequence is not yet issued (the model's
reading, log entry 63) or its RECV is not ready; data of another signature or length stops the sequence on every member before any byte is
applied; else a ready RECV writes or combines it, and completes with the last byte, or once the devices that hold its destination have
answered (log entry 111). -/
def Claim.ChunkArrivals : Prop :=
  ∀ (s : State) (p : ChunkFlit),
    let i := Instr.chunkFlitReceive p
    let port := s.rankPort p.comm p.seq p.src
    let src := p.dev.toNat
    let known := s.filterOf port src p.reqId
    let kept := fun (os : List ChunkFlit) => Answers i s fun t => MemoryKept s t ∧ t.colls = s.colls ∧ t.offers = os ∧
      (p.reqId ≠ 0 → t.filters = s.filters ++ [⟨port, src, p.reqId, 0⟩] ∧ ∃ f ∈ t.outbox, f.pkt = .response p.reqId 0)
    (s.recovery = true → exec i s = .next s) ∧
    (s.recovery = false →
      (∀ e, p.reqId ≠ 0 → known = some e → Answers i s fun t => MemoryKept s t ∧ t.offers = s.offers ∧ t.colls = s.colls ∧
        t.filters = s.filters ∧ ∃ f, t.outbox = s.outbox ++ [f] ∧ f.pkt = .response p.reqId (e.value.setWidth 128)) ∧
      (p.reqId ≠ 0 → known = none → s.filterFull port = true → Answers i s fun t => t = { s with counts := t.counts }) ∧
      (p.reqId ≠ 0 → known = none → s.filterFull port = false → inTime p.times = false →
        Answers i s fun t => t = { s with seqs := t.seqs, lastk := t.lastk }) ∧
      (p.reqId = 0 ∨ (known = none ∧ s.filterFull port = false ∧ inTime p.times = true) →
        let s1 := s.gotPacket p.comm p.seq p.src p.tag
        let s0 := if p.reqId = 0 then s1 else (s1.keepResponse port src p.reqId 0).respond port src p.reqId 0 0
        (s.coll p.comm p.seq = none →
          (serialLt p.seq.toNat (s.comm p.comm).nextseq.toNat = false → kept (s.offers ++ [p])) ∧
          (serialLt p.seq.toNat (s.comm p.comm).nextseq.toNat = true → kept s.offers)) ∧
        ∀ c, s.coll p.comm p.seq = some c →
          let stops := Answers i s fun t => (∀ y ∈ t.colls, y.comm = p.comm → y.seq = p.seq →
              y.status = 3 ∧ y.code = some .collMismatch ∧ y.finfo = collFinfo p.comm p.seq p.src) ∧
            ∀ r, r < c.nrank → r ≠ c.myrank → ∃ f ∈ t.outbox, f.pkt = .ending p.comm p.seq (.mismatch c.myrank p.src c.sig p.sig) ∧ f.dev = c.devOf r
          (c.status ≠ 0 → kept s.offers) ∧
          (c.status = 0 → p.sig ≠ c.sig → stops) ∧
          (c.status = 0 → p.sig = c.sig → c.recvOf p.src p.ordinal = none → kept s.offers) ∧
          (c.status = 0 → p.sig = c.sig → ∀ j, c.recvOf p.src p.ordinal = some j →
            let n := c.node j
            let x := c.state j
            let es := c.esize
            let total := (c.chunk n).2 * es
            let got := x.got + p.data.length
            let ready := c.running = true ∧ c.stopped = none ∧ x.pending = true ∧ (∀ q ∈ s.offers, q.same p = false) ∧ s0.mustAsk c j = false
            let first := (c.chunk n).1 + x.got / es
            let count := p.data.length / es
            let written := State.collWrite c n.red n.dst first (wordsOf es count p.data) s0
            ((c.chunk n).2 ≠ p.len → stops) ∧
            ((c.chunk n).2 = p.len →
              (¬ ready → x.done = false → kept (s.offers ++ [p])) ∧
              (x.done = true → kept s.offers) ∧
              (ready → p.data.length % es ≠ 0 ∨ total < got → kept s.offers) ∧
              (ready → p.data.length % es = 0 → got ≤ total →
                (∀ owned, written = .error (.wait owned) → Answers i s fun t => MemoryKept s t ∧ t.offers = p :: s.offers) ∧
                ∀ u, written = .ok u → Answers i s fun t => MemoryKept u t ∧ t.offers = s.offers ∧ ∃ y, t.coll p.comm p.seq = some y ∧
                  (got < total → (y.state j).got = got ∧ (y.state j).done = false) ∧
                  (got = total → (u.noteSpans c [⟨n.dst, first, count⟩]).peerElems c true (c.writes j) = [] → NodeCompletes c y j))))))

/-- What else arrives for collectives (R349, R350, R355, R360, R361): a packet of another signature stops the sequence and tells every
other rank (on every kind of packet: the model's reading, log entry 112); a notice ends a sequence in progress, or is kept for one not yet
issued (the model's reading, log entry 63); an open gate starts a collective; a switch aborts one of its context; a deadline that passes
is noted once; a probe is answered with the state of the sequence here; the answer that a walk waits for, or the end of its time, makes it
probe the next rank or name the late one in a record, and any other changes nothing. A communicator that is not set up answers no probe
(the model's reading, log entry 64). -/
def Claim.CollectiveArrivals : Prop :=
  ∀ (s : State) (comm : Nat) (seq : Word) (src : Sender) (tag : DWord) (node : Nat),
    let closed := fun (st : Nat) (t : State) => ∀ y ∈ t.colls, y.comm = comm → y.seq = seq → y.status = st
    let mismatch := fun (r : Nat) (t : State) => ∀ y ∈ t.colls, y.comm = comm → y.seq = seq →
      y.status = 3 ∧ y.code = some .collMismatch ∧ y.finfo = collFinfo comm seq r
    let agrees := fun (c : Coll) => src.sig = none ∨ src.sig = some c.sig
    let packet := fun (t : State) (k : Packet) (dev : BitVec 16) => ∃ f ∈ t.outbox, f.pkt = k ∧ f.dev = dev
    let heard := fun (t : State) => t = { s with seqs := t.seqs, lastk := t.lastk }
    let issued := serialLt seq.toNat (s.comm comm).nextseq.toNat
    (s.coll comm seq = none → issued = false →
      Answers (.abortNotice comm seq src none tag) s (fun t => t.notices = s.notices ++ [⟨comm, seq, src, .aborted⟩] ∧ MemoryKept s t) ∧
      ∀ r a b, Answers (.mismatchNotice comm seq src.rank r a b tag) s fun t =>
        t.notices = s.notices ++ [⟨comm, seq, ⟨src.rank, none⟩, .mismatch src.rank r a b⟩] ∧ MemoryKept s t) ∧
    ((s.comm comm).nrank = 0 → Answers (.probe comm seq src tag) s heard) ∧
    (let gives := fun (a : Answer) => Answers (.probe comm seq src tag) s fun t => MemoryKept s t ∧ t.colls = s.colls ∧
       ∃ f, t.outbox = s.outbox ++ [f] ∧ f.pkt = .answer comm seq a
     (s.comm comm).nrank ≠ 0 →
      (s.coll comm seq = none → gives (if issued then .done else .notIssued)) ∧
      ∀ c, s.coll comm seq = some c →
        (c.status ≠ 0 → gives .done) ∧
        (c.status = 0 → agrees c → c.running = true →
          gives (.blocked (((c.pending.filter fun i => (c.node i).kind != 2).map c.awaited).eraseDups.take 8))) ∧
        (c.status = 0 → agrees c → c.running = false → ∀ r, c.gate = some r →
          gives (.localParty (abarObj r.1 r.2) (lowestMissing (s.barParties r))))) ∧
    ∀ c, s.coll comm seq = some c →
      (c.status = 0 → ∀ g, src.sig = some g → g ≠ c.sig →
        ∀ i ∈ [Instr.abortNotice comm seq src none tag, .probeAnswer comm seq node src .done tag] ++
            (if (s.comm comm).nrank = 0 then [] else [.probe comm seq src tag]),
          Answers i s fun t => mismatch src.rank t ∧
            ∀ r, r < c.nrank → r ≠ c.myrank → packet t (.ending comm seq (.mismatch c.myrank src.rank c.sig g)) (c.devOf r)) ∧
      (c.status = 0 → agrees c → Answers (.abortNotice comm seq src none tag) s (closed 2)) ∧
      (c.status = 0 → ∀ r a b, Answers (.mismatchNotice comm seq src.rank r a b tag) s fun t => mismatch r t ∧
        ∀ y ∈ t.colls, y.comm = comm → y.seq = seq → y.clash = some (.mismatch src.rank r a b)) ∧
      (c.status = 0 → agrees c → ∀ late, Answers (.abortNotice comm seq src (some late) tag) s fun t => closed 3 t ∧
        ∀ y ∈ t.colls, y.comm = comm → y.seq = seq → y.code = some .watchdog ∧ y.finfo = collFinfo comm seq late) ∧
      (let opens := ∃ r, c.gate = some r ∧ (s.armedAt r.1 r.2).isSome = true ∧ (s.readBar r.1 r.2).phase ≠ c.gph
       (c.status = 0 → c.running = false → opens → Answers (.collectiveGateOpen comm seq) s fun t => MemoryKept s t ∧
          ∃ y, t.coll comm seq = some y ∧ y.running = true ∧ y.status = 0 ∧
            (c.nrank ≠ 1 → ∀ i, i < c.nodes.length → i < c.st.length → (c.node i).dep = 0 → (y.state i).ready = true)) ∧
       (¬ opens → exec (.collectiveGateOpen comm seq) s = .next s)) ∧
      (c.status = 0 → (∃ x ∈ s.switches, x.core = c.core ∧ x.outgoing = c.asid) → Answers (.switchCollectiveAbort comm seq) s (closed 2)) ∧
      (c.pending.contains node = true → node ∉ c.tripped → (s.comm comm).deadline ≠ 0 →
        Answers (.collectiveWatchdog comm seq node) s fun t => MemoryKept s t ∧ ∀ y ∈ t.colls, y.comm = comm → y.seq = seq → node ∈ y.tripped) ∧
      (c.pending.contains node = false ∨ node ∈ c.tripped ∨ (s.comm comm).deadline = 0 → exec (.collectiveWatchdog comm seq node) s = .next s) ∧
      (c.status ≠ 0 ∨ (∀ w ∈ c.walks, w.node = node → w.waiting ≠ src.rank) →
        (c.status ≠ 0 ∨ agrees c → ∀ a, Answers (.probeAnswer comm seq node src a tag) s heard) ∧
        exec (.probeTimeout comm seq node src.rank) s = .next s) ∧
      ∀ w, c.status = 0 → c.walks.find? (fun w => w.node == node && w.waiting == src.rank) = some w →
        let goes := fun (i : Instr) (s0 : State) (a : Option Answer) (tg : DWord) =>
          let seen := w.seen ++ (match a with
            | some (.blocked rs) => (rs.take 8).eraseDups.filter fun r => !w.seen.contains r
            | _ => [])
          let late := w.late ++ (match a with
            | some (.blocked _) | some .done => []
            | _ => [src.rank])
          let answers := w.answers ++ [(src.rank, a, tg)]
          let next := seen.find? fun r => r != c.myrank && !(answers.any fun x => x.1 == r)
          let known := fun (r : Nat) => max ((Store.get 0 s0.lastk (comm * 65536 + r)).setWidth 36).toNat
            (((answers.find? fun x => x.1 == r).map fun x => (x.2.2.setWidth 36).toNat).getD 0)
          let among := if late = [] then seen else late
          let port := if node = 65535 then s0.lowPort else s0.nodePort c node
          (∀ r, seen.length < 64 → next = some r → Answers i s fun t => MemoryKept s t ∧ packet t (.probe comm seq node) (c.devOf r) ∧
            ∃ y, t.coll comm seq = some y ∧ (⟨node, seen, late, answers, r⟩ : Walk) ∈ y.walks) ∧
          (64 ≤ seen.length ∨ next = none → (s.comm comm).wdact = false → among ≠ [] → Answers i s fun t => MemoryKept s t ∧
            (∀ y, t.coll comm seq = some y → ∀ v ∈ y.walks, v.node ≠ node) ∧
            ∃ named payload, RecordsOf s0 t (engSkipper port) 9 payload ∧ payload.extractLsb' 0 64 = s.word0 2 (stepObj comm node) ∧
              payload.extractLsb' 64 16 = BitVec.ofNat 16 named ∧ named ∈ among ∧
              ∀ r ∈ among, known named < known r ∨ (known named = known r ∧ named ≤ r)) ∧
          (64 ≤ seen.length ∨ next = none → (s.comm comm).wdact = true → Answers i s fun t => MemoryKept s t ∧
            ∀ y ∈ t.colls, y.comm = comm → y.seq = seq → y.status = 3 ∧ y.code = some .watchdog)
        (agrees c → ∀ a, goes (.probeAnswer comm seq node src a tag) (s.gotPacket comm seq src.rank tag) (some a) tag) ∧
        goes (.probeTimeout comm seq node src.rank) s none 0

/-- The work of a collective in progress (R256, R335, R338, R345 to R347, R350): a node whose predecessors are complete runs: a COPY moves
its chunk; a SEND leaves as a request once its receiver has granted the credit, and completes when that has been accepted; a SEND to this
member completes with its RECV; a RECV takes the data that waits for it; what lies on peer pages is first asked for (log entry 111). A
step that meets an owned line waits. The collective whose nodes are complete arrives on its barrier, writes its flag and ends with status
1; one that has stopped at a fault goes on when its page is mapped and ends with the fault when it cannot be. That a page that can be
mapped stops a collective, and another fault ends it, is the model's reading (log entry 62). -/
def Claim.CollectiveWork : Prop :=
  ∀ (s : State) (comm : Nat) (seq : Word) (node : Nat) (c : Coll), s.coll comm seq = some c → c.status = 0 → c.running = true →
    let n := c.node node
    let x := c.state node
    let ch := c.chunk n
    let i := Instr.collectiveNode comm seq node
    let ends := Instr.collectiveComplete comm seq
    let closed := fun (st : Nat) (t : State) => ∀ y ∈ t.colls, y.comm = comm → y.seq = seq → y.status = st
    let becomes := fun (t : State) (p : Coll → Prop) => ∃ y, t.coll comm seq = some y ∧ y.status = 0 ∧ p y
    let stays := exec i s = .next s
    let noted := fun (t : State) => t = { s with counts := t.counts, waited := t.waited }
    let finished := c.nrank = 1 ∨ c.allDone = true
    (x.pending = false → stays) ∧
    (x.pending = true → c.stopped = none → x.carry.sent = true → c.selfRecv node = none →
      Answers i s fun t => MemoryKept s t ∧ becomes t fun y => NodeCompletes c y node) ∧
    (x.pending = true → c.stopped = none → x.carry.sent = false → s.canRun c node = true → s.mustAsk c node = true →
      Answers i s fun t => MemoryKept s t ∧ becomes t fun y => (y.state node).carry.asked = true ∧ (y.state node).done = false) ∧
    (x.pending = true → c.stopped = none → x.carry.sent = false → n.kind = 2 → s.mustAsk c node = false →
      let moved := State.collMove c n.red n.src ch.1 n.dst ch.1 ch.2 s
      (moved = .error (.wait false) → stays) ∧
      (moved = .error (.wait true) → Answers i s fun t => noted t ∧ (1, c.cmd * 65536 + node) ∈ t.waited) ∧
      ∀ u, moved = .ok u → Answers i s fun t => MemoryKept u t ∧ becomes t fun y =>
        ((u.noteSpans c (c.reads node ++ c.writes node)).peerElems c true (c.writes node) = [] → NodeCompletes c y node) ∧
        ((u.noteSpans c (c.reads node ++ c.writes node)).peerElems c true (c.writes node) ≠ [] →
          (y.state node).carry.sent = true ∧ (y.state node).done = false)) ∧
    (x.pending = true → c.stopped = none → x.carry.sent = false → n.kind = 0 → c.peer n ≠ c.myrank →
      let granted := ∃ k ∈ s.credits, k.comm = c.comm ∧ k.seq = c.seq ∧ k.src = c.peer n ∧ k.ordinal = c.ordinal node
      (¬ granted → stays) ∧
      (granted → s.mustAsk c node = false → ∀ vs, s.collRead c n.src ch.1 ch.2 = .ok vs → Answers i s fun t => MemoryKept s t ∧
        (becomes t fun y => (y.state node).carry.sent = true ∧ (y.state node).done = false) ∧
        ∃ f k, f ∈ t.outbox.drop s.outbox.length ∧ f.pkt = .chunk k ∧ f.dev = c.devOf (c.peer n) ∧ f.reqId = k.reqId ∧
          k.reqId = Store.get 0 s.reqIds (s.nodePort c node) + 1 ∧ k.comm = comm ∧ k.seq = seq ∧ k.src = c.myrank ∧
          k.ordinal = c.ordinal node ∧ k.len = ch.2 ∧ k.sig = c.sig ∧ k.data = vs.flatMap fun v => leBytes c.esize v)) ∧
    (x.pending = true → c.stopped = none → x.carry.sent = false → n.kind = 0 → c.peer n = c.myrank →
      ((∀ j, c.selfRecv node = some j → (c.state j).pending = false) → stays) ∧
      ∀ j, c.selfRecv node = some j → (c.state j).pending = true → s.mustAsk c node = false →
        let m := c.node j
        ((c.chunk m).2 ≠ ch.2 → Answers i s (closed 3)) ∧
        ((c.chunk m).2 = ch.2 → ∀ u, State.collMove c m.red n.src ch.1 m.dst (c.chunk m).1 ch.2 s = .ok u →
          let u1 := (u.advance (engSkipper (u.nodePort c node))).noteSpans c (c.readsOf node ++ c.writes j)
          Answers i s fun t => MemoryKept u t ∧ becomes t fun y => u1.peerElems c true (c.writes j) = [] →
            (y.state node).done = true ∧ (y.state j).done = true)) ∧
    (x.pending = true → c.stopped = none → x.carry.sent = false → n.kind = 1 →
      ((∀ p ∈ s.offers, p.comm = comm → p.seq = seq → c.recvOf p.src p.ordinal ≠ some node) → stays) ∧
      (s.mustAsk c node = false → ∀ p, s.offerFor c node = some p →
        let es := c.esize
        let got := x.got + p.data.length
        let first := ch.1 + x.got / es
        let count := p.data.length / es
        let s0 := { s with offers := s.offers.erase p }
        (p.data.length % es ≠ 0 ∨ ch.2 * es < got → exec i s = .next s0) ∧
        (p.data.length % es = 0 → got ≤ ch.2 * es → ∀ u, State.collWrite c n.red n.dst first (wordsOf es count p.data) s0 = .ok u →
          Answers i s fun t => MemoryKept u t ∧ t.offers = s.offers.erase p ∧ becomes t fun y =>
            (got < ch.2 * es → (y.state node).got = got ∧ (y.state node).done = false) ∧
            (got = ch.2 * es → (u.noteSpans c [⟨n.dst, first, count⟩]).peerElems c true (c.writes node) = [] → NodeCompletes c y node)))) ∧
    (∀ e, c.stopped = some e → s.repair c.asid e = none →
      (x.pending = true → Answers i s fun t => closed 3 t ∧ MemoryKept s t) ∧ (finished → Answers ends s fun t => closed 3 t ∧ MemoryKept s t)) ∧
    (∀ e u, c.stopped = some e → s.repair c.asid e = some u → x.pending = true →
      Answers i s fun t => MemoryKept u t ∧ becomes t fun y => y.stopped = none) ∧
    (¬ finished → exec ends s = .next s) ∧
    (finished → c.stopped = none → c.alone = true → c.stage = 0 → s.peerElems c false [⟨0, 0, c.count⟩] = [] → c.bar = none → c.flag = 0 →
      ∀ u, State.collMove c false 0 0 1 0 c.count s = .ok u →
        (u.noteSpans c [⟨0, 0, c.count⟩, ⟨1, 0, c.count⟩]).peerElems c true [⟨1, 0, c.count⟩] = [] →
        Answers ends s fun t => closed 1 t ∧ MemoryKept u t) ∧
    (finished → c.stopped = none → 3 ≤ c.stage → Answers ends s fun t => closed 1 t ∧ MemoryKept s t) ∧
    (finished → c.stopped = none → c.alone = false → c.stage < 3 →
      (∀ b, c.bar = some b → c.flag = 0 →
        (s.ownedBefore c.cmd (.scratch b.1 b.2) 64 true = true → Answers ends s noted) ∧
        (s.ownedBefore c.cmd (.scratch b.1 b.2) 64 true = false → Answers ends s fun t => closed 1 t ∧
          OnlyStores s t [.scratch b.1 b.2] 32 ∧
          let old := s.readBar b.1 b.2
          ((s.armedAt b.1 b.2).isSome = true → ¬ (old.pending - 1 = 0 ∧ old.pendBytes = 0) →
            (t.readBar b.1 b.2).pending = old.pending - 1 ∧ (t.readBar b.1 b.2).phase = old.phase))) ∧
      (c.bar = none →
        (c.flag = 0 → Answers ends s fun t => closed 1 t ∧ MemoryKept s t) ∧
        (s.flagLoc c = .error (.wait true) → Answers ends s noted) ∧
        (∀ l, c.flag ≠ 0 → s.flagLoc c = .ok (some l) →
          (HostUp s l 8 → s.deadHost [⟨0, c.flag, l⟩] = none → Answers ends s fun t => Stored s t 8 [(l, c.flagv.toNat, 0)] ∧
            (l.isPeer = false → closed 1 t) ∧ (l.isPeer = true → becomes t fun y => y.stage = 3)) ∧
          ((s.deadHost [⟨0, c.flag, l⟩]).isSome = true → Answers ends s fun t => MemoryKept s t ∧
            ∀ y ∈ t.colls, y.comm = comm → y.seq = seq → y.status = 3 ∧ y.code = some .outcomeUnknown))))

/-- The events of collectives: what their nodes compute, what arrives for them, and their own work up to their end. -/
def Obligations.CollectiveEvents : Prop :=
  Claim.Combining ∧ Claim.ChunkArrivals ∧ Claim.CollectiveArrivals ∧ Claim.CollectiveWork

/-- Requests of peers (R234, R335, R336, R338, R339, R426): a request is performed once: a load answers the bytes, a store writes them, an
atomic does both; the same request again is answered from the filter and changes no memory; one that is too old gets no answer, nor does
one that reads uncorrectable data (the model's choice, log entry 80); one that meets a full filter stays with its issuer (the model's
reading, log entry 66); one that meets an owned line, or comes behind one of its device that does, is held here (log entry 113). A request
without response leaves again as it was, not while the peer withholds credit; one given up is told to the wait that covers it, to the load,
to the collective or to the copy command that sent it, with the first address of its access as FADDR (log entry 36); a filter entry
expires. -/
def Claim.PeerRequests : Prop :=
  ∀ (s : State) (port src pa size : Nat) (id cmp tag : DWord) (times : ReqTimes) (data : BitVec 128), port < 16 →
    let ask := fun (op : PeerOp) => Instr.peerRequest port src id times op pa size data cmp tag
    let leaves := fun (t : State) (p : Nat) (dev : BitVec 16) (pkt : Packet) => ∃ f, t.outbox = s.outbox ++ [f] ∧ f.port = p ∧ f.dev = dev ∧
      f.pkt = pkt ∧ f.src = s.device ∧ f.linkSeq = Store.get 0 s.linkSeqs p + 1 ∧ f ∈ t.replayBuf
    let answered := fun (t : State) (v : BitVec 128) => leaves t port (BitVec.ofNat 16 src) (.response id v)
    (∀ op, s.recovery = false → size ≤ op.maxSize → pa + size ≤ Config.hbmBytes →
      (∀ e, id ≠ 0 → s.filterOf port src id = some e → Answers (ask op) s fun t => MemoryKept s t ∧ t.filters = s.filters ∧
        answered t (e.value.setWidth 128)) ∧
      (id ≠ 0 → s.filterOf port src id = none → s.filterFull port = true → Answers (ask op) s fun t => t = { s with counts := t.counts }) ∧
      (id ≠ 0 → s.filterOf port src id = none → s.filterFull port = false → inTime times = false →
        Answers (ask op) s fun t => t = { s with seqs := t.seqs }) ∧
      (id = 0 ∨ (s.filterOf port src id = none ∧ s.filterFull port = false ∧ inTime times = true) →
        let kept := fun (t : State) (v : BitVec 128) => answered t v ∧
          t.filters = if id = 0 then s.filters else s.filters ++ [⟨port, src, id, v.setWidth 64⟩]
        let old := leValue (s.hbm.bytes pa size)
        let held := s.isOwned (.hbm pa) size (!op.isLoad) = true ∨ s.inbox.any (follows (ask op)) = true
        (held → Answers (ask op) s fun t => t = { s with seqs := t.seqs, counts := t.counts, inbox := s.inbox ++ [ask op] }) ∧
        (¬ held → s.peerLost op pa size = true → Answers (ask op) s fun t => t = { s with seqs := t.seqs }) ∧
        (¬ held → s.peerLost op pa size = false →
          (op = .load → Answers (ask op) s fun t => MemoryKept s t ∧ kept t (BitVec.ofNat 128 old)) ∧
          (op = .store → Answers (ask op) s fun t => Stored s t size [(.hbm pa, data.toNat, 0)] ∧ kept t 0) ∧
          (∀ fn ty mode draw daz ftz, op = .atomic fn ty mode draw daz ftz →
            let o : AtomOp := { fn := fn.toNat, ty := ty, b := data.toNat % 2 ^ (8 * size), cmp := cmp.toNat % 2 ^ (8 * size), mode := mode.val
                                draw := draw.toNat, daz := daz, ftz := ftz }
            Answers (ask op) s fun t => Stored s t size [(.hbm pa, o.apply old, 0)] ∧ kept t (BitVec.ofNat 128 old))))) ∧
    exec (.filterEntryExpiry port src id) s = .next { s with filters := s.filters.filter fun e => !(e.port == port && e.src == src && e.id == id) } ∧
    (∀ r, id ≠ 0 → s.allReqs.find? (Req.due port id) = some r →
      let p := s.reqPort r
      (s.noCredit.contains p = true → exec (.retransmitTimeout port id) s = .next s) ∧
      (s.noCredit.contains p = false → Answers (.retransmitTimeout port id) s fun t => MemoryKept s t ∧
        (∀ q ∈ t.allReqs, q.named port id = true → ∃ q0 ∈ s.allReqs, q = { q0 with tries := q.tries } ∧ q.tries = min (q0.tries + 1) (max 7 q0.tries)) ∧
        ∃ f ∈ t.outbox.drop s.outbox.length, f.port = p ∧ f.dev = r.dev ∧ f.reqId = r.id ∧ f.first = r.first ∧
          (r.chunk = none → f.pkt = .request r.id r.op r.pa r.size r.data r.cmp) ∧
          ∀ k, r.chunk = some k → ∃ tag, f.pkt = .chunk { k with tag := tag })) ∧
    (id = 0 ∨ s.allReqs.any (Req.due port id) = false → exec (.retransmitTimeout port id) s = .next s) ∧
    (let acked := fun (g : Group) => (g.acks.flatMap fun a => a.reqs).any fun r => r.named port id
     let loading := fun (g : Group) => (g.loads.flatMap fun l => l.reqs).any fun r => r.named port id
     (∀ k a rest r, s.groups.find? (fun p => acked p.2) = some (k, s.group k) → GroupsWf s →
      (s.group k).acks = a :: rest → a ∉ rest → a.reqs = [r] → r.named port id = true → (s.group k).ended = false →
      let lost : Loss := ⟨.path .stg, .outcomeUnknown, r.ea, reqFinfo r.acc id⟩
      (s.ackFree k a = true → Answers (.outcomeUnknown port id) s fun t => MemoryKept s t ∧ (t.group k).acks = rest ∧
        (t.group k).inflight = (s.group k).inflight.lower a.paths ∧ lost ∈ (t.group k).lost) ∧
      (s.ackFree k a = false → Answers (.outcomeUnknown port id) s fun t => MemoryKept s t ∧ (t.group k).lost = (s.group k).lost ∧
        (t.group k).inflight = (s.group k).inflight ∧
        ∃ b, (t.group k).acks = b :: rest ∧ b.reqs = [] ∧ b.paths = a.paths ∧ b.serial = a.serial ∧ b.home = true ∧ lost ∈ b.lose)) ∧
     (∀ k l rest r, (∀ p ∈ s.groups, acked p.2 = false) → s.groups.find? (fun p => loading p.2) = some (k, s.group k) → GroupsWf s →
      (s.group k).loads = l :: rest → l ∉ rest → l.reqs = [r] → r.named port id = true → l.bad = none →
      Answers (.outcomeUnknown port id) s fun t => MemoryKept s t ∧ ∃ x, (t.group k).loads = { l with reqs := [], bad := some x } :: rest ∧
        x.1 = (if id = 0 then .dataLost else .outcomeUnknown) ∧ x.2.1 = r.ea) ∧
     ((∀ p ∈ s.groups, acked p.2 = false ∧ loading p.2 = false) →
      (∀ c, s.colls.find? (fun c => c.reqs.any fun r => r.named port id) = some c →
        (id ≠ 0 → Answers (.outcomeUnknown port id) s fun t => MemoryKept s t ∧ ∀ y ∈ t.colls, y.comm = c.comm → y.seq = c.seq →
          y.status = 3 ∧ y.code = some .outcomeUnknown) ∧
        (id = 0 → c.stopped = none → Answers (.outcomeUnknown port id) s fun t => MemoryKept s t ∧ ∀ y ∈ t.colls, y.comm = c.comm → y.seq = c.seq →
          ∃ e, y.stopped = some e ∧ e.code = .dataLost)) ∧
      ∀ c, (∀ y ∈ s.colls, (y.reqs.any fun r => r.named port id) = false) →
        (s.copies ++ s.rings.map fun r => r.cmd).find? (fun c => c.carry.reqs.any fun r => r.named port id) = some c →
        (id ≠ 0 → Answers (.outcomeUnknown port id) s fun t => MemoryKept s t ∧ ∃ l, l.code = .outcomeUnknown ∧
          (t.group c.grp).copyLost = (s.group c.grp).copyLost ++ [(c.id, l)])))

/-- The link (R332 to R334, R338, R346, R349, R363, R418, R421): a flit is counted, its acknowledgement credit and its credit are taken, a
credit of another signature stopping its sequence (log entry 112), or it is asked for again; in recovery none is answered; a flit asked
for is sent again as it was; a lane that fails is replaced once, a port that loses a second or is down takes no part any more, and a
record and the device interrupt of both hosts say so. The contents of that record, and that both hosts hear of it, are the model's reading
(log entries 24 and 40). -/
def Claim.Links : Prop :=
  ∀ (s : State) (port : Nat), port < 16 → port ∉ s.portsDown →
    let told := fun (t : State) => Records s t (engPort port) 0x0A ∧ ∀ h, h < 2 → s.hostDown.contains h = false → (h, 63) ∈ t.irqs
    let down := fun (t : State) => t = { logged s t with portsDown := port :: s.portsDown, irqs := t.irqs } ∧ told t
    (∀ b n h c, s.recovery = true → exec (.flitReceive port b n h c) s = .next s) ∧
    (∀ n h c, s.recovery = false → Answers (.flitReceive port false n h c) s fun t =>
      t = { s with outbox := s.outbox ++ [{ port := port, dev := s.device, tag := 0, pkt := .resend h.linkSeq }], counts := t.counts }) ∧
    (∀ n h c y, s.recovery = false → s.coll c.comm c.seq = some y → y.status = 0 → c.sig ≠ y.sig →
      Answers (.flitReceive port true n h (some c)) s fun t => ∀ z ∈ t.colls, z.comm = c.comm → z.seq = c.seq →
        z.status = 3 ∧ z.code = some .collMismatch) ∧
    (∀ n h k, s.recovery = false → (∀ c y, k = some c → s.coll c.comm c.seq = some y → y.status = 0 → c.sig = y.sig) →
      Answers (.flitReceive port true n h k) s fun t =>
      t = { s with seqs := t.seqs, counts := t.counts, noCredit := t.noCredit, lastk := t.lastk, credits := t.credits } ∧
      (port ∈ t.noCredit ↔ h.ack = 0) ∧ (k = none → t.credits = s.credits ∧ t.lastk = s.lastk) ∧
      (∀ c, k = some c → (∀ y ∈ s.coll c.comm c.seq, y.status = 0) → c ∈ t.credits)) ∧
    (∀ n f, s.replayBuf.find? (fun f => f.port == port && f.linkSeq == n) = some f → Answers (.linkReplay port n) s fun t =>
      t = { s with outbox := s.outbox ++ [f], counts := t.counts }) ∧
    (∀ n, (∀ f ∈ s.replayBuf, f.port = port → f.linkSeq ≠ n) → exec (.linkReplay port n) s = .next s) ∧
    (∀ lane, lane < 8 → port ∉ s.lanesLost → Answers (.laneRetrain port lane) s fun t =>
      t = { logged s t with lanesLost := port :: s.lanesLost, irqs := t.irqs } ∧ told t) ∧
    (∀ lane, lane < 8 → port ∈ s.lanesLost → Answers (.laneRetrain port lane) s down) ∧
    Answers (.portDown port) s down

/-- The fabric's events. -/
def Obligations.LinkEvents : Prop := Claim.PeerRequests ∧ Claim.Links

/-! ### Traps, system registers and debugging (chapter 15) -/

/-- Taking a trap (R365, R366, R369, R391): a group with a handler whose trap registers are not locked enters it; FINFO of the generic
layout holds the detail, the opcode, the function and the lowest lane. With the registers locked the group ends, and no other, its trap
registers those of the first fault. Without a handler every group of its team ends. A code for which the context asks for a dump makes the
group wait for the dump before its handler. An opcode that is not assigned traps ILLEGAL. That CAUSE too stays the first fault's (R369,
where R365's text sets it before its test) is the model's reading (log entry 21). -/
def Obligations.TrapEntry : Prop :=
  ∀ (s : State) (i : Instr) (code : FCode) (faddr : DWord) (info : Info) (lanes : Lanes),
    let t := s.raise i code faddr info lanes
    (Handled s code → ∃ finfo, Enters s t code faddr finfo lanes ((instrHead i).2.2 == 24) false ∧
      (∀ v, info = .raw v → finfo = v) ∧
      (∀ d, info = .generic d → finfo.extractLsb' 0 8 = d ∧ finfo.extractLsb' 8 8 = BitVec.ofNat 8 (instrHead i).1 ∧
        finfo.extractLsb' 16 4 = (instrHead i).2.1 ∧ finfo.extractLsb' 27 37 = 0 ∧
        (lanes = 0 → finfo.extractLsb' 20 7 = 0x7F) ∧
        ∀ l, l < 96 → lanes.getLsbD l = true → (∀ j, j < l → lanes.getLsbD j = false) → finfo.extractLsb' 20 7 = BitVec.ofNat 7 l)) ∧
    (GroupsWf s → s.g.resident = true → s.g.ended = false → (s.ctx s.g.asid).dump.getLsbD code.num = false →
      (s.g.cause.getLsbD 8 = true → t.g.ended = true ∧ t.g.doubled = true ∧ t.g.cause = s.g.cause ∧ t.g.epc = s.g.epc ∧ t.g.faddr = s.g.faddr ∧
        t.g.finfo = s.g.finfo ∧ ∀ k, k ≠ s.cur → (t.group k).ended = (s.group k).ended) ∧
      (s.g.cause.getLsbD 8 = false → s.g.trapBase = 0 →
        ∀ k, (s.group k).resident = true → (s.group k).team = s.g.team → (t.group k).ended = true)) ∧
    ((s.ctx s.g.asid).dump.getLsbD code.num = true → MemoryKept s t ∧ OthersKept s t ∧ t.g.waiting = .dump ∧ t.g.pc = s.g.pc ∧
      t.g.mode = s.g.mode ∧ t.g.cause = s.g.cause ∧
      ∃ tr, t.g.dumpTrap = some tr ∧ tr.code = code ∧ tr.faddr = faddr ∧ tr.mask = lanes) ∧
    ∀ w, Handled s .illegal → ∃ u finfo, exec (.unassignedOpcode w) s = .next u ∧
      Enters s u .illegal 0 finfo s.g.mask (wordLen w == 24) false

/-- `trap` and `rfe` (R364, R370, R371): `trap` traps SW_TRAP with its immediate in FINFO in its executing lanes, and does nothing when
there is none; `rfe` faults PRIVILEGE in user mode, and in supervisor mode restores the saved mask without exited lanes and the saved
mode, unlocks the trap registers, and goes on at EPC, or behind a `trap`. -/
def Obligations.TrapAndReturn : Prop :=
  ∀ (f : VForm) (s : State), Quiet s →
    let g := s.g
    let e := g.execLanes f.g
    (e = 0 → Falls (.trap f) s s) ∧
    (∀ imm, e ≠ 0 → f.a = .imm imm → Handled s .swTrap → ∃ t, exec (.trap f) s = .next t ∧
      Enters s t .swTrap 0 (imm.setWidth 64) e ((instrHead (.trap f)).2.2 == 24) false) ∧
    (g.mode = false → Traps (.rfe f) s .privilege 0 (.generic 0) g.mask) ∧
    (g.mode = true → g.groupExec f.g = false → Falls (.rfe f) s s) ∧
    (g.mode = true → g.groupExec f.g = true → ∃ x, x = { s with groups := x.groups } ∧ OthersKept s x ∧
      x.g = { g with mask := x.g.full, full := x.g.full, mode := g.cause.getLsbD 7, cause := x.g.cause, inHandler := false } ∧
      (∀ i, i < 96 → x.g.full.getLsbD i =
        ((if i < 32 then g.ema.getLsbD i else if i < 64 then g.emb.getLsbD (i - 32) else g.emc.getLsbD (i - 64)) && !g.exited.getLsbD i)) ∧
      (∀ i, i < 64 → x.g.cause.getLsbD i = (i != 8 && g.cause.getLsbD i)) ∧
      Completes (.rfe f) s x (if g.cause.getLsbD 6 then g.epc + (if g.cause.getLsbD 9 then 24 else 12) else g.epc))

/-- `srd` and `swr` (R41 to R47, R192, R364, R366, R373): a read gives the register, per lane or to a scalar; a write that is legal reads
back, masked as the register says, and no other register changes; user mode faults PRIVILEGE on the trap registers, and its writes of
the others that it may not write do nothing; a reserved bit faults RESERVED, and a view that does not fit, a vector destination beyond the
view and a read of LANEID to a scalar OPERAND. FINFO reads zero in the bits that its layout under CAUSE.CODE reserves (R6; which layout a
collective's fault and the codes without one have is the model's choice, log entry 103); a write stores all of it, also the fields that
the layout marks RO (the model's choice, log entry 102). -/
def Obligations.SystemRegisters : Prop :=
  ∀ (f : VForm) (s : State), Quiet s →
    let g := s.g
    let e := g.execLanes f.g
    let code := bitsAt g.cause.toNat 0 6
    let shown := fun (v : DWord) => v &&& BitVec.ofNat 64 (2 ^ (
      if (5 ≤ code ∧ code ≤ 0xA) ∨ code = 0x15 then (if v.toNat % 16 = 15 then 64 else 32)
      else if code = 0xC then 13 else if code = 0x17 then 18
      else if code ∈ [0, 0x13, 0x14, 0x16] ∨ 0x18 ≤ code then 64 else 27) - 1)
    (let n := f.a.specialNum
     let fits := (∀ o ∈ f.d.vecOp (!narrowReg n), g.vecOk o = true) ∧ ¬ ((∃ d, f.d = .scal d) ∧ n = 0)
     (¬ fits → Traps (.srd f) s .operand 0 (.generic 0) g.mask) ∧
     (fits → g.mode = false → 0x18 ≤ n → n ≤ 0x1F → Traps (.srd f) s .privilege 0 (.generic 0) g.mask)) ∧
    (∀ n, f.a.specialNum = n → (g.mode = true ∨ ¬ (0x18 ≤ n ∧ n ≤ 0x1F)) →
      (∀ d : Fin 64, f.d = .scal d → n ≠ 0 →
        (g.groupExec f.g = true → GivesScal (.srd f) s (nextPc (.srd f) s) d.val ⟨s.sysReg s.cur n 0, 0⟩) ∧
        (g.groupExec f.g = false → Falls (.srd f) s s)) ∧
      (∀ d, f.d = .vec d → Readable s e (f.d.vecOp (!narrowReg n)) →
        GivesLanes (.srd f) s d.toNat (!narrowReg n) e fun i => ⟨s.sysReg s.cur n i, 0⟩)) ∧
    (∀ lane, ∀ r ∈ [(0x00, (BitVec.ofNat 64 lane : DWord)), (0x01, BitVec.ofNat 64 g.index), (0x10, g.retired), (0x11, g.dix), (0x18, g.trapBase),
        (0x19, g.cause), (0x1A, g.epc), (0x1B, g.ema), (0x1C, g.emb), (0x1D, g.emc), (0x1E, g.faddr), (0x1F, shown g.finfo), (0x20, g.viewV),
        (0x21, g.viewT), (0x22, g.viewA), (0x31, BitVec.ofNat 64 ((if g.mode then 1 else 0) + if g.dbg then 2 else 0))],
      s.sysReg s.cur r.1 lane = r.2) ∧
    (∀ n v, f.d.specialNum = n → s.s64 f.a = v →
      let writes := fun (w : DWord) => FallsWith (.swr f) s fun x => x = { s with groups := x.groups, ctxCores := x.ctxCores } ∧
        OthersKept s x ∧ x.sysReg x.cur n 0 = w ∧ (n ≠ 0x1F → x.g.finfo = s.g.finfo) ∧
        ∀ m lane, m ≠ n → (n = 0x19 → m ≠ 0x1F) → x.sysReg x.cur m lane = s.sysReg s.cur m lane
      let low := (v.setWidth 32).setWidth 64
      let bad := fun (code : FCode) => Traps (.swr f) s code 0 (.generic 0) e
      (g.mode = false → 0x18 ≤ n → n ≤ 0x1F → Traps (.swr f) s .privilege 0 (.generic 0) g.mask) ∧
      ((g.mode = true ∨ ¬ (0x18 ≤ n ∧ n ≤ 0x1F)) → g.groupExec f.g = false → Falls (.swr f) s s) ∧
      (g.mode = false → ¬ (0x18 ≤ n ∧ n ≤ 0x1F) → n ∉ [0x11, 0x20, 0x21, 0x22] → Falls (.swr f) s s) ∧
      (g.groupExec f.g = true →
        (n = 0x11 → writes v) ∧
        (n = 0x20 → (viewVFields v = false → bad .reserved) ∧ (viewVFields v = true → viewVFits v g.size = false → bad .operand) ∧
          (viewVFields v = true → viewVFits v g.size = true → writes v)) ∧
        (n = 0x21 → (viewTFields v = false → bad .reserved) ∧ (viewTFields v = true → viewTFits v g.size = false → bad .operand) ∧
          (viewTFields v = true → viewTFits v g.size = true → writes v)) ∧
        (n = 0x22 → (viewAFields v = false → bad .reserved) ∧ (viewAFields v = true → viewAFits v g.size = false → bad .operand) ∧
          (viewAFields v = true → viewAFits v g.size = true → writes v)) ∧
        (g.mode = true →
          (n ∈ [0x10, 0x18, 0x1A, 0x1E] → writes v) ∧
          (n = 0x1F → writes (shown v)) ∧ (n ∈ [0x1B, 0x1C, 0x1D] → writes low) ∧
          (n = 0x19 → (v.toNat < 2 ^ 11 → writes ((v &&& ~~~(0x400 : DWord)) ||| (g.cause &&& 0x400))) ∧ (2 ^ 11 ≤ v.toNat → bad .reserved)) ∧
          (∀ r ∈ [(0x28, 20), (0x29, 12), (0x2A, 31)], n = r.1 →
            (v.toNat % 2 ^ r.2 = 0 → canonical v = true → writes v) ∧ (¬ (v.toNat % 2 ^ r.2 = 0 ∧ canonical v = true) → bad .reserved)) ∧
          (n = 0x31 → (v.toNat < 4 → writes (BitVec.ofNat 64 (v.toNat % 2 + if g.dbg then 2 else 0))) ∧ (4 ≤ v.toNat → bad .reserved)) ∧
          (n = 0x38 → (v.toNat < 2 ^ 16 → writes v) ∧ (2 ^ 16 ≤ v.toNat → bad .reserved)) ∧
          (n ∉ [0x10, 0x11, 0x18, 0x19, 0x1A, 0x1B, 0x1C, 0x1D, 0x1E, 0x1F, 0x20, 0x21, 0x22, 0x28, 0x29, 0x2A, 0x31, 0x38] → Falls (.swr f) s s))))

/-- `halt`, `halt.team` and `resume` (R364, R374, R379, R380, R383, R392): without the privilege that its handle needs the instruction
faults, as it does for a handle that names no resident group of an attached context; `halt` leaves the group it names in chrysalis, behind
its last instruction when it is the issuing one, and `halt.team` every group of its team; `resume` faults for a reserved bit, does nothing
to a group that is not in chrysalis, and lets one that is go on, with all lanes unless it keeps the held ones. That a target is checked
before the guard is the model's reading (log entry 67). -/
def Obligations.HaltsAndResumes : Prop :=
  ∀ (f : VForm) (s : State) (k : Nat), Quiet s → GroupsWf s →
    let g := s.group k
    let e := s.g.execLanes f.g
    (srcScal f.a ≠ 0 → s.g.dbg = false → ∀ i ∈ [Instr.halt f, .haltTeam f, .resume f], Traps i s .privilege 0 (.generic 0) s.g.mask) ∧
    (∀ i ∈ [Instr.halt f, .haltTeam f], ∀ c a info m, s.haltWho f = .error (.trap c a info m) → Traps i s c a info m) ∧
    (s.g.groupExec f.g = false → s.haltWho f = .ok k → Falls (.halt f) s s ∧ Falls (.haltTeam f) s s) ∧
    (s.g.groupExec f.g = true → s.haltWho f = .ok k → g.resident = true → g.ended = false →
      ∀ r ∈ [(Instr.halt f, false), (.haltTeam f, true)], ∃ t, exec r.1 s = .next t ∧ MemoryKept s t ∧
        (t.group k).chrysalis = true ∧ (t.group k).held = g.held ∧ (t.group k).full = g.full ∧ t.g.pc = nextPc r.1 s ∧
        (g.chrysalis = false → (t.group k).chCause = if srcScal f.a = 0 then 0 else 2) ∧
        (r.2 = true → ∀ j, (s.group j).resident = true → (s.group j).ended = false → (s.group j).team = g.team → (t.group j).chrysalis = true) ∧
        (r.2 = false → ∀ j, j ≠ k → (t.group j).chrysalis = (s.group j).chrysalis)) ∧
    (Checks (.resume f) s (s.needTarget (s.sarg f.a)) fun _ =>
      (s.g.groupExec f.g = false → Falls (.resume f) s s) ∧
      (s.g.groupExec f.g = true → Checks (.resume f) s (s.targetOf (s.sarg f.a) e) fun j =>
        (4 ≤ (s.s64 f.b).toNat → Traps (.resume f) s .reserved 0 (.generic 0x73) e) ∧
        ((s.s64 f.b).toNat < 2 → (s.group j).chrysalis = false → Falls (.resume f) s s))) ∧
    (s.needTarget (s.sarg f.a) = .ok () → s.g.groupExec f.g = true → s.targetOf (s.sarg f.a) e = .ok k → g.chrysalis = true →
      (s.s64 f.b).toNat < 4 → FallsWith (.resume f) s fun x => MemoryKept s x ∧
        ((s.s64 f.b).getLsbD 0 = false → (x.group k).chrysalis = false ∧ (x.group k).held = 0 ∧ (x.group k).mask = g.full) ∧
        ((s.s64 f.b).getLsbD 0 = true → (g.held = 0 ∨ g.exited ||| g.held ≠ allLanes) → (x.group k).chrysalis = false ∧
          (x.group k).held = g.held ∧ (x.group k).mask = g.mask) ∧
        ((s.s64 f.b).getLsbD 1 = false → ∀ j, j ≠ k → x.group j = s.group j) ∧
        ((s.s64 f.b).getLsbD 1 = true → (s.s64 f.b).getLsbD 0 = false → ∀ j, (s.group j).resident = true → (s.group j).team = g.team →
          (x.group j).chrysalis = false))

/-- `ant.set`, `ant.get` and `evt` (R21, R364, R375, R378, R387): user mode without debug privilege faults on an antenna instruction; a
legal setting of antenna s[A] of the core, with COUNT 0, holds after the instruction; `ant.get` reads its six words; `evt` sends one
record with the low 32 bits of its second operand above its first, and waits while the buffer is full. That a setting holds from the next
instruction is the model's choice (log entry 2). -/
def Claim.AntennaSettings : Prop :=
  ∀ (f : VForm) (s : State), Quiet s →
    let n := (s.sarg f.a).toNat
    let b := srcScal f.b
    let a : Antenna := { ctl := s.g.sval b, comp := s.g.sval (b + 1), cmask := s.g.sval (b + 2), lanea := s.g.sval (b + 3)
                         laneb := s.g.sval (b + 4), count := 0 }
    (s.g.mode = false → s.g.dbg = false → ∀ i ∈ [Instr.antSet f, .antGet f], Traps i s .privilege 0 (.generic 0) s.g.mask) ∧
    ((s.g.mode = true ∨ s.g.dbg = true) → s.g.groupExec f.g = false → Falls (.antSet f) s s ∧ Falls (.antGet f) s s) ∧
    ((s.g.mode = true ∨ s.g.dbg = true) → s.g.groupExec f.g = true →
      (n ≤ 15 → a.fieldsOk n = true → s.mayWatch a.asid = true → ∃ t u, exec (.antSet f) s = .next t ∧
        Ends s (.antSet f) s u (nextPc (.antSet f) s) ∧ t = { u with ants := t.ants } ∧
        ∀ core m, m < 16 → t.antenna core m = if core = s.g.core ∧ m = n then a else s.antenna core m) ∧
      (n ≤ 15 → a.fieldsOk n = true → s.mayWatch a.asid = false → Traps (.antSet f) s .privilege 0 (.generic 0x72) (s.g.execLanes f.g)) ∧
      (n ≤ 15 → a.fieldsOk n = false → Traps (.antSet f) s .reserved 0 (.generic 0x74) (s.g.execLanes f.g)) ∧
      (n ≤ 15 → let c := s.antenna s.g.core n
        Falls (.antGet f) s (s.setScalars f.d.scalNum [c.ctl, c.comp, c.cmask, c.lanea, c.laneb, c.count])) ∧
      (15 < n → ∀ i ∈ [Instr.antSet f, .antGet f], Traps i s .operand 0 (.generic 0x74) (s.g.execLanes f.g))) ∧
    (s.g.groupExec f.g = false → Falls (.evt f) s s) ∧
    (s.g.groupExec f.g = true → s.jetFull (engDie s.g.engine) = true → Waits (.evt f) s s 29) ∧
    (s.g.groupExec f.g = true → s.jetFull (engDie s.g.engine) = false → FallsWith (.evt f) s fun x => x = logged s x ∧
      Records s x s.g.engine 0x11 ∧ ((s.ctx s.g.asid).tenant = none → ∃ r, (x.jetOf (engDie s.g.engine)).getLast? = some r ∧
        r.isSealed = false ∧ r.payload = (s.sarg f.b).setWidth 32 ++ s.sarg f.a))

/-- What the antennae of a core make of an instruction of a group (R375 to R377): a chain matches the executing lanes in which each of its
antennae is armed for the group's context, mode and lane and finds a value of its FIELD that meets its comparison, when the values of loads
return if it watches those, else when the instruction completes. The chain's last antenna counts the lanes or sends a record, or halts the
lanes, the group or its team, the widest halt among several. A debug group is not watched. An instruction shows itself when it retires, a
load when its data returns. -/
def Claim.AntennaMatches : Prop :=
  ∀ (s : State) (k : Nat) (o : Obs) (ex : Lanes) (pc : DWord) (sup atReturn : Bool),
    let g := s.group k
    let ant := s.antenna g.core
    let shows := fun (l : List (Option Nat × Nat)) (lane x : Nat) => (none, x) ∈ l ∨ (some lane, x) ∈ l
    let field := fun (m : Nat) => (ant m).ctl.toNat / 2 % 8
    let act := fun (m : Nat) => (ant m).ctl.toNat / 2 ^ 8 % 8
    let chained := fun (m : Nat) => (ant m).ctl.getLsbD 7
    let value := fun (m lane x : Nat) =>
      (field m = 0 → shows o.addrs lane x) ∧ (field m = 1 → shows o.stored lane x) ∧ (field m = 2 → shows o.loaded lane x) ∧
      (field m = 3 → shows o.flags lane x) ∧ (4 ≤ field m → x = pc.toNat)
    let meets := fun (m x : Nat) =>
      let y := x &&& (ant m).cmask.toNat
      let c := (ant m).comp.toNat &&& (ant m).cmask.toNat
      let cmp := (ant m).ctl.toNat / 2 ^ 4 % 8
      (cmp = 0 → y = c) ∧ (cmp = 1 → y ≠ c) ∧ (cmp = 2 → y < c) ∧ (cmp = 3 → c ≤ y) ∧
      (4 ≤ cmp → (ant m).comp.toNat ≤ x ∧ x < (ant m).cmask.toNat)
    let hits := fun (m lane : Nat) => (ant m).ctl.getLsbD 0 = true ∧ (ant m).ctl.extractLsb' 16 16 = g.asid ∧
      (sup = true → (ant m).ctl.getLsbD 11 = true) ∧
      (if lane < 64 then (ant m).lanea.getLsbD lane else (ant m).laneb.getLsbD (lane - 64)) = true ∧ ∃ x, value m lane x ∧ meets m x
    let ms := s.antMatches k o ex pc sup atReturn
    let t := s.antennae k o ex pc sup atReturn
    (∀ n m lanes, n ≤ m → (n = 0 ∨ chained (n - 1) = false) → (∀ j, n ≤ j → j < m → chained j = true) →
      ((m, lanes) ∈ ms ↔ m < 16 ∧ (chained m = false ∨ m = 15) ∧ lanes ≠ 0 ∧ ((∃ j, n ≤ j ∧ j ≤ m ∧ field j = 2) ↔ atReturn = true) ∧
        ∀ i, i < 96 → (lanes.getLsbD i = true ↔ ex.getLsbD i = true ∧ ∀ j, n ≤ j → j ≤ m → hits j i))) ∧
    (g.dbg = true → t = s) ∧
    (g.dbg = false →
      (∀ m lanes, (m, lanes) ∈ ms → act m = 0 → t.antenna g.core m =
        { ant m with count := BitVec.ofNat 64 (((ant m).count.toNat + (lanesOf lanes).length) % 2 ^ 48) }) ∧
      (∀ c m, m < 16 → (c ≠ g.core ∨ act m ≠ 0 ∨ ∀ lanes, (m, lanes) ∉ ms) → t.antenna c m = s.antenna c m) ∧
      (∀ p, ms = [p] → act p.1 = 1 → Records s t g.engine 0x0B) ∧
      ((∀ p ∈ ms, act p.1 < 2) → t.groups = s.groups) ∧
      (g.resident = true → g.ended = false → g.chrysalis = false →
        ((∃ p ∈ ms, act p.1 = 2) → (∀ p ∈ ms, act p.1 ≤ 2) → (t.group k).chrysalis = true ∧ (∀ j, j ≠ k → t.group j = s.group j) ∧
          ∀ i, i < 96 →
            ((t.group k).held.getLsbD i = true ↔ g.held.getLsbD i = true ∨ ∃ p ∈ ms, act p.1 = 2 ∧ p.2.getLsbD i = true) ∧
            ((t.group k).mask.getLsbD i = true ↔ g.mask.getLsbD i = true ∧ ∀ p ∈ ms, act p.1 = 2 → p.2.getLsbD i = false)) ∧
        ((∃ p ∈ ms, act p.1 = 3) → (∀ p ∈ ms, act p.1 ≤ 3) → (t.group k).chrysalis = true ∧ (t.group k).held = g.held ∧
          (t.group k).mask = g.mask ∧ ∀ j, j ≠ k → t.group j = s.group j) ∧
        ((∃ p ∈ ms, act p.1 = 4) → (∀ p ∈ ms, act p.1 ≤ 4) → GroupsWf s → ∀ j, (s.group j).resident = true → (s.group j).ended = false →
          (s.group j).team = g.team → (t.group j).chrysalis = true))) ∧
    (∀ f : VForm, s.g.groupExec f.g = true → ∃ x : State, x.ants = s.ants ∧ x.g.core = s.g.core ∧ x.g.asid = s.g.asid ∧
      x.g.dbg = s.g.dbg ∧
      exec (.clk f) s = .next ((x.antennae s.cur {} (s.g.execLanes f.g) s.g.pc s.g.mode false).heldCheck s.cur)) ∧
    (∀ p rest, g.loads = p :: rest → p.dst.places.any (s.mxWriteWaits k) = false → p.path ≠ some .spl →
      ∃ x : State, x.ants = s.ants ∧ (x.group k).core = g.core ∧ (x.group k).asid = g.asid ∧ (x.group k).dbg = g.dbg ∧
        exec (.loadDataReturn k) s = .next ((x.antennae k p.obs p.exec p.opc p.sup true).tryFree k))

/-- The antennae of a core, and the records of `evt`. -/
def Obligations.AntennaeAndEvents : Prop := Claim.AntennaSettings ∧ Claim.AntennaMatches

/-- `insp.rd`, `insp.wr` and `step` (R31, R369, R374, R381, R382, R426): without the privilege that a target needs, for a handle that
names no group in chrysalis, and for a selector or a value that is not legal they fault; an item behind the accumulators waits for the
pair's matrix operations. A read gives an item of the group and its tail, or tells its loss, and of a group that a double fault has ended
it gives the trap registers; a write replaces the item and reads back. `step` answers 2 when it names no live lane, else asks for one
instruction of its target, waits for it, and ends with its result. That a target is checked before the guard is the model's reading (log
entry 67). -/
def Obligations.Inspection : Prop :=
  ∀ (f : VForm) (s : State), Quiet s →
    let h := s.sarg f.a
    let e := s.g.execLanes f.g
    let value := fun (v : TVal) => Falls (.inspRd f) s (s.setScalars f.d.scalNum [v.val, v.tail.setWidth 64])
    (∀ i ∈ [Instr.inspRd f, .inspWr f, .step f], Checks i s (s.needTarget h) fun _ => s.g.groupExec f.g = false → Falls i s s) ∧
    (s.needTarget h = .ok () → s.g.groupExec f.g = true →
      (Checks (.inspRd f) s (s.inspSource f) fun r =>
        (s.inspWait r.1 r.2 = true → Waits (.inspRd f) s s 6) ∧
        (s.inspWait r.1 r.2 = false → Checks (.inspRd f) s (s.inspLost r.1 r.2 e) fun _ => value (s.inspRead r.1 r.2))) ∧
      (∀ k, s.doubledTarget h = some k →
        let x := Selector.ofWord (s.sarg f.b)
        x.cls = 6 → 0x18 ≤ x.idx → x.idx ≤ 0x1F → x.lane < 96 → (s.sarg f.b).toNat < 2 ^ 35 → value ⟨s.sysReg k x.idx x.lane, 0⟩) ∧
      (Checks (.inspWr f) s (s.inspArgs f) fun r =>
        (s.inspWait r.1 r.2 = true → Waits (.inspWr f) s s 6) ∧
        (s.inspWait r.1 r.2 = false →
          Checks (.inspWr f) s (s.inspWrite r.1 r.2 (s.sarg f.c) ((s.sarg f.c 1).setWidth 3) e) fun t => Falls (.inspWr f) s (t.inspMend r.1 r.2))) ∧
      (∀ k (x : Selector) (m : Lanes) v tail,
        let reads := fun (p : TVal → Prop) => ∃ t, s.inspWrite k x v tail m = .ok t ∧ p (t.inspRead k x)
        let low := (v.setWidth 32).setWidth 64
        (x.cls = 1 → 0 < x.idx → x.idx < 61 → reads fun y => y = ⟨v, tail⟩) ∧
        (x.cls = 0 ∨ x.cls = 7 → reads fun y => y = ⟨low, tail⟩) ∧
        (x.cls = 2 → 0 < x.idx → x.lane < 96 → reads fun y => y.val = low) ∧
        (x.cls = 3 → v.toNat % 2 ^ 32 < 2 ^ 15 → v.toNat % 8 < 6 → reads fun y => y.val = low) ∧
        (x.cls = 4 → x.idx = 2 → x.lane < 96 → reads fun y => y.val = low) ∧
        (x.cls = 4 → x.idx = 1 → s.inspWrite k x v tail m = .error (.trap .reserved 0 (.generic 0x73) m)) ∧
        (x.cls = 8 → x.idx = 0 → v.toNat % 4 = 0 → reads fun y => y.val = v) ∧
        (x.cls = 8 → x.idx = 1 → s.inspWrite k x v tail m = .error (.trap .reserved 0 (.generic 0x73) m)))) ∧
    (s.needTarget h = .ok () → s.g.groupExec f.g = true →
      let k := handleKey h
      let named := (s.stepLanes f.b).1
      (∀ r n, s.myStep k = some r → s.stepResult r = some n → FallsWith (.step f) s fun y =>
        y = { s with groups := y.groups, counts := y.counts, steps := s.steps.erase r } ∧ OthersKept s y ∧
        SetsScal s y s.g f.d.scalNum ⟨BitVec.ofNat 64 n, 0⟩) ∧
      ((s.myStep k).bind s.stepResult = none → Checks (.step f) s (s.restingTarget h e) fun _ =>
        (2 ^ 33 ≤ (s.sarg f.b 1).toNat → Traps (.step f) s .reserved 0 (.generic 0x73) e) ∧
        ((s.sarg f.b 1).toNat < 2 ^ 33 →
          ((s.myStep k).isSome = true → Waits (.step f) s s 17) ∧
          (s.myStep k = none → (s.group k).full &&& named = 0 → FallsWith (.step f) s fun y =>
            y = { s with groups := y.groups, counts := y.counts } ∧ OthersKept s y ∧ SetsScal s y s.g f.d.scalNum ⟨2, 0⟩) ∧
          (s.myStep k = none → (s.group k).full &&& named ≠ 0 → WaitsWith (.step f) s 17 fun y =>
            y = { s with steps := s.steps ++ [⟨s.cur, s.g.pc, k, named, (s.sarg f.b 1).getLsbD 32, false, none⟩] }))))

/-- `cdmp` and CORE_DUMP_COMPLETE (R364, R389 to R392): without privilege, for a bad request and for areas that cannot be used the
instruction faults, and it waits on an owned line; a request that passes its checks puts the groups it names in chrysalis and makes the
issuing group wait. Once their stores are acknowledged the dump is written, its length goes to the scalar, the group goes on, and the
groups that the dump has halted leave chrysalis unless the request keeps them there; a dump asked for on a fault ends in the handler. That
a dump lets go only the groups that it has halted is the model's reading (log entry 39). -/
def Obligations.CoreDumps : Prop :=
  (∀ (f : VForm) (s : State), Quiet s → GroupsWf s →
    (s.g.mode = false → s.g.dbg = false → Traps (.cdmp f) s .privilege 0 (.generic 0) s.g.mask) ∧
    ((s.g.mode = true ∨ s.g.dbg = true) → s.g.groupExec f.g = false → Falls (.cdmp f) s s) ∧
    Checks (.cdmp f) s (s.dumpAsked f) fun q => ∀ v w, q = some (v, w) →
      (w = some 17 → WaitsOwned (.cdmp f) s) ∧ (w = some 16 → Waits (.cdmp f) s s 16) ∧
      (w = none → Checks (.cdmp f) s (s.dumpCheck f v) fun r => ∃ t, exec (.cdmp f) s = .next t ∧ MemoryKept s t ∧
        t.g.waiting = .dump ∧ t.g.pc = nextPc (.cdmp f) s ∧
        t.g.dumpReq = some { r.1 with entered := r.1.keys.filter fun j => !(s.group j).chrysalis } ∧
        ∀ j ∈ r.1.keys, (s.group j).resident = true → (s.group j).ended = false → (t.group j).chrysalis = true)) ∧
  ∀ (s : State) (k : Nat) (r : DumpReq), GroupsWf s → s.owned = [] → s.refresh = [] → (s.group k).waiting = .dump → (s.group k).dumpReq = some r →
    (s.dumpReady r = false → exec (.coreDumpComplete k) s = .next s) ∧
    (s.dumpReady r = true → (s.group k).dumpTrap = none → Answers (.coreDumpComplete k) s fun t =>
      MemoryKept (s.writeDump (s.group k).asid r) t ∧
      (t.group k).waiting = .no ∧ (t.group k).dumpReq = none ∧ (t.group k).pc = (s.group k).pc ∧
      (∀ d, r.dst = some d → 0 < d → d < 61 → ((t.group k).sreg d).val = BitVec.ofNat 64 (s.dumpWritten r)) ∧
      (r.stay = false → ∀ j ∈ r.entered, (t.group j).chrysalis = false) ∧
      (r.stay = true → ∀ j, (t.group j).chrysalis = (s.group j).chrysalis)) ∧
    (∀ tr, s.dumpReady r = true → (s.group k).dumpTrap = some tr → (s.group k).cause.getLsbD 8 = false → (s.group k).trapBase ≠ 0 →
      Answers (.coreDumpComplete k) s fun t => MemoryKept (s.writeDump (s.group k).asid r) t ∧ (t.group k).dumpTrap = none ∧
        (t.group k).waiting = .no ∧ (t.group k).pc = (s.group k).trapBase ∧ (t.group k).epc = (s.group k).pc ∧
        (t.group k).faddr = tr.faddr ∧ (t.group k).finfo = tr.finfo ∧ (t.group k).mask = tr.mask ∧ (t.group k).mode = true)

/-! ### Steps that the machine takes by itself or that the outside world makes it take (chapters 03, 13, 16, 19) -/

/-- What decides who issues (R26, R80, R82, R85): the pick of a quadrant is a ready group, passed over seven times before the others, then
the lower poll step, the older, the lower slot; an instruction with an operand in a granule, or a scalar, that an earlier load of the group
has still to write waits, and one of a group with no load pending meets no hazard but that of a matrix operation; the groups that wait on
a long-latency dependence leave the active set. -/
def Claim.Scheduling : Prop :=
  ∀ (s : State) (i : Instr) (op : Nat) (f : Form) (l : PendingLoad), GroupsWf s →
    (∀ k, (∀ p ∈ s.groups, s.mustFetch p.1 = true → p.1 ∈ s.tried) → s.pick = some k →
      (k, s.group k) ∈ s.candidates ∧ ∀ p ∈ s.candidates, p.1 / 16 = k / 16 → p.1 ≠ k →
        let g := s.group k
        let late := fun (h : Group) => (7 ≤ h.passed : Bool)
        (late g = true ∧ late p.2 = false) ∨ (late g = late p.2 ∧ (g.pollStep < p.2.pollStep ∨ (g.pollStep = p.2.pollStep ∧
          (g.age < p.2.age ∨ (g.age = p.2.age ∧ k < p.1)))))) ∧
    (i.view = some (op, f) → l ∈ s.g.loads →
      ((∃ o ∈ readVecs op f ++ writeVecs op f, ∃ lane b p, lane < 96 ∧ b ∈ s.g.laneBytes o lane ∧ p ∈ l.dst.places ∧
        p.byte / 384 = b / 384) → s.hazard i = some 3) ∧
      ((∃ n v, l.dst = .scal n v ∧ n ∈ readScals op f ++ writeScals op f) → s.hazard i = some 3 ∨ s.hazard i = some 4)) ∧
    (s.g.loads = [] → s.hazard i = none ∨ s.hazard i = some 6) ∧
    ∀ k, (s.leaveActive).group k = { s.group k with active := (s.group k).active && !((s.group k).resident && s.waitsLong k) }

/-- Waits that end by themselves (R79, R82 to R84, R90, R101, R207, R224, R234, R243, R315, R327, R426): the oldest ready pending group
takes a free place of the active set; a forced swap lets in the one that has been ready longest, in the place of the active group that has
issued least recently when none is free; a sleep, a back-off, a spill and a fill of the join stack, a missing line of code and a
checkpoint being written end, and the group goes on; a fill waits while an engine owns its image, and one of uncorrectable bytes leaves
the join stack lost (the model's choice, log entry 80). A step with nothing to end changes nothing. How long a group has been ready is
counted in issues and steps, not in cycles (the model's choice, log entry 2). -/
def Claim.WaitsEnd : Prop :=
  ∀ (s : State) (k core quad line i j : Nat) (gi gj : Group),
    let g := s.group k
    let goesOn := fun (x : Instr) (h : Group) => Answers x s fun t =>
      t = { s with groups := t.groups } ∧ t.group k = h ∧ ∀ m, m ≠ k → t.group m = s.group m
    let stays := fun (x : Instr) => exec x s = .next s
    let free := { g with waiting := .no, stall := 0 }
    let image := Loc.hbm (g.jbase.toNat + 48 * (g.spilled - 1))
    let since := fun (h : Group) => h.readyAt.getD (s.clock + s.turns)
    (GroupsWf s → s.oldestPending core quad = some (j, gj) → s.hasPlace core quad = true → (s.group j).active = false ∧ s.readyNow j = true ∧
      (∀ p ∈ s.quadGroups core quad, p.2.active = false → s.readyNow p.1 = true → (s.group j).age ≤ p.2.age) ∧
      (s.fillPlace core quad).group j = { s.group j with active := true } ∧ ∀ m, m ≠ j → (s.fillPlace core quad).group m = s.group m) ∧
    (s.longestReady core quad = none → stays (.pendingForcedSwap core quad)) ∧
    (GroupsWf s → s.longestReady core quad = some (j, gj) →
      (s.group j).active = false ∧ s.readyNow j = true ∧
      (∀ p ∈ s.quadGroups core quad, p.2.active = false → s.readyNow p.1 = true →
        since (s.group j) < since p.2 ∨ (since (s.group j) = since p.2 ∧ (s.group j).age ≤ p.2.age)) ∧
      (s.hasPlace core quad = true → Answers (.pendingForcedSwap core quad) s fun t => t = { s with groups := t.groups } ∧
        t.group j = { s.group j with active := true } ∧ ∀ m, m ≠ j → t.group m = s.group m) ∧
      (s.hasPlace core quad = false → s.swapVictim core quad = some (i, gi) →
        Answers (.pendingForcedSwap core quad) s fun t => t = { s with groups := t.groups } ∧
          t.group j = { s.group j with active := true } ∧ t.group i = { s.group i with active := false } ∧
          (∀ m, m ≠ i → m ≠ j → t.group m = s.group m) ∧
          ∀ p ∈ s.quadGroups core quad, p.2.active = true →
            (s.group i).issued < p.2.issued ∨ ((s.group i).issued = p.2.issued ∧ i ≤ p.1))) ∧
    (∀ b, g.waiting = .sleep b → goesOn (.sleepExpiry k) free) ∧
    ((∀ b, g.waiting ≠ .sleep b) → stays (.sleepExpiry k)) ∧
    (g.waiting = .poll → goesOn (.pollBackoffExpiry k) free) ∧ (g.waiting ≠ .poll → stays (.pollBackoffExpiry k)) ∧
    (g.waiting = .spill → goesOn (.joinStackSpill k) free) ∧ (g.waiting ≠ .spill → stays (.joinStackSpill k)) ∧
    (g.waiting = .fill → s.isOwned image 48 false = false →
      let filled := { free with
        stack := g.stack ++ [JoinEntry.ofImage (s.hbm.bytes (g.jbase.toNat + 48 * (g.spilled - 1)) 48)], spilled := g.spilled - 1, ownWait := false }
      ((∀ b, b < 48 → s.isBad image b = false) → goesOn (.joinStackFill k) filled) ∧
      ((∃ b, b < 48 ∧ s.isBad image b = true) → ∃ l, l.reg = .join ∧ l.code = .dataLost ∧
        goesOn (.joinStackFill k) { filled with lost := g.lost ++ [l] })) ∧
    (g.waiting ≠ .fill ∨ (s.isOwned image 48 false = true ∧ g.ownWait = true) → stays (.joinStackFill k)) ∧
    (g.waiting = .fill → s.isOwned image 48 false = true → g.ownWait = false → Answers (.joinStackFill k) s fun t =>
      t = { s with groups := t.groups, counts := t.counts } ∧ t.group k = { g with ownWait := true } ∧ ∀ m, m ≠ k → t.group m = s.group m) ∧
    (g.waiting = .fetch line → Answers (.instructionCacheMissFill k) s fun t =>
      t = { s with groups := t.groups, icache := t.icache } ∧ t.icHit g.core line = true ∧ t.group k = free ∧ ∀ m, m ≠ k → t.group m = s.group m) ∧
    (g.waiting = .no → g.resident = true → g.ended = false → s.fetch g = .miss line → Answers (.instructionCacheMissFill k) s fun t =>
      t = { s with icache := t.icache } ∧ t.icHit g.core line = true) ∧
    (∀ va, g.waiting = .no → g.resident = true → g.ended = false → s.fetch g = .walk va → Answers (.instructionCacheMissFill k) s fun t =>
      t = { s with counts := t.counts, tlb := t.tlb, l1tlb := t.l1tlb, walks := t.walks }) ∧
    (g.pendCk.isSome = true → goesOn (.checkpointComplete k) { g with pendCk := none }) ∧
    (g.pendCk = none → stays (.checkpointComplete k))

/-- Pre-emption and restart (R49, R108, R207, R234, R270, R316, R317, R319, R368, R426): a deferred pre-emption takes place when its time
is over: the group leaves what it waits at, and the switch of its core is late. A group that has come back with nothing in flight first
loads its current slot, with stall reason 20, unless an engine owns it, and then restarts from it, or in its launch state when none was
ever written, without trap, poll and wait state, a register that an uncorrectable byte of the slot holds being lost (log entry 80);
atomics that it deferred after the checkpoint are discarded. In any other state the steps change nothing. Which registers do not come back
from a slot is the model's reading (log entry 59). -/
def Claim.Preemption : Prop :=
  ∀ (s : State) (k : Nat),
    let g := s.group k
    let may := g.resident = true ∧ g.preempt = true ∧ g.pendCk = none ∧ g.atBoundary = true ∧ g.chrysalis = false ∧ g.waiting ≠ .preempted
    (∀ i, (g.mode = false ∧ g.deferred = true ∧ i = Instr.preemptionLate k) ∨ (g.mode = true ∧ i = Instr.handlerDeferralExpiry k) → may →
      Answers i s fun t => t = { s with groups := t.groups, teams := t.teams, armed := t.armed, switches := t.switches } ∧
        t.group k = { g with deferred := false, late := true, waiting := .preempted, stall := 23, barDone := none } ∧
        (∀ m, m ≠ k → t.group m = s.group m) ∧
        (∀ x ∈ t.switches, x.outgoing = g.asid → (s.team g.team).coreList.contains x.core = true → x.late = true) ∧
        t.armed.length = s.armed.length ∧ (∀ a ∈ t.armed, ∀ w ∈ a.waits, w.1 ≠ k) ∧
        (∀ m, m ≠ g.team → t.team m = s.team m) ∧ (g.waiting ≠ .barrier → t.teams = s.teams) ∧
        (g.waiting = .barrier → (t.team g.team).bar.arrived.getLsbD g.index = false ∧ ∀ w ∈ (t.team g.team).bar.waits, w.1 ≠ g.index)) ∧
    (¬ may ∨ g.mode = true ∨ g.deferred = false → exec (.preemptionLate k) s = .next s) ∧
    (¬ may ∨ g.mode = false → exec (.handlerDeferralExpiry k) s = .next s) ∧
    (s.restartDue k = true → Answers (.groupRestart k) s fun t => t = { s with groups := t.groups } ∧
      t.group k = { g with waiting := .restore, stall := 20 } ∧ ∀ m, m ≠ k → t.group m = s.group m) ∧
    (g.waiting ≠ .restore → s.restartDue k = false → exec (.groupRestart k) s = .next s) ∧
    (g.waiting = .restore → s.slotHeld k = true → Answers (.groupRestart k) s fun t => t = { s with counts := t.counts, waited := t.waited }) ∧
    (g.waiting = .restore → s.slotHeld k = false → Answers (.groupRestart k) s fun t =>
      let h := t.group k
      let tm := s.team g.team
      let base := g.slotBase (s.currentSlot g)
      let field := fun (o n : Nat) => s.hbm.read (base + o) n
      t = { s with groups := t.groups, deferred := t.deferred, counts := t.counts } ∧ (∀ m, m ≠ k → t.group m = s.group m) ∧
      (∀ e, e ∈ t.deferred ↔ e ∈ s.deferred ∧ ¬ (e.task = tm.task ∧ e.lin = tm.lin ∧ e.group = g.index ∧ g.ckAt ≤ e.serial)) ∧
      h.waiting = .no ∧ h.stall = 0 ∧ h.preempt = false ∧ h.cause = 0 ∧ h.epc = 0 ∧ h.pollStep = 0 ∧ h.pollTries = 0 ∧ h.passed = 0 ∧
      h.held = 0 ∧ h.chrysalis = false ∧ h.inHandler = false ∧ (s.poison = [] → h.lost = []) ∧
      (s.slotSeq g 0 = 0 → s.slotSeq g 1 = 0 →
        h.pc = (s.taskOf tm).entry ∧ h.retired = 0 ∧ h.dix = 0 ∧ h.full = allLanes ∧ h.mask = allLanes ∧ h.stack = [] ∧
        h.sreg 1 = ⟨(s.taskOf tm).param, 0⟩) ∧
      (s.slotSeq g 0 ≠ 0 ∨ s.slotSeq g 1 ≠ 0 →
        h.pc = BitVec.ofNat 64 (field 0 8) ∧ h.retired = BitVec.ofNat 64 (field 0x10 8) ∧ h.dix = BitVec.ofNat 64 (field 0x18 8) ∧
        h.viewV = BitVec.ofNat 64 (field 0x20 8) ∧ h.viewT = BitVec.ofNat 64 (field 0x28 8) ∧ h.viewA = BitVec.ofNat 64 (field 0x30 8) ∧
        h.mask = h.full ∧ h.full = BitVec.ofNat 96 (field 0x38 12) &&& ~~~h.exited ∧ h.exited = BitVec.ofNat 96 (field 0x44 12) ∧
        (∀ n b, 0 < n → n < 61 → b < 16 → s.isBad (.hbm (base + (0x80 + 16 * n))) b = true → ∃ l ∈ h.lost, l.reg = .scal n ∧ l.code = .dataLost) ∧
        (∀ n, 0 < n → n < 61 → h.sreg n = TVal.ofImage (s.hbm.bytes (base + 0x80 + 16 * n) 16)) ∧
        (∀ n, 0 < n → n < 32 → h.pred n = BitVec.ofNat 96 (field (0x480 + 12 * n) 12)) ∧
        ∀ n, n < 96 → h.fpcOf n = BitVec.ofNat 32 (field (0x600 + 4 * n) 4)))

/-- Context switches (R318, R384): on a core with none in progress a switch asks every group of the outgoing context to be pre-empted;
when it is done, the outgoing context's state is saved, none of its groups is left, and the incoming one's saved state is loaded; a
context with nothing on the core is switched out at once, and one context-switch record is sent. A forced switch takes the groups in
chrysalis as well, which drop their held lanes. That a switch happens at one instant once nothing is in flight is the model's reading (log
entry 23). -/
def Claim.ContextSwitches : Prop :=
  ∀ (s : State) (core : Nat) (out inc : BitVec 16) (cycles : Word),
    let idle := s.switchKeys core out = [] ∧ s.copies = [] ∧ ∀ p ∈ s.mx, p.2.ops = []
    (Config.cores ≤ core → exec (.quantumExpiry core out inc cycles) s = .next s ∧ exec (.forcedChrysalisSwitch core out inc cycles) s = .next s) ∧
    (core < Config.cores → s.switchOf core = none →
      Answers (.quantumExpiry core out inc cycles) s (fun t =>
        ((t.switchOf core).isSome = true → ∀ k ∈ s.switchKeys core out,
          (t.group k).ended = true ∨ (t.group k).preempt = true ∨ (t.group k).waiting = .preempted) ∧
        (t.switchOf core = none → out ≠ inc → (t.savedOf core out).isSome = true ∧ t.savedOf core inc = none ∧
          (s.savedOf core inc = none → ∀ k ∈ s.switchKeys core out, (t.group k).resident = false)) ∧
        (idle → out ≠ inc → s.savedOf core inc = none → t.switchOf core = none ∧ Records s t (engSched core 0) 0x10)) ∧
      (GroupsWf s → Answers (.forcedChrysalisSwitch core out inc cycles) s fun t => (t.switchOf core).isSome = true →
        ∀ k ∈ s.switchKeys core out, (s.group k).ended = false → (s.group k).chrysalis = true →
          (t.group k).chrysalis = false ∧ (t.group k).held = 0 ∧ (t.group k).waiting = .preempted))

/-- The choice among groups, waits that end, pre-emption, restart and context switches. -/
def Obligations.SwitchesAndRestarts : Prop := Claim.Scheduling ∧ Claim.WaitsEnd ∧ Claim.Preemption ∧ Claim.ContextSwitches

/-- Vector 63 is raised on both host ports that are up (R418). -/
def Claim.Notified (s t : State) : Prop :=
  t.irqs = s.irqs ++ (([0, 1] : List Nat).filter fun p => !s.hostDown.contains p).map fun p => (p, 63)

/-- The host (R235, R234, R243, R298, R417 to R421, R426): a doorbell of the queue's port sets TAIL, one of the other port is counted; a doorbell
reads HEAD and TAIL at 8q of BAR0; the Contrail window shows the store's records, 32 bytes each, oldest first (the model's choice, log entry
76); EN written 0 and 1 enables a queue without error; a failed port's queues take no records until they are enabled again, PTM on it ends,
and a record is sent and the other port hears of it by vector 63 (the model's reading, log entries 24 and 40); a host write waits while an
engine owns one of its lines, and behind one of its port that waits, then delivers its bytes (log entry 113), and one outside device memory
faults; in recovery none of these answers. -/
def Claim.HostSteps : Prop :=
  ∀ (s : State) (port q addr : Nat) (tail : Word) (data : List (BitVec 8)) (relaxed : Bool),
    let x := s.queue q
    let up := port < 2 ∧ s.hostDown.contains port = false ∧ s.recovery = false
    let inside := addr + data.length ≤ Config.hbmBytes
    let owned := s.isOwned (.hbm addr) data.length true
    (up → q < 2048 → x.port.toNat = port → exec (.doorbellWrite port q tail) s = .next (s.putQueue q { x with tail := tail })) ∧
    (up → q < 2048 → x.port.toNat ≠ port → Answers (.doorbellWrite port q tail) s fun t =>
      t = { s with counts := t.counts } ∧ ((s.count (ctrTask 11)).toNat + 1 < 2 ^ 48 → t.count (ctrTask 11) = s.count (ctrTask 11) + 1)) ∧
    (¬ up ∨ 2048 ≤ q → exec (.doorbellWrite port q tail) s = .next s) ∧ (¬ up → exec (.hostWrite port addr data relaxed) s = .next s) ∧
    (s.recovery = false → q < 2048 → exec (.queueEnable q) s =
      .next (s.putQueue q { x with en := true, err := 0, halted := s.hostDown.contains x.port.toNat })) ∧
    (s.recovery = true ∨ 2048 ≤ q → exec (.queueEnable q) s = .next s) ∧
    (port < 2 → s.hostDown.contains port = false → Answers (.hostPortFailure port) s fun t =>
      t = { logged s t with hostDown := port :: s.hostDown, queues := t.queues, tstat := t.tstat, irqs := t.irqs } ∧
      (∀ p ∈ t.queues, p.2.port.toNat = port → p.2.halted = true) ∧
      (∀ m, ∃ b, t.queue m = { s.queue m with halted := b }) ∧ Records s t engMgmt 0x0A ∧
      (∃ l, t.tstat = { s.tstat with ptm := l } ∧ ∀ p, p ∈ l ↔ p ∈ s.tstat.ptm ∧ p ≠ port) ∧
      t.irqs = s.irqs ++ if s.hostDown.contains (1 - port) then [] else [(1 - port, 63)]) ∧
    (2 ≤ port ∨ s.hostDown.contains port = true → exec (.hostPortFailure port) s = .next s) ∧
    (Answers (.hostLinkRetrain port) s fun t => t = { s with hostDown := t.hostDown } ∧ ∀ p, p ∈ t.hostDown ↔ p ∈ s.hostDown ∧ p ≠ port) ∧
    (let i := Instr.hostWrite port addr data relaxed
     let behind := relaxed = false ∧ ∃ a d r, Instr.hostWrite port a d r ∈ s.inbox
     let delivered := fun (t : State) => (∀ i, i < data.length → t.hbm.byte (addr + i) = data.getD i 0) ∧
       ∀ a, ¬ (addr ≤ a ∧ a < addr + data.length) → t.hbm.byte a = s.hbm.byte a
     (up → inside → owned = true ∨ behind → Answers i s fun t => t = { s with inbox := s.inbox ++ [i], counts := t.counts }) ∧
     (up → inside → owned = false → ¬ behind → Answers i s fun t => t = { s with hbm := t.hbm, poison := t.poison } ∧ delivered t ∧
       ∀ c ∈ t.poison, c ∈ s.poison) ∧
     (s.inbox = [i] → (owned = true → s.serveWaiting = s) ∧ (owned = false → s.serveWaiting.inbox = [] ∧ delivered s.serveWaiting))) ∧
    (up → ¬ inside → exec (.hostWrite port addr data relaxed) s = .fault .hbmAbsent) ∧
    (s.recovery = false → (q < 2048 → ∃ v, s.bar0Read (8 * q) = some v ∧ v.extractLsb' 0 32 = x.head ∧ v.extractLsb' 32 32 = x.tail) ∧
      s.tstatRead = s.tstat.read ∧
      ∀ r n j, s.contrail[n]? = some r → j < 32 → n < 2 ^ 30 → BadCell.lpddr (32 * n + j) ∉ s.poison → s.contrailByte (32 * n + j) = r.image[j]?) ∧
    (s.recovery = true → s.bar0Read addr = none ∧ s.contrailByte addr = none ∧ s.tstatRead = 0) ∧
    (32 * 2 ^ 30 ≤ addr ∨ BadCell.lpddr addr ∈ s.poison → s.contrailByte addr = none)

/-- The management window (R6, R271, R272, R298, R307, R334, R343, R374, R388, R391, R417, R421) outside recovery: each write sets what it
names, within what software may write, and what was written reads back; a queue's HEAD and a communicator's sequences are read-only; a
context attached is listed, one detached is not; the operator key is written in the provisioned state alone; a write to Stratus waits while
its bank is refreshed; in recovery nothing is written and every register reads zero. What creates a context, that an attach list holds
sixteen entries, and that any write clears a counter is the model's choice (log entry 29). -/
def Claim.WindowWrites : Prop :=
  ∀ (s : State) (v : DWord),
    let writes := fun (r : MgmtReg) (p : State → Prop) => Answers (.mgmtWindowWrite r v) s p
    (s.recovery = true → ∀ r, exec (.mgmtWindowWrite r v) s = .next s ∧ s.mgmtRead r = 0) ∧
    (s.recovery = false →
      (∀ (q : Fin 2048) (w : Fin 4), writes (.queue q w) fun t =>
        let x := s.queue q.val
        let y := t.queue q.val
        t = { s with queues := t.queues } ∧ (∀ m, m ≠ q.val → t.queue m = s.queue m) ∧ y.head = x.head ∧ y.faddr = x.faddr ∧
        (w = 0 → y = { x with rbase := v }) ∧ (w = 1 → y = { x with tail := v.extractLsb' 32 32 }) ∧ (w = 3 → y = x) ∧
        (w = 2 → y.asid = v.extractLsb' 0 16 ∧ y.log2n = v.extractLsb' 16 5 ∧ y.prio = v.extractLsb' 21 3 ∧ y.port = v.getLsbD 24 ∧
          y.en = v.getLsbD 25 ∧ (v.getLsbD 25 = true → x.en = false → y.err = 0) ∧ (v.getLsbD 25 = false ∨ x.en = true → y.err = x.err))) ∧
      (∀ (c : Fin 4096) (w : Fin 4), writes (.comm c w) fun t =>
        let x := Store.get Comm.empty s.comms c.val
        let y := Store.get Comm.empty t.comms c.val
        t = { s with comms := t.comms } ∧ y.nextseq = x.nextseq ∧ y.doneseq = x.doneseq ∧
        (w = 0 → y = { x with nrank := v.extractLsb' 0 32, myrank := v.extractLsb' 32 32 }) ∧ (w = 1 → y = { x with rmap := v }) ∧
        (w = 2 → y = { x with asid := v.extractLsb' 0 16, en := v.getLsbD 16, wdact := v.getLsbD 17, port := v.getLsbD 18, deadline := v.extractLsb' 32 32 })) ∧
      (∀ dev, writes (.route dev) fun t => t = { s with routes := t.routes } ∧ Store.get 0 t.routes dev.toNat = v.setWidth 16) ∧
      (∀ a, (s.ctx a).attach.length < 16 → writes (.attach a) fun t => t = { s with ctxs := t.ctxs } ∧
        ∀ b, b ∈ (t.ctx a).attach ↔ b = v.setWidth 16 ∨ b ∈ (s.ctx a).attach) ∧
      (∀ a, writes (.detach a) fun t => t = { s with ctxs := t.ctxs } ∧
        ∀ b, b ∈ (t.ctx a).attach ↔ b ∈ (s.ctx a).attach ∧ b ≠ v.setWidth 16) ∧
      (∀ a, writes (.dumpMask a) fun t => t = { s with ctxs := t.ctxs } ∧ t.ctx a = { s.ctx a with dump := v }) ∧
      (∀ a (w : Fin 8), writes (.dumpRequest a w) fun t => t = { s with ctxs := t.ctxs } ∧
        ∀ i, i < 512 → (t.ctx a).dumpReq.getLsbD i = if i / 64 = w.val then v.getLsbD (i % 64) else (s.ctx a).dumpReq.getLsbD i) ∧
      (∀ die : Fin 4, writes (.sampling die) fun t => t = { s with sampling := t.sampling } ∧ Store.get 0 t.sampling die.val = v) ∧
      (∀ a, writes (.quantum a) fun t => t = { s with ctxs := t.ctxs } ∧ t.ctx a = { s.ctx a with quantum := v }) ∧
      (writes .budget fun t => t = { s with budget := v }) ∧
      (∀ a, writes (.deferArea a) fun t => t = { s with ctxs := t.ctxs } ∧ t.ctx a = { s.ctx a with deferMax := v.toNat }) ∧
      (writes .overflow fun t => t = { s with ovMax := v.toNat }) ∧ (writes .overflowBase fun t => t = { s with ovBase := v.toNat }) ∧
      (∀ w, s.life ≠ 1 → exec (.mgmtWindowWrite (.operatorKey w) v) s = .next s) ∧
      (∀ w, s.life = 1 → writes (.operatorKey w) fun t => t = { s with operKey := t.operKey } ∧
        ∀ i, i < 512 → t.operKey.getLsbD i = if i / 64 = w.val then v.getLsbD (i % 64) else s.operKey.getLsbD i) ∧
      (∀ w, s.inRefresh (.stratus (8 * w.val)) = true → exec (.mgmtWindowWrite (.stratus w) v) s = .next s) ∧
      (∀ w, s.inRefresh (.stratus (8 * w.val)) = false → writes (.stratus w) fun t => t = { s with stratus := t.stratus, poison := t.poison } ∧
        (∀ i, i < 8 → t.stratus.byte (8 * w.val + i) = v.extractLsb' (8 * i) 8) ∧
        ∀ a, ¬ (8 * w.val ≤ a ∧ a < 8 * w.val + 8) → t.stratus.byte a = s.stratus.byte a) ∧
      (∀ n, writes (.counter n) fun t => t = { s with counts := t.counts } ∧ t.count n = 0 ∧ ∀ m, m ≠ n → t.count m = s.count m) ∧
      (∀ a item, writes (.context a item) fun t => t = { s with ctxs := t.ctxs, ctxCores := t.ctxCores } ∧ ∀ b, b ≠ a → t.ctx b = s.ctx b) ∧
      (∀ r a die, r ∈ [MgmtReg.budget, .overflow, .overflowBase, .sampling die, .dumpMask a, .quantum a, .deferArea a, .context a .root] →
        writes r fun t => t.mgmtRead r = v) ∧
      (∀ a (w : Fin 8), s.mgmtRead (.dumpRequest a w) = if w.val < 4 then (s.ctx a).dumpReq.extractLsb' (64 * w.val) 64
        else if w.val = 4 then (s.ctx a).dumpReq.extractLsb' 256 64 &&& 0xFFFF else 0) ∧
      (∀ dev, s.mgmtRead (.route dev) = (Store.get 0 s.routes dev.toNat : BitVec 16).setWidth 64) ∧ (∀ n, s.mgmtRead (.counter n) = s.count n) ∧
      ∀ a n, s.attachRead a n = (s.ctx a).attach[n]?)

/-- The host ports and the management window. -/
def Obligations.HostAndWindow : Prop := Claim.HostSteps ∧ Claim.WindowWrites

/-- The loss of a core and the other reliability steps (R11, R12, R207, R310, R418, R425 to R427): a spare of the die takes the lost core's
number while one is left, else the core is absent; one fault record is sent and vector 63 raised; no group of a team on the core is left,
and with no team there the core's scratchpad words are gone and nothing else of memory; a corrected error counts; data that a check cannot
correct is marked at its cell, or its register (log entry 80); a stack's first sparing, after 16 corrected errors of a pseudo-channel, is
recorded. Which spare it is, and the records, are the model's choice (log entry 24), as are what else of the core is cleared (its L1,
instruction cache, TLB and antennae: log entry 59) and that both host ports hear of it (log entry 40). -/
def Claim.Losses : Prop :=
  ∀ (s : State) (core hop unit stack channel k : Nat),
    let u := channel % 256 + 256 * stack
    let teamHit := fun (p : Nat × Team) => p.2.live = true ∧ p.2.hasGroupOn core = true ∧ ∀ x ∈ s.saved, p.1 ∉ x.teams
    (s.present core = false → exec (.coreLost core) s = .next s) ∧
    (s.present core = true → GroupsWf s → Answers (.coreLost core) s fun t =>
      ∀ p ∈ s.teams, teamHit p → ∀ q ∈ s.groups, q.2.resident = true → q.2.team = p.1 → (t.group q.1).resident = false) ∧
    (s.present core = true → (∀ p ∈ s.teams, ¬ teamHit p) → Answers (.coreLost core) s fun t =>
      (s.sparesUsed (core / 64) < 4 → t.present core = true ∧ t.physical core = 64 + s.sparesUsed (core / 64)) ∧
      (4 ≤ s.sparesUsed (core / 64) → t.present core = false) ∧ Records s t engMgmt 0x0A ∧ Claim.Notified s t ∧ t.groups = s.groups ∧
      t.hbm = s.hbm ∧ t.stratus = s.stratus ∧ t.accum = s.accum ∧ (∀ p ∈ t.l1, p.1 / 1024 ≠ core) ∧ (∀ p ∈ t.icache, p.1 ≠ core) ∧
      (∀ e ∈ t.l1tlb, e.unit ≠ core) ∧ (∀ n, n < 16 → t.antenna core n = Antenna.zero) ∧
      ∀ a, Store.get TWord.zero t.scratch a = if a / 131072 = core then TWord.zero else Store.get TWord.zero s.scratch a) ∧
    (Answers (.correctedError hop (.corrected unit)) s fun t => t = { s with counts := t.counts, chErrors := t.chErrors } ∧
      ((s.count (ctrCorrected hop unit)).toNat + 1 < 2 ^ 48 → t.count (ctrCorrected hop unit) = s.count (ctrCorrected hop unit) + 1) ∧
      ∀ n, Store.get 0 t.chErrors n = Store.get 0 s.chErrors n + if hop = 0 ∧ n = unit then 1 else 0) ∧
    (∀ x c, (x, c) ∈ [(ErrSite.hbm unit, BadCell.hbm unit), (.stratus unit, .stratus unit), (.scratch core unit, .scratch (core * 131072 + unit)),
        (.accum stack unit, .accum (stack * 131072 + unit))] →
      Answers (.correctedError hop (.lost x)) s fun t => t = { s with poison := t.poison } ∧ ∀ d, d ∈ t.poison ↔ d = c ∨ d ∈ s.poison) ∧
    (Answers (.correctedError hop (.lost (.lpddr unit))) s fun t => t = { s with poison := t.poison } ∧
      ∀ d, d ∈ t.poison ↔ (d = .lpddr unit ∧ unit < 32 * s.contrail.length) ∨ d ∈ s.poison) ∧
    (∀ w, s.l1Find core (unit / 128) = some w → Answers (.correctedError hop (.lost (.l1 core unit))) s fun t => t = { s with poison := t.poison } ∧
      ∀ d, d ∈ t.poison ↔ d = .l1 core unit (s.l1Way core (unit / 128) w).order ∨ d ∈ s.poison) ∧
    (s.l1Find core (unit / 128) = none → exec (.correctedError hop (.lost (.l1 core unit))) s = .next s) ∧
    (∀ x r, (x, r) ∈ [(ErrSite.scalar k unit, RegName.scal unit), (.predicate k unit, .pred unit), (.joinStack k, .join),
        (.vector k unit channel, .word ((s.group k).place ((s.group k).vByte unit channel)))] →
      ((s.group k).resident = false → exec (.correctedError hop (.lost x)) s = .next s) ∧
      ((s.group k).resident = true → Answers (.correctedError hop (.lost x)) s fun t => t = { s with groups := t.groups } ∧
        (∀ m, m ≠ k → t.group m = s.group m) ∧ ∃ l, t.group k = { s.group k with lost := (s.group k).lost ++ [l] } ∧ l.reg = r ∧ l.code = .dataLost)) ∧
    (stack < 12 → Store.get 0 s.chSpared stack = 0 → 16 ≤ Store.get 0 s.chErrors u → Answers (.pseudoChannelSparing stack channel) s fun t =>
      t = { logged s t with chSpared := t.chSpared, chErrors := t.chErrors, irqs := t.irqs } ∧ Store.get 0 t.chSpared stack = channel + 1 ∧
      Store.get 0 t.chErrors u = 0 ∧ Records s t engMgmt 0x0A ∧ Claim.Notified s t) ∧
    (12 ≤ stack ∨ Store.get 0 s.chSpared stack ≠ 0 ∨ Store.get 0 s.chErrors u < 16 → exec (.pseudoChannelSparing stack channel) s = .next s)

/-- Boot, identity and lifecycle (R8, R342, R418, R421 to R423, R431, R432): a reset and a power-on leave no group, no queue and empty memories,
with the stamps from the management controller and vector 63 raised, and measure the four images; one that is not as R421 verifies it, by
its digest and a signature under a key that may sign it, leaves the device in recovery. A reset first drains every buffer into the store,
which it keeps, with its uncorrectable bytes, unless the lifecycle changes; no stamp falls; after a power-on the store is empty. What a
reset and a power-on keep is the model's reading (log entries 30 and 70), as is that vector 63 goes to both host ports (log entry 40). An
attestation report carries the nonce, the measurements and the operator key, and is signed with the identity key as FIPS 186-5 does, key
and per-message number in range (R8). Only the moves of R423 are taken. -/
def Claim.BootAndLife : Prop :=
  ∀ (s : State) (images : List BootImage) (nonce : BitVec 512) (target : BitVec 4),
    let ok := s.imagesOk images
    let takes := (s.life, target) ∈ [((0 : BitVec 4), (1 : BitVec 4)), (1, 2), (2, 3), (2, 1)]
    let wiped := fun (t : State) => t.groups = [] ∧ t.teams = [] ∧ t.queues = State.reset.queues ∧ t.comms = State.reset.comms ∧
      t.hbm = [] ∧ t.stratus = [] ∧ t.scratch = [] ∧ t.accum = [] ∧ t.ctxs = [] ∧ t.recovery = !ok ∧ t.irqs = s.irqs ++ [(0, 63), (1, 63)] ∧
      t.meas = images.map (fun x => x.digest) ∧ t.rootKey = s.rootKey ∧ t.operKey = s.operKey
    (ok = true ↔ images.length = 4 ∧ ∀ n x, images[n]? = some x → digestOf x.bytes = x.digest ∧
      (digestOf (imageKeyBytes x) = s.rootKey ∨ (n = 3 ∧ s.operKey ≠ 0 ∧ digestOf (imageKeyBytes x) = s.operKey)) ∧
      ecdsaVerify (some (x.keyX.toNat, x.keyY.toNat)) x.bytes x.sigR.toNat x.sigS.toNat = true) ∧
    (s.life ≠ 3 → Answers (.attestationRequest nonce) s fun t => t = { s with attest := t.attest, freeCtr := t.freeCtr } ∧
      ∃ r key n, t.attest = some r ∧ 0 < key ∧ key < P521.order ∧ 0 < n ∧ n < P521.order ∧ r.devid = s.device ∧ r.life = s.life ∧ r.nonce = nonce ∧ r.resets = s.resets ∧
        r.meas.length = 5 ∧ (∀ i, i < 4 → r.meas.getD i 0 = s.meas.getD i 0) ∧ r.meas.getD 4 0 = s.operKey ∧
        r.sigR = BitVec.ofNat 528 (ecdsaSign key n r.signed).1 ∧ r.sigS = BitVec.ofNat 528 (ecdsaSign key n r.signed).2) ∧
    (s.life = 3 → exec (.attestationRequest nonce) s = .next s) ∧
    (takes → Answers (.lifecycleCommand target) s fun t => t = { s with lifeNext := some target, irqs := t.irqs } ∧ Claim.Notified s t) ∧
    (¬ takes → exec (.lifecycleCommand target) s = .next s) ∧
    (Answers (.deviceReset images) s fun t => wiped t ∧ t.life = s.lifeNext.getD s.life ∧
      (s.lifeNext = none → t.contrail = s.contrail ++ s.jetOf 0 ++ s.jetOf 1 ++ s.jetOf 2 ++ s.jetOf 3 ∧ t.resets = s.resets + 1 ∧
        ((∀ r ∈ t.contrail, (r.tag.setWidth 36 : BitVec 36).toNat + 2 ^ 20 < 2 ^ 36) →
          ∀ r ∈ t.contrail, (r.tag.setWidth 36 : BitVec 36).toNat + 2 ^ 20 ≤ t.seqBase.toNat)) ∧
      (s.lifeNext.isSome = true → t.contrail = []) ∧
      (∀ c ∈ t.poison, c ∈ s.poison ∧ ∃ b, c = .lpddr b ∧ b < 32 * t.contrail.length) ∧
      (∀ d, d < 4 → Store.get 0 s.stamps d ≤ Store.get 0 t.stamps d ∧ Store.get 0 t.stamps d = t.mgmtTime)) ∧
    (Answers (.powerOn images) s fun t => wiped t ∧ t.life = s.lifeNext.getD s.life ∧ t.contrail = [] ∧ t.mgmtTime = 0)

/-- Reliability, boot and lifecycle. -/
def Obligations.DeviceSteps : Prop := Claim.Losses ∧ Claim.BootAndLife

/-- Observation (R21, R86, R388): with sampling on, a quadrant's next resident group sends one PC sample with its pc and the lowest stall
reason that holds, 22 in chrysalis; a full buffer drops and counts it. A buffer drains its oldest record into the store; dropped records
are summed up once there is space. Which reasons count beside a wait is the model's choice (log entry 27). -/
def Claim.Observation : Prop :=
  ∀ (s : State) (core quad die x k : Nat) (r : Record) (rs : List Record),
    let g := s.group (groupKey core quad x)
    let why := s.sampleOf (groupKey core quad x)
    let sample : BitVec 96 := (g.asid ++ g.gField ++ BitVec.ofBool why.2 ++ BitVec.ofNat 5 why.1 ++ g.pc.setWidth 57).setWidth 96
    (s.samplingOn (core / 64) = true → s.sampleSlot core quad = some x →
      g.resident = true ∧
      (s.jetFull (engDie g.engine) = false → Answers (.pcSample core quad) s fun t =>
        t = { logged s t with sampled := t.sampled } ∧ RecordsOf s t g.engine 0x0E sample) ∧
      (s.jetFull (engDie g.engine) = true → Answers (.pcSample core quad) s fun t =>
        t = { s with sampled := t.sampled, drops := t.drops } ∧ t.dropOf (engDie g.engine) = s.dropOf (engDie g.engine) + 1)) ∧
    (s.samplingOn (core / 64) = false ∨ s.sampleSlot core quad = none → exec (.pcSample core quad) s = .next s) ∧
    ((s.group k).chrysalis = true → s.stallNow k = 22) ∧
    ((s.group k).chrysalis = false → (s.stallNow k = 31 ∨ s.stallNow k ∈ s.reasons k) ∧ ∀ n ∈ s.reasons k, n ≠ 0 → s.stallNow k ≤ n) ∧
    (s.jetOf die = r :: rs → Answers (.jetstreamDrain die) s fun t =>
      t = { s with jet := t.jet, contrail := s.contrail ++ [r] } ∧ t.jetOf die = rs ∧ ∀ d, d ≠ die → t.jetOf d = s.jetOf d) ∧
    (s.jetOf die = [] → exec (.jetstreamDrain die) s = .next s) ∧
    (die < 4 → s.jetFull die = false → s.dropOf die ≠ Store.get 0 s.summed die → Answers (.dropSummary die) s fun t =>
      t = { logged s t with summed := t.summed } ∧ RecordsOf s t (engLauncher die) 0x12 ((s.dropOf die).setWidth 96) ∧
      Store.get 0 t.summed die = s.dropOf die) ∧
    (s.jetFull die = true ∨ s.dropOf die = Store.get 0 s.summed die → exec (.dropSummary die) s = .next s)

/-- Time and islands (R22, R420, R428 to R430, R432): a reference starts the servo, which locks and steps the stamps forward or slews them,
so that none falls; a lost reference leaves holdover or free running; a change of clock, voltage or issue limit holds and sends one
throttle record; an island takes a state that it may take: a vector-and-issue island runs while a group of its core is resident or its
copy engine works, a matrix island while its pair's engine has operations, a Skipper's while a collective is in progress, a launcher's while
it has work, an SRAM island is not off while its core holds state, a spare core's stays off; what goes off loses its content: a core's SRAM
and antennae, a Cirrus port's replay buffer and filter, what the Skippers hold with the last of them. That a working unit's island runs
on, and what a group of units loses, is the model's choice (log entry 90), as are the servo's edges and the state in which it starts (log
entry 40). -/
def Claim.TimeAndIslands : Prop :=
  ∀ (s : State) (present back : Bool) (port n mhz mv issue c : Nat) (offset : BitVec 32) (ahead : DWord) (cause : BitVec 3) (st : BitVec 2),
    let ts := s.tstat
    let starts := fun (t : State) => t = { s with tstat := t.tstat } ∧
      t.tstat.state = if ts.state = 0 ∧ (t.tstat.pps = true ∨ t.tstat.ptm ≠ []) then 1 else ts.state
    let open_ := ts.pps = true ∨ ts.ptm ≠ []
    let throttles := n < 1024 ∧ cause.toNat ≤ 4 ∧ mhz < 2 ^ 16 ∧ mv < 2 ^ 12 ∧ 1 ≤ issue ∧ issue ≤ 8
    let refused := exec (.islandStateChange n st) s = .next s
    (Answers (.ppsInput present) s fun t => starts t ∧ t.tstat.pps = present ∧ t.tstat.ptm = ts.ptm ∧ t.tstat.offset = ts.offset) ∧
    (port < 2 → s.hostDown.contains port = false → Answers (.ptmMeasurement port offset) s fun t => starts t ∧
      (∀ p, p ∈ t.tstat.ptm ↔ p = port ∨ p ∈ ts.ptm) ∧ t.tstat.pps = ts.pps ∧
      t.tstat.offset = if port = 0 ∨ s.hostDown.contains 0 = true then offset else ts.offset) ∧
    (2 ≤ port ∨ s.hostDown.contains port = true → exec (.ptmMeasurement port offset) s = .next s) ∧
    (open_ → ts.state ≠ 2 → Answers (.servoLock ahead back) s fun t =>
      t = { s with tstat := { ts with state := 2 }, stamps := t.stamps, mgmtTime := t.mgmtTime } ∧
      (back = true → t.stamps = s.stamps ∧ t.mgmtTime = s.mgmtTime) ∧
      ∀ d, d < 4 → Store.get 0 s.stamps d ≤ Store.get 0 t.stamps d ∧ (back = false →
        (Store.get 0 s.stamps d).toNat + ahead.toNat < 2 ^ 64 → Store.get 0 t.stamps d = Store.get 0 s.stamps d + ahead)) ∧
    (¬ open_ ∨ ts.state = 2 → exec (.servoLock ahead back) s = .next s) ∧
    exec .holdover s = .next { s with tstat :=
      { ts with pps := false, ptm := [], state := if ts.state = 2 then 3 else if ts.state = 1 then 0 else ts.state } } ∧
    (throttles → Answers (.throttleChange n cause mhz mv issue) s fun t =>
      t = { logged s t with islands := t.islands } ∧ t.island n = { s.island n with mhz := mhz, mv := mv, issue := issue } ∧
      (s.jetFull (engDie engMgmt) = false → Records s t engMgmt 0x0F)) ∧
    (¬ throttles → exec (.throttleChange n cause mhz mv issue) s = .next s) ∧
    (s.islandMay n st = true → Answers (.islandStateChange n st) s fun t => (t.island n).st = st ∧
      (n < 816 → t = { s with islands := t.islands, l1 := t.l1, icache := t.icache, scratch := t.scratch, accum := t.accum, ants := t.ants
                              poison := t.poison }) ∧
      (st ≠ 3 → t = { s with islands := t.islands }) ∧
      (970 ≤ n → n < 986 → st = 3 → t = { s with islands := t.islands, replayBuf := t.replayBuf, filters := t.filters } ∧
        (∀ f ∈ t.replayBuf, f.port ≠ n - 970) ∧ ∀ e ∈ t.filters, e.port ≠ n - 970) ∧
      (986 ≤ n → n < 1002 → st = 3 → (∀ m, 986 ≤ m → m < 1002 → m ≠ n → (s.island m).st = 3) → t.comms = [] ∧ t.tpls = [] ∧ t.colls = []) ∧
      (816 ≤ n → ¬ (970 ≤ n ∧ n < 1002) → ¬ (1018 ≤ n ∧ n < 1022) → t = { s with islands := t.islands }) ∧
      (n < 816 → st = 3 → s.logicalOf (n / 3) = some c →
        (n % 3 = 1 → ∀ m, m < 16 → t.antenna c m = Antenna.zero) ∧
        (n % 3 = 2 → (∀ a, a / 131072 = c → Store.get TWord.zero t.scratch a = TWord.zero) ∧ (∀ p ∈ t.l1, p.1 / 1024 ≠ c) ∧
          ∀ p ∈ t.icache, p.1 ≠ c))) ∧
    (n < 816 → s.logicalOf (n / 3) = some c → s.spareIsland n = false →
      (n % 3 = 1 → st ≠ 0 → ((∃ p ∈ s.groups, p.2.resident = true ∧ p.2.core = c) ∨ s.copyBusy c = true) → refused) ∧
      (n % 3 = 2 → st = 3 → s.holdsState c = true → refused) ∧
      (n % 3 = 0 → st ≠ 0 → (Store.get MxPair.empty s.mx (c / 2)).ops ≠ [] → refused) ∧
      ((n % 3 = 0 → st = 0 ∨ (Store.get MxPair.empty s.mx (c / 2)).ops = []) → (n % 3 = 1 → st = 0 ∨ ((∀ p ∈ s.groups, p.2.resident = true → p.2.core ≠ c) ∧ s.copyBusy c = false)) →
        (n % 3 = 2 → st ≠ 3 ∨ s.holdsState c = false) → s.islandMay n st = true)) ∧
    (986 ≤ n → n < 1002 → st ≠ 0 → (∃ x ∈ s.colls, x.status = 0) → refused) ∧
    (1018 ≤ n → n < 1022 → st ≠ 0 → (∃ p ∈ s.tasks, p.2.live = true) → refused) ∧
    (816 ≤ n → n < 1024 → st = 0 ∨ ((∀ x ∈ s.colls, x.status ≠ 0) ∧ s.launcherBusy = false) → s.islandMay n st = true) ∧
    (n < 816 → s.spareIsland n = true → st ≠ 3 → refused) ∧ (1024 ≤ n → refused)

/-- Observation, time and power. -/
def Obligations.ObservationTimeAndPower : Prop := Claim.Observation ∧ Claim.TimeAndIslands

/-! ### The machine as a whole: reset, one step, the encodings, and what every step keeps -/

/-- What reset leaves (R5, R47, R298, R343, R375, R420, R423): every byte of every memory on the device and every accumulator reads
zero, no group is resident, every queue and communicator record is zero, every antenna is disarmed, WAYMASK is 0xFFFF, TSTAT is zero, and
the state is canonical. That host and peer memory read zero as well is the model's choice (log entries 8 and 11). -/
def Obligations.ResetState : Prop :=
  let s := State.reset
  Canonical s ∧ (∀ a, s.hbm.byte a = 0 ∧ s.stratus.byte a = 0 ∧ s.host.byte a = 0 ∧ s.peer.byte a = 0) ∧
  (∀ a, Store.get TWord.zero s.scratch a = TWord.zero ∧ Store.get TWord.zero s.accum a = TWord.zero) ∧
  (∀ k, (s.group k).resident = false) ∧
  (∀ q, (s.queue q).en = false ∧ (s.queue q).head = 0 ∧ (s.queue q).tail = 0 ∧ (s.queue q).rbase = 0 ∧ (s.queue q).err = 0) ∧
  (∀ c, let r := Store.get Comm.empty s.comms c; r.en = false ∧ r.nrank = 0 ∧ r.rmap = 0 ∧ r.nextseq = 0 ∧ r.doneseq = 0) ∧
  (∀ core n, (s.antenna core n).ctl = 0 ∧ (s.antenna core n).comp = 0 ∧ (s.antenna core n).cmask = 0 ∧ (s.antenna core n).count = 0) ∧
  (∀ core a, (s.ctxCore core a).ways = 0xFFFF) ∧ s.tstat = ⟨0, false, [], 0⟩

/-- A step runs the decoded instruction (R21, R65, R80, R85): when the group at key k has the next issue slot, is ready and nothing holds
it, and the words at its pc decode to an instruction that meets no hazard and no loss, the step is that instruction with k as the issuing
group, and after it the account of the attempt and of the active sets, which change nothing else while no input waits for an owned line
(log entry 113); an instruction whose record a full buffer cannot take waits with reason 29 instead, and one that meets a hazard waits
with the hazard's reason. A step that is next on the agenda as an event is that event, or waits for room in the buffers (R21); with
nothing on the agenda the default order says what moves. The agenda and its default order are the model's choice (log entry 3). -/
def Obligations.StepRunsDecoded : Prop :=
  ∀ (s : State) (rest : List Move),
    let s0 := { s with agenda := rest }
    (∀ (k : Nat) (w m : BitVec 96) (i : Instr),
      let x := { s0 with cur := k }
      s.agenda = .issue k :: rest → s.isReady k = true → s.stepFor k = none → (s.group k).chrysalis = false → (s.group k).asyncTraps = [] →
      x.fetch (s.group k) = .words w m → decode w m = .ok i →
      (∀ r, x.hazard i = some r → step s = .next (((x.stallWith r).attempted s0 k).afterMove s0)) ∧
      (x.hazard i = none → x.lossOf i = none →
        (∀ t, exec i x = .next t → t.contrail.length ≤ s.contrail.length → step s = .next ((t.attempted s0 k).afterMove s0)) ∧
        (∀ t, exec i x = .next t → s.contrail.length < t.contrail.length →
          step s = .next { s0.putGroup k { s.group k with stall := 29 } with tried := k :: s.tried }) ∧
        (∀ e, exec i x = .fault e → step s = .fault e) ∧ (∀ e, exec i x = .refused e → step s = .refused e))) ∧
    (∀ i t, s.agenda = .event i :: rest → exec i s0 = .next t →
      (t.contrail.length ≤ s.contrail.length ∨ drains i = true →
        step s = .next (State.afterMove { t with tried := [], lately := 0, turns := s.turns + 1 } s0)) ∧
      (s.contrail.length < t.contrail.length → drains i = false → step s = .next (s0.holdStep i))) ∧
    (s.agenda = [] → (s.defaultMove = none → step s = .next s) ∧ ∀ m, s.defaultMove = some m → step s = step { s with agenda := [m] }) ∧
    ∀ (t : State) (k : Nat), GroupsWf t →
      let u := t.attempted s k
      let v := t.afterMove s
      u = { t with groups := u.groups, tried := u.tried, lately := u.lately, clock := u.clock, counts := u.counts } ∧
      (∀ j, u.group j = { t.group j with issued := (u.group j).issued, passed := (u.group j).passed }) ∧
      (t.inbox = [] → v = { t with groups := v.groups, waited := v.waited } ∧
        ∀ j, v.group j = { t.group j with
          active := (v.group j).active, readyAt := (v.group j).readyAt, chStall := (v.group j).chStall, restWait := (v.group j).restWait })

/-- Words written out in the manual decode to the instructions that they stand for: the worked cases of chapters 04, 05, 06, 09, 10,
12, 13 and 15. -/
def Obligations.DecodeWords : Prop :=
  let v (g : Guard) (ty : Ty) (fn : BitVec 4) (d : Dst) (a b c : Src) (m : Option Mods) : VForm := ⟨g, ty, fn, .set, d, a, b, c, m⟩
  let sat : Mods := ⟨false, false, false, false, false, false, true, false, 0, 0, 0, 0, 0⟩
  decode 0x070000000000000000000048 0 = .ok (.mark ⟨⟨false, 0⟩, false, .vec 0, .vec 0 .ident, 0x48⟩) ∧
  decode 0x02000400000000FFFFFFFFDC 0 = .ok (.bra ⟨⟨false, 1⟩, false, .vec 0, .vec 0 .ident, 0xFFFFFFFFDC⟩) ∧
  decode 0x02000500000000FFFFFFFFDC 0 = .ok (.bra ⟨⟨false, 1⟩, true, .vec 0, .vec 0 .ident, 0xFFFFFFFFDC⟩) ∧
  decode 0x20000200200C008000700000 0xFE0100000000000000000000 =
    .ok (.iadd (v ⟨false, 0⟩ .i32 0 (.vec 2) (.vec 3 .ident) (.imm 7) .unused (some sat))) ∧
  decode 0x408B0000200C000000000000 0 = .ok (.fcvt (v ⟨false, 0⟩ .bf16 8 (.vec 2) (.vec 3 .ident) .unused .unused none)) ∧
  decode 0x800A00C08008000000000040 0 =
    .ok (.ld ⟨⟨false, 0⟩, .f16, 0, .nol1, .vec 8, .vec 2 .ident, .unused, .team, .plain, 0x40, none⟩) ∧
  decode 0xA80000000410004200043000 0 = .ok (.tcLd (v ⟨false, 0⟩ .i32 0 (.vec 0) (.scal 4) (.scal 8) (.scal 12) none)) ∧
  decode 0xC2000000041000C080041800 0 = .ok (.mxMma (v ⟨false, 0⟩ .i32 0 (.vec 0) (.scal 4) (.special 2 0) (.scal 6) none)) ∧
  decode 0xD42300202414004180090008 0 =
    .ok (.poll ⟨⟨false, 0⟩, .n64, 2, .normal, .pred 2, .scal 5, .scal 6, .device, .acquire, 8, none⟩) ∧
  decode 0xEA0000105C40000000000000 0 = .ok (.srd (v ⟨false, 0⟩ .i32 0 (.scal 5) (.special 0x10 0) .unused .unused none))

/-- Decoding and encoding agree (R53, R57 to R64, R77): every well-formed instruction of every family has words, and they decode to it, with
every operand, modifier and guard at every value that the encoding admits. -/
def Obligations.RoundTrip : Prop :=
  ∀ i : Instr, i.wf = true → ∃ w m, encode i = some (w, m) ∧ decode w (m.getD 0) = .ok i

/-- What is saved of a context lists no word that reads as zero: put back, it keeps the canonical form. -/
def Claim.SavedWf (s : State) : Prop :=
  ∀ x ∈ s.saved, (∀ p ∈ x.scratch, p.2 ≠ TWord.zero) ∧ ∀ p ∈ x.accum, p.2 ≠ TWord.zero

/-- Every step keeps the canonical form: of every memory, scratchpad and accumulator, and of the table of groups. -/
def Obligations.CanonicalStep : Prop :=
  ∀ s t : State, Canonical s → Claim.SavedWf s → step s = .next t → Canonical t ∧ Claim.SavedWf t
end

