-- ==== Sys2Proof/Laws/Store.lean ====
section
/-! SUPPORT. The laws of sparse stores: a read after a write, and that a write keeps the canonical form. -/

namespace Sys2Proof.Machine

@[simp] theorem Store.get_nil {α : Type} (d : α) (a : Nat) : Store.get d [] a = d := rfl

theorem Store.get_put {α : Type} (d : α) (m : Sparse α) (a b : Nat) (x : α) :
    Store.get d (Store.put a x m) b = if b = a then x else Store.get d m b := by
  induction m with
  | nil => simp [Store.put, Store.get]
  | cons p m ih =>
    obtain ⟨k, v⟩ := p
    by_cases h1 : a = k
    · subst h1; by_cases h : b = a <;> simp [Store.put, Store.get, h]
    · by_cases h2 : a < k
      · by_cases h : b = a <;> simp [Store.put, Store.get, h1, h2, h]
      · by_cases h : b = k
        · subst h; simp [Store.put, Store.get, h1, h2, Ne.symm h1]
        · simp [Store.put, Store.get, h1, h2, h, ih]

@[simp] theorem Store.get_put_same {α : Type} (d : α) (m : Sparse α) (a : Nat) (x : α) :
    Store.get d (Store.put a x m) a = x := by simp [Store.get_put]

theorem Store.get_put_other {α : Type} (d : α) (m : Sparse α) {a b : Nat} (x : α) (h : b ≠ a) :
    Store.get d (Store.put a x m) b = Store.get d m b := by simp [Store.get_put, h]

theorem Store.get_erase {α : Type} (d : α) (m : Sparse α) (a b : Nat) :
    Store.get d (Store.erase a m) b = if b = a then d else Store.get d m b := by
  induction m with
  | nil => simp [Store.erase]
  | cons p m ih =>
    obtain ⟨k, v⟩ := p
    by_cases h1 : a = k
    · subst h1
      by_cases h : b = a
      · subst h; simpa [Store.erase] using ih
      · simp [Store.erase, Store.get, h, ih]
    · by_cases h : b = k
      · subst h; simp [Store.erase, Store.get, h1, Ne.symm h1]
      · simp [Store.erase, Store.get, h1, h, ih]

/-- A read after a write. -/
theorem Store.get_set {α : Type} [DecidableEq α] (d : α) (m : Sparse α) (a b : Nat) (x : α) :
    Store.get d (Store.set d m a x) b = if b = a then x else Store.get d m b := by
  unfold Store.set
  by_cases hx : x = d
  · subst hx; simp [Store.get_erase]
  · simp [hx, Store.get_put]

/-- Does a store begin above a key? -/
def Store.above {α : Type} (a : Nat) : Sparse α → Bool
  | [] => true
  | (k, _) :: _ => decide (a < k)

theorem Store.wf_cons {α : Type} [DecidableEq α] (d : α) (k : Nat) (v : α) (m : Sparse α) :
    Store.wf d ((k, v) :: m) = (v != d && Store.above k m && Store.wf d m) := by
  cases m <;> rfl

theorem Store.above_trans {α : Type} {a b : Nat} {m : Sparse α} (h : a < b) (hb : Store.above b m = true) :
    Store.above a m = true := by
  cases m with
  | nil => rfl
  | cons p m => simp only [Store.above, decide_eq_true_eq] at *; omega

theorem Store.above_erase {α : Type} [DecidableEq α] (d : α) {a b : Nat} {m : Sparse α} (h : Store.wf d m = true)
    (hb : Store.above b m = true) : Store.above b (Store.erase a m) = true := by
  induction m with
  | nil => rfl
  | cons p m ih =>
    obtain ⟨k, v⟩ := p
    simp only [Store.wf_cons, Bool.and_eq_true] at h
    simp only [Store.above, decide_eq_true_eq] at hb
    unfold Store.erase
    split
    · exact ih h.2 (Store.above_trans hb h.1.2)
    · simpa [Store.above] using hb

theorem Store.wf_erase {α : Type} [DecidableEq α] (d : α) (a : Nat) {m : Sparse α} (h : Store.wf d m = true) :
    Store.wf d (Store.erase a m) = true := by
  induction m with
  | nil => rfl
  | cons p m ih =>
    obtain ⟨k, v⟩ := p
    have h' := h
    simp only [Store.wf_cons, Bool.and_eq_true] at h'
    unfold Store.erase
    split
    · exact ih h'.2
    · simp [Store.wf_cons, h'.1.1, ih h'.2, Store.above_erase d h'.2 h'.1.2]

theorem Store.above_put {α : Type} {a b : Nat} {x : α} {m : Sparse α} (hab : b < a) (hb : Store.above b m = true) :
    Store.above b (Store.put a x m) = true := by
  cases m with
  | nil => simpa [Store.put, Store.above] using hab
  | cons p m =>
    obtain ⟨k, v⟩ := p
    simp only [Store.above, decide_eq_true_eq] at hb
    unfold Store.put
    split
    · simpa [Store.above] using hab
    · split <;> simpa [Store.above]

theorem Store.wf_put {α : Type} [DecidableEq α] (d : α) {a : Nat} {x : α} (hx : x ≠ d) {m : Sparse α}
    (h : Store.wf d m = true) : Store.wf d (Store.put a x m) = true := by
  induction m with
  | nil => simpa [Store.put, Store.wf] using hx
  | cons p m ih =>
    obtain ⟨k, v⟩ := p
    have h' := h
    simp only [Store.wf_cons, Bool.and_eq_true] at h'
    unfold Store.put
    split
    · rename_i e; subst e; simpa [Store.wf_cons, hx] using ⟨h'.1.2, h'.2⟩
    · split
      · rename_i hlt
        simp only [Store.wf_cons, Bool.and_eq_true]
        exact ⟨⟨by simpa using hx, by simpa [Store.above] using hlt⟩, h'⟩
      · have hk : k < a := by omega
        simp only [Store.wf_cons, Bool.and_eq_true]
        exact ⟨⟨h'.1.1, Store.above_put hk h'.1.2⟩, ih h'.2⟩

/-- A write keeps the canonical form. -/
theorem Store.wf_set {α : Type} [DecidableEq α] (d : α) (a : Nat) (x : α) {m : Sparse α} (h : Store.wf d m = true) :
    Store.wf d (Store.set d m a x) = true := by
  unfold Store.set
  split
  · exact Store.wf_erase d a h
  · rename_i hx; exact Store.wf_put d hx h

/-! ### Memories -/

theorem Memory.byte_setByte (m : Memory) (a b : Nat) (x : Byte) :
    (m.setByte a x).byte b = if b = a then x else m.byte b := Store.get_set 0 m a b x

theorem Memory.wf_setByte {m : Memory} (h : m.wf = true) (a : Nat) (x : Byte) : (m.setByte a x).wf = true :=
  Store.wf_set 0 a x h

theorem Memory.wf_setBytes {m : Memory} (h : m.wf = true) (a : Nat) (l : List Byte) : (m.setBytes a l).wf = true := by
  induction l generalizing m a with
  | nil => exact h
  | cons x l ih => exact ih (Memory.wf_setByte h a x) (a + 1)

theorem Memory.wf_write {m : Memory} (h : m.wf = true) (a n v : Nat) : (m.write a n v).wf = true :=
  Memory.wf_setBytes h a _

/-- A list of bytes written: inside, the list's byte; outside, as before. -/
theorem Memory.byte_setBytes (m : Memory) (a b : Nat) (l : List Byte) :
    (m.setBytes a l).byte b = if a ≤ b ∧ b < a + l.length then l.getD (b - a) 0 else m.byte b := by
  induction l generalizing m a with
  | nil => rw [Memory.setBytes, if_neg (by rw [List.length_nil]; omega)]
  | cons x l ih =>
    rw [Memory.setBytes, ih, Memory.byte_setByte]
    by_cases hb : b = a
    · subst hb
      rw [if_neg (by omega), if_pos rfl, if_pos (by simp)]
      simp
    · by_cases h : a + 1 ≤ b ∧ b < a + 1 + l.length
      · have e : b - a = (b - (a + 1)) + 1 := by omega
        rw [if_pos h, if_pos (by simp only [List.length_cons]; omega), e, List.getD_cons_succ]
      · rw [if_neg h, if_neg hb, if_neg (by simp only [List.length_cons]; omega)]

end Sys2Proof.Machine
end

