-- ==== Sys2Proof/Laws/State.lean ====
section
/-! SUPPORT. What each update of the state leaves alone, one lemma for each field, and what it does to the one it writes. -/

namespace Sys2Proof.Machine

/-! ### putGroup -/

@[simp] theorem State.putGroup_cur (s : State) (k : Nat) (g : Group) : (s.putGroup k g).cur = s.cur := rfl
@[simp] theorem State.putGroup_agenda (s : State) (k : Nat) (g : Group) : (s.putGroup k g).agenda = s.agenda := rfl
@[simp] theorem State.putGroup_tried (s : State) (k : Nat) (g : Group) : (s.putGroup k g).tried = s.tried := rfl
@[simp] theorem State.putGroup_lately (s : State) (k : Nat) (g : Group) : (s.putGroup k g).lately = s.lately := rfl
@[simp] theorem State.putGroup_turns (s : State) (k : Nat) (g : Group) : (s.putGroup k g).turns = s.turns := rfl
@[simp] theorem State.putGroup_clock (s : State) (k : Nat) (g : Group) : (s.putGroup k g).clock = s.clock := rfl
@[simp] theorem State.putGroup_freeCtr (s : State) (k : Nat) (g : Group) : (s.putGroup k g).freeCtr = s.freeCtr := rfl
@[simp] theorem State.putGroup_teams (s : State) (k : Nat) (g : Group) : (s.putGroup k g).teams = s.teams := rfl
@[simp] theorem State.putGroup_ctxCores (s : State) (k : Nat) (g : Group) : (s.putGroup k g).ctxCores = s.ctxCores := rfl
@[simp] theorem State.putGroup_hbm (s : State) (k : Nat) (g : Group) : (s.putGroup k g).hbm = s.hbm := rfl
@[simp] theorem State.putGroup_stratus (s : State) (k : Nat) (g : Group) : (s.putGroup k g).stratus = s.stratus := rfl
@[simp] theorem State.putGroup_host (s : State) (k : Nat) (g : Group) : (s.putGroup k g).host = s.host := rfl
@[simp] theorem State.putGroup_peer (s : State) (k : Nat) (g : Group) : (s.putGroup k g).peer = s.peer := rfl
@[simp] theorem State.putGroup_scratch (s : State) (k : Nat) (g : Group) : (s.putGroup k g).scratch = s.scratch := rfl
@[simp] theorem State.putGroup_accum (s : State) (k : Nat) (g : Group) : (s.putGroup k g).accum = s.accum := rfl
@[simp] theorem State.putGroup_l1 (s : State) (k : Nat) (g : Group) : (s.putGroup k g).l1 = s.l1 := rfl
@[simp] theorem State.putGroup_l1Ctr (s : State) (k : Nat) (g : Group) : (s.putGroup k g).l1Ctr = s.l1Ctr := rfl
@[simp] theorem State.putGroup_tlb (s : State) (k : Nat) (g : Group) : (s.putGroup k g).tlb = s.tlb := rfl
@[simp] theorem State.putGroup_l1tlb (s : State) (k : Nat) (g : Group) : (s.putGroup k g).l1tlb = s.l1tlb := rfl
@[simp] theorem State.putGroup_walks (s : State) (k : Nat) (g : Group) : (s.putGroup k g).walks = s.walks := rfl
@[simp] theorem State.putGroup_ants (s : State) (k : Nat) (g : Group) : (s.putGroup k g).ants = s.ants := rfl
@[simp] theorem State.putGroup_icache (s : State) (k : Nat) (g : Group) : (s.putGroup k g).icache = s.icache := rfl
@[simp] theorem State.putGroup_owned (s : State) (k : Nat) (g : Group) : (s.putGroup k g).owned = s.owned := rfl
@[simp] theorem State.putGroup_armed (s : State) (k : Nat) (g : Group) : (s.putGroup k g).armed = s.armed := rfl
@[simp] theorem State.putGroup_refresh (s : State) (k : Nat) (g : Group) : (s.putGroup k g).refresh = s.refresh := rfl
@[simp] theorem State.putGroup_seqs (s : State) (k : Nat) (g : Group) : (s.putGroup k g).seqs = s.seqs := rfl
@[simp] theorem State.putGroup_jet (s : State) (k : Nat) (g : Group) : (s.putGroup k g).jet = s.jet := rfl
@[simp] theorem State.putGroup_drops (s : State) (k : Nat) (g : Group) : (s.putGroup k g).drops = s.drops := rfl
@[simp] theorem State.putGroup_contrail (s : State) (k : Nat) (g : Group) : (s.putGroup k g).contrail = s.contrail := rfl
@[simp] theorem State.putGroup_stamps (s : State) (k : Nat) (g : Group) : (s.putGroup k g).stamps = s.stamps := rfl
@[simp] theorem State.putGroup_counts (s : State) (k : Nat) (g : Group) : (s.putGroup k g).counts = s.counts := rfl
@[simp] theorem State.putGroup_routes (s : State) (k : Nat) (g : Group) : (s.putGroup k g).routes = s.routes := rfl
@[simp] theorem State.putGroup_queues (s : State) (k : Nat) (g : Group) : (s.putGroup k g).queues = s.queues := rfl
@[simp] theorem State.putGroup_graphs (s : State) (k : Nat) (g : Group) : (s.putGroup k g).graphs = s.graphs := rfl
@[simp] theorem State.putGroup_graphCtr (s : State) (k : Nat) (g : Group) : (s.putGroup k g).graphCtr = s.graphCtr := rfl
@[simp] theorem State.putGroup_tasks (s : State) (k : Nat) (g : Group) : (s.putGroup k g).tasks = s.tasks := rfl
@[simp] theorem State.putGroup_teamCtr (s : State) (k : Nat) (g : Group) : (s.putGroup k g).teamCtr = s.teamCtr := rfl
@[simp] theorem State.putGroup_ready (s : State) (k : Nat) (g : Group) : (s.putGroup k g).ready = s.ready := rfl
@[simp] theorem State.putGroup_overflow (s : State) (k : Nat) (g : Group) : (s.putGroup k g).overflow = s.overflow := rfl
@[simp] theorem State.putGroup_ovBase (s : State) (k : Nat) (g : Group) : (s.putGroup k g).ovBase = s.ovBase := rfl
@[simp] theorem State.putGroup_ovMax (s : State) (k : Nat) (g : Group) : (s.putGroup k g).ovMax = s.ovMax := rfl
@[simp] theorem State.putGroup_deferred (s : State) (k : Nat) (g : Group) : (s.putGroup k g).deferred = s.deferred := rfl
@[simp] theorem State.putGroup_ctxs (s : State) (k : Nat) (g : Group) : (s.putGroup k g).ctxs = s.ctxs := rfl
@[simp] theorem State.putGroup_device (s : State) (k : Nat) (g : Group) : (s.putGroup k g).device = s.device := rfl
@[simp] theorem State.putGroup_poison (s : State) (k : Nat) (g : Group) : (s.putGroup k g).poison = s.poison := rfl
@[simp] theorem State.putGroup_tlbis (s : State) (k : Nat) (g : Group) : (s.putGroup k g).tlbis = s.tlbis := rfl
@[simp] theorem State.putGroup_ggens (s : State) (k : Nat) (g : Group) : (s.putGroup k g).ggens = s.ggens := rfl
@[simp] theorem State.putGroup_cmdCtr (s : State) (k : Nat) (g : Group) : (s.putGroup k g).cmdCtr = s.cmdCtr := rfl
@[simp] theorem State.putGroup_copies (s : State) (k : Nat) (g : Group) : (s.putGroup k g).copies = s.copies := rfl
@[simp] theorem State.putGroup_rings (s : State) (k : Nat) (g : Group) : (s.putGroup k g).rings = s.rings := rfl
@[simp] theorem State.putGroup_mx (s : State) (k : Nat) (g : Group) : (s.putGroup k g).mx = s.mx := rfl
@[simp] theorem State.putGroup_spares (s : State) (k : Nat) (g : Group) : (s.putGroup k g).spares = s.spares := rfl
@[simp] theorem State.putGroup_lastTaken (s : State) (k : Nat) (g : Group) : (s.putGroup k g).lastTaken = s.lastTaken := rfl
@[simp] theorem State.putGroup_irqs (s : State) (k : Nat) (g : Group) : (s.putGroup k g).irqs = s.irqs := rfl
@[simp] theorem State.putGroup_hostDown (s : State) (k : Nat) (g : Group) : (s.putGroup k g).hostDown = s.hostDown := rfl
@[simp] theorem State.putGroup_switches (s : State) (k : Nat) (g : Group) : (s.putGroup k g).switches = s.switches := rfl
@[simp] theorem State.putGroup_saved (s : State) (k : Nat) (g : Group) : (s.putGroup k g).saved = s.saved := rfl
@[simp] theorem State.putGroup_absent (s : State) (k : Nat) (g : Group) : (s.putGroup k g).absent = s.absent := rfl
@[simp] theorem State.putGroup_phys (s : State) (k : Nat) (g : Group) : (s.putGroup k g).phys = s.phys := rfl
@[simp] theorem State.putGroup_portsDown (s : State) (k : Nat) (g : Group) : (s.putGroup k g).portsDown = s.portsDown := rfl
@[simp] theorem State.putGroup_lanesLost (s : State) (k : Nat) (g : Group) : (s.putGroup k g).lanesLost = s.lanesLost := rfl
@[simp] theorem State.putGroup_reqIds (s : State) (k : Nat) (g : Group) : (s.putGroup k g).reqIds = s.reqIds := rfl
@[simp] theorem State.putGroup_filters (s : State) (k : Nat) (g : Group) : (s.putGroup k g).filters = s.filters := rfl
@[simp] theorem State.putGroup_linkSeqs (s : State) (k : Nat) (g : Group) : (s.putGroup k g).linkSeqs = s.linkSeqs := rfl
@[simp] theorem State.putGroup_replayBuf (s : State) (k : Nat) (g : Group) : (s.putGroup k g).replayBuf = s.replayBuf := rfl
@[simp] theorem State.putGroup_noCredit (s : State) (k : Nat) (g : Group) : (s.putGroup k g).noCredit = s.noCredit := rfl
@[simp] theorem State.putGroup_credits (s : State) (k : Nat) (g : Group) : (s.putGroup k g).credits = s.credits := rfl
@[simp] theorem State.putGroup_outbox (s : State) (k : Nat) (g : Group) : (s.putGroup k g).outbox = s.outbox := rfl
@[simp] theorem State.putGroup_lastk (s : State) (k : Nat) (g : Group) : (s.putGroup k g).lastk = s.lastk := rfl
@[simp] theorem State.putGroup_comms (s : State) (k : Nat) (g : Group) : (s.putGroup k g).comms = s.comms := rfl
@[simp] theorem State.putGroup_tpls (s : State) (k : Nat) (g : Group) : (s.putGroup k g).tpls = s.tpls := rfl
@[simp] theorem State.putGroup_colls (s : State) (k : Nat) (g : Group) : (s.putGroup k g).colls = s.colls := rfl
@[simp] theorem State.putGroup_offers (s : State) (k : Nat) (g : Group) : (s.putGroup k g).offers = s.offers := rfl
@[simp] theorem State.putGroup_notices (s : State) (k : Nat) (g : Group) : (s.putGroup k g).notices = s.notices := rfl
@[simp] theorem State.putGroup_waited (s : State) (k : Nat) (g : Group) : (s.putGroup k g).waited = s.waited := rfl
@[simp] theorem State.putGroup_inbox (s : State) (k : Nat) (g : Group) : (s.putGroup k g).inbox = s.inbox := rfl
@[simp] theorem State.putGroup_steps (s : State) (k : Nat) (g : Group) : (s.putGroup k g).steps = s.steps := rfl
@[simp] theorem State.putGroup_sampling (s : State) (k : Nat) (g : Group) : (s.putGroup k g).sampling = s.sampling := rfl
@[simp] theorem State.putGroup_summed (s : State) (k : Nat) (g : Group) : (s.putGroup k g).summed = s.summed := rfl
@[simp] theorem State.putGroup_sampled (s : State) (k : Nat) (g : Group) : (s.putGroup k g).sampled = s.sampled := rfl
@[simp] theorem State.putGroup_seqBase (s : State) (k : Nat) (g : Group) : (s.putGroup k g).seqBase = s.seqBase := rfl
@[simp] theorem State.putGroup_tstat (s : State) (k : Nat) (g : Group) : (s.putGroup k g).tstat = s.tstat := rfl
@[simp] theorem State.putGroup_mgmtTime (s : State) (k : Nat) (g : Group) : (s.putGroup k g).mgmtTime = s.mgmtTime := rfl
@[simp] theorem State.putGroup_islands (s : State) (k : Nat) (g : Group) : (s.putGroup k g).islands = s.islands := rfl
@[simp] theorem State.putGroup_budget (s : State) (k : Nat) (g : Group) : (s.putGroup k g).budget = s.budget := rfl
@[simp] theorem State.putGroup_life (s : State) (k : Nat) (g : Group) : (s.putGroup k g).life = s.life := rfl
@[simp] theorem State.putGroup_lifeNext (s : State) (k : Nat) (g : Group) : (s.putGroup k g).lifeNext = s.lifeNext := rfl
@[simp] theorem State.putGroup_resets (s : State) (k : Nat) (g : Group) : (s.putGroup k g).resets = s.resets := rfl
@[simp] theorem State.putGroup_attest (s : State) (k : Nat) (g : Group) : (s.putGroup k g).attest = s.attest := rfl
@[simp] theorem State.putGroup_recovery (s : State) (k : Nat) (g : Group) : (s.putGroup k g).recovery = s.recovery := rfl
@[simp] theorem State.putGroup_meas (s : State) (k : Nat) (g : Group) : (s.putGroup k g).meas = s.meas := rfl
@[simp] theorem State.putGroup_rootKey (s : State) (k : Nat) (g : Group) : (s.putGroup k g).rootKey = s.rootKey := rfl
@[simp] theorem State.putGroup_operKey (s : State) (k : Nat) (g : Group) : (s.putGroup k g).operKey = s.operKey := rfl
@[simp] theorem State.putGroup_chErrors (s : State) (k : Nat) (g : Group) : (s.putGroup k g).chErrors = s.chErrors := rfl
@[simp] theorem State.putGroup_chSpared (s : State) (k : Nat) (g : Group) : (s.putGroup k g).chSpared = s.chSpared := rfl

/-! ### setG -/

@[simp] theorem State.setG_cur (s : State) (g : Group) : (s.setG g).cur = s.cur := rfl
@[simp] theorem State.setG_agenda (s : State) (g : Group) : (s.setG g).agenda = s.agenda := rfl
@[simp] theorem State.setG_tried (s : State) (g : Group) : (s.setG g).tried = s.tried := rfl
@[simp] theorem State.setG_lately (s : State) (g : Group) : (s.setG g).lately = s.lately := rfl
@[simp] theorem State.setG_turns (s : State) (g : Group) : (s.setG g).turns = s.turns := rfl
@[simp] theorem State.setG_clock (s : State) (g : Group) : (s.setG g).clock = s.clock := rfl
@[simp] theorem State.setG_freeCtr (s : State) (g : Group) : (s.setG g).freeCtr = s.freeCtr := rfl
@[simp] theorem State.setG_teams (s : State) (g : Group) : (s.setG g).teams = s.teams := rfl
@[simp] theorem State.setG_ctxCores (s : State) (g : Group) : (s.setG g).ctxCores = s.ctxCores := rfl
@[simp] theorem State.setG_hbm (s : State) (g : Group) : (s.setG g).hbm = s.hbm := rfl
@[simp] theorem State.setG_stratus (s : State) (g : Group) : (s.setG g).stratus = s.stratus := rfl
@[simp] theorem State.setG_host (s : State) (g : Group) : (s.setG g).host = s.host := rfl
@[simp] theorem State.setG_peer (s : State) (g : Group) : (s.setG g).peer = s.peer := rfl
@[simp] theorem State.setG_scratch (s : State) (g : Group) : (s.setG g).scratch = s.scratch := rfl
@[simp] theorem State.setG_accum (s : State) (g : Group) : (s.setG g).accum = s.accum := rfl
@[simp] theorem State.setG_l1 (s : State) (g : Group) : (s.setG g).l1 = s.l1 := rfl
@[simp] theorem State.setG_l1Ctr (s : State) (g : Group) : (s.setG g).l1Ctr = s.l1Ctr := rfl
@[simp] theorem State.setG_tlb (s : State) (g : Group) : (s.setG g).tlb = s.tlb := rfl
@[simp] theorem State.setG_l1tlb (s : State) (g : Group) : (s.setG g).l1tlb = s.l1tlb := rfl
@[simp] theorem State.setG_walks (s : State) (g : Group) : (s.setG g).walks = s.walks := rfl
@[simp] theorem State.setG_ants (s : State) (g : Group) : (s.setG g).ants = s.ants := rfl
@[simp] theorem State.setG_icache (s : State) (g : Group) : (s.setG g).icache = s.icache := rfl
@[simp] theorem State.setG_owned (s : State) (g : Group) : (s.setG g).owned = s.owned := rfl
@[simp] theorem State.setG_armed (s : State) (g : Group) : (s.setG g).armed = s.armed := rfl
@[simp] theorem State.setG_refresh (s : State) (g : Group) : (s.setG g).refresh = s.refresh := rfl
@[simp] theorem State.setG_seqs (s : State) (g : Group) : (s.setG g).seqs = s.seqs := rfl
@[simp] theorem State.setG_jet (s : State) (g : Group) : (s.setG g).jet = s.jet := rfl
@[simp] theorem State.setG_drops (s : State) (g : Group) : (s.setG g).drops = s.drops := rfl
@[simp] theorem State.setG_contrail (s : State) (g : Group) : (s.setG g).contrail = s.contrail := rfl
@[simp] theorem State.setG_stamps (s : State) (g : Group) : (s.setG g).stamps = s.stamps := rfl
@[simp] theorem State.setG_counts (s : State) (g : Group) : (s.setG g).counts = s.counts := rfl
@[simp] theorem State.setG_routes (s : State) (g : Group) : (s.setG g).routes = s.routes := rfl
@[simp] theorem State.setG_queues (s : State) (g : Group) : (s.setG g).queues = s.queues := rfl
@[simp] theorem State.setG_graphs (s : State) (g : Group) : (s.setG g).graphs = s.graphs := rfl
@[simp] theorem State.setG_graphCtr (s : State) (g : Group) : (s.setG g).graphCtr = s.graphCtr := rfl
@[simp] theorem State.setG_tasks (s : State) (g : Group) : (s.setG g).tasks = s.tasks := rfl
@[simp] theorem State.setG_teamCtr (s : State) (g : Group) : (s.setG g).teamCtr = s.teamCtr := rfl
@[simp] theorem State.setG_ready (s : State) (g : Group) : (s.setG g).ready = s.ready := rfl
@[simp] theorem State.setG_overflow (s : State) (g : Group) : (s.setG g).overflow = s.overflow := rfl
@[simp] theorem State.setG_ovBase (s : State) (g : Group) : (s.setG g).ovBase = s.ovBase := rfl
@[simp] theorem State.setG_ovMax (s : State) (g : Group) : (s.setG g).ovMax = s.ovMax := rfl
@[simp] theorem State.setG_deferred (s : State) (g : Group) : (s.setG g).deferred = s.deferred := rfl
@[simp] theorem State.setG_ctxs (s : State) (g : Group) : (s.setG g).ctxs = s.ctxs := rfl
@[simp] theorem State.setG_device (s : State) (g : Group) : (s.setG g).device = s.device := rfl
@[simp] theorem State.setG_poison (s : State) (g : Group) : (s.setG g).poison = s.poison := rfl
@[simp] theorem State.setG_tlbis (s : State) (g : Group) : (s.setG g).tlbis = s.tlbis := rfl
@[simp] theorem State.setG_ggens (s : State) (g : Group) : (s.setG g).ggens = s.ggens := rfl
@[simp] theorem State.setG_cmdCtr (s : State) (g : Group) : (s.setG g).cmdCtr = s.cmdCtr := rfl
@[simp] theorem State.setG_copies (s : State) (g : Group) : (s.setG g).copies = s.copies := rfl
@[simp] theorem State.setG_rings (s : State) (g : Group) : (s.setG g).rings = s.rings := rfl
@[simp] theorem State.setG_mx (s : State) (g : Group) : (s.setG g).mx = s.mx := rfl
@[simp] theorem State.setG_spares (s : State) (g : Group) : (s.setG g).spares = s.spares := rfl
@[simp] theorem State.setG_lastTaken (s : State) (g : Group) : (s.setG g).lastTaken = s.lastTaken := rfl
@[simp] theorem State.setG_irqs (s : State) (g : Group) : (s.setG g).irqs = s.irqs := rfl
@[simp] theorem State.setG_hostDown (s : State) (g : Group) : (s.setG g).hostDown = s.hostDown := rfl
@[simp] theorem State.setG_switches (s : State) (g : Group) : (s.setG g).switches = s.switches := rfl
@[simp] theorem State.setG_saved (s : State) (g : Group) : (s.setG g).saved = s.saved := rfl
@[simp] theorem State.setG_absent (s : State) (g : Group) : (s.setG g).absent = s.absent := rfl
@[simp] theorem State.setG_phys (s : State) (g : Group) : (s.setG g).phys = s.phys := rfl
@[simp] theorem State.setG_portsDown (s : State) (g : Group) : (s.setG g).portsDown = s.portsDown := rfl
@[simp] theorem State.setG_lanesLost (s : State) (g : Group) : (s.setG g).lanesLost = s.lanesLost := rfl
@[simp] theorem State.setG_reqIds (s : State) (g : Group) : (s.setG g).reqIds = s.reqIds := rfl
@[simp] theorem State.setG_filters (s : State) (g : Group) : (s.setG g).filters = s.filters := rfl
@[simp] theorem State.setG_linkSeqs (s : State) (g : Group) : (s.setG g).linkSeqs = s.linkSeqs := rfl
@[simp] theorem State.setG_replayBuf (s : State) (g : Group) : (s.setG g).replayBuf = s.replayBuf := rfl
@[simp] theorem State.setG_noCredit (s : State) (g : Group) : (s.setG g).noCredit = s.noCredit := rfl
@[simp] theorem State.setG_credits (s : State) (g : Group) : (s.setG g).credits = s.credits := rfl
@[simp] theorem State.setG_outbox (s : State) (g : Group) : (s.setG g).outbox = s.outbox := rfl
@[simp] theorem State.setG_lastk (s : State) (g : Group) : (s.setG g).lastk = s.lastk := rfl
@[simp] theorem State.setG_comms (s : State) (g : Group) : (s.setG g).comms = s.comms := rfl
@[simp] theorem State.setG_tpls (s : State) (g : Group) : (s.setG g).tpls = s.tpls := rfl
@[simp] theorem State.setG_colls (s : State) (g : Group) : (s.setG g).colls = s.colls := rfl
@[simp] theorem State.setG_offers (s : State) (g : Group) : (s.setG g).offers = s.offers := rfl
@[simp] theorem State.setG_notices (s : State) (g : Group) : (s.setG g).notices = s.notices := rfl
@[simp] theorem State.setG_waited (s : State) (g : Group) : (s.setG g).waited = s.waited := rfl
@[simp] theorem State.setG_inbox (s : State) (g : Group) : (s.setG g).inbox = s.inbox := rfl
@[simp] theorem State.setG_steps (s : State) (g : Group) : (s.setG g).steps = s.steps := rfl
@[simp] theorem State.setG_sampling (s : State) (g : Group) : (s.setG g).sampling = s.sampling := rfl
@[simp] theorem State.setG_summed (s : State) (g : Group) : (s.setG g).summed = s.summed := rfl
@[simp] theorem State.setG_sampled (s : State) (g : Group) : (s.setG g).sampled = s.sampled := rfl
@[simp] theorem State.setG_seqBase (s : State) (g : Group) : (s.setG g).seqBase = s.seqBase := rfl
@[simp] theorem State.setG_tstat (s : State) (g : Group) : (s.setG g).tstat = s.tstat := rfl
@[simp] theorem State.setG_mgmtTime (s : State) (g : Group) : (s.setG g).mgmtTime = s.mgmtTime := rfl
@[simp] theorem State.setG_islands (s : State) (g : Group) : (s.setG g).islands = s.islands := rfl
@[simp] theorem State.setG_budget (s : State) (g : Group) : (s.setG g).budget = s.budget := rfl
@[simp] theorem State.setG_life (s : State) (g : Group) : (s.setG g).life = s.life := rfl
@[simp] theorem State.setG_lifeNext (s : State) (g : Group) : (s.setG g).lifeNext = s.lifeNext := rfl
@[simp] theorem State.setG_resets (s : State) (g : Group) : (s.setG g).resets = s.resets := rfl
@[simp] theorem State.setG_attest (s : State) (g : Group) : (s.setG g).attest = s.attest := rfl
@[simp] theorem State.setG_recovery (s : State) (g : Group) : (s.setG g).recovery = s.recovery := rfl
@[simp] theorem State.setG_meas (s : State) (g : Group) : (s.setG g).meas = s.meas := rfl
@[simp] theorem State.setG_rootKey (s : State) (g : Group) : (s.setG g).rootKey = s.rootKey := rfl
@[simp] theorem State.setG_operKey (s : State) (g : Group) : (s.setG g).operKey = s.operKey := rfl
@[simp] theorem State.setG_chErrors (s : State) (g : Group) : (s.setG g).chErrors = s.chErrors := rfl
@[simp] theorem State.setG_chSpared (s : State) (g : Group) : (s.setG g).chSpared = s.chSpared := rfl

/-! ### putTeam -/

@[simp] theorem State.putTeam_cur (s : State) (k : Nat) (x : Team) : (s.putTeam k x).cur = s.cur := rfl
@[simp] theorem State.putTeam_agenda (s : State) (k : Nat) (x : Team) : (s.putTeam k x).agenda = s.agenda := rfl
@[simp] theorem State.putTeam_tried (s : State) (k : Nat) (x : Team) : (s.putTeam k x).tried = s.tried := rfl
@[simp] theorem State.putTeam_lately (s : State) (k : Nat) (x : Team) : (s.putTeam k x).lately = s.lately := rfl
@[simp] theorem State.putTeam_turns (s : State) (k : Nat) (x : Team) : (s.putTeam k x).turns = s.turns := rfl
@[simp] theorem State.putTeam_clock (s : State) (k : Nat) (x : Team) : (s.putTeam k x).clock = s.clock := rfl
@[simp] theorem State.putTeam_freeCtr (s : State) (k : Nat) (x : Team) : (s.putTeam k x).freeCtr = s.freeCtr := rfl
@[simp] theorem State.putTeam_groups (s : State) (k : Nat) (x : Team) : (s.putTeam k x).groups = s.groups := rfl
@[simp] theorem State.putTeam_ctxCores (s : State) (k : Nat) (x : Team) : (s.putTeam k x).ctxCores = s.ctxCores := rfl
@[simp] theorem State.putTeam_hbm (s : State) (k : Nat) (x : Team) : (s.putTeam k x).hbm = s.hbm := rfl
@[simp] theorem State.putTeam_stratus (s : State) (k : Nat) (x : Team) : (s.putTeam k x).stratus = s.stratus := rfl
@[simp] theorem State.putTeam_host (s : State) (k : Nat) (x : Team) : (s.putTeam k x).host = s.host := rfl
@[simp] theorem State.putTeam_peer (s : State) (k : Nat) (x : Team) : (s.putTeam k x).peer = s.peer := rfl
@[simp] theorem State.putTeam_scratch (s : State) (k : Nat) (x : Team) : (s.putTeam k x).scratch = s.scratch := rfl
@[simp] theorem State.putTeam_accum (s : State) (k : Nat) (x : Team) : (s.putTeam k x).accum = s.accum := rfl
@[simp] theorem State.putTeam_l1 (s : State) (k : Nat) (x : Team) : (s.putTeam k x).l1 = s.l1 := rfl
@[simp] theorem State.putTeam_l1Ctr (s : State) (k : Nat) (x : Team) : (s.putTeam k x).l1Ctr = s.l1Ctr := rfl
@[simp] theorem State.putTeam_tlb (s : State) (k : Nat) (x : Team) : (s.putTeam k x).tlb = s.tlb := rfl
@[simp] theorem State.putTeam_l1tlb (s : State) (k : Nat) (x : Team) : (s.putTeam k x).l1tlb = s.l1tlb := rfl
@[simp] theorem State.putTeam_walks (s : State) (k : Nat) (x : Team) : (s.putTeam k x).walks = s.walks := rfl
@[simp] theorem State.putTeam_ants (s : State) (k : Nat) (x : Team) : (s.putTeam k x).ants = s.ants := rfl
@[simp] theorem State.putTeam_icache (s : State) (k : Nat) (x : Team) : (s.putTeam k x).icache = s.icache := rfl
@[simp] theorem State.putTeam_owned (s : State) (k : Nat) (x : Team) : (s.putTeam k x).owned = s.owned := rfl
@[simp] theorem State.putTeam_armed (s : State) (k : Nat) (x : Team) : (s.putTeam k x).armed = s.armed := rfl
@[simp] theorem State.putTeam_refresh (s : State) (k : Nat) (x : Team) : (s.putTeam k x).refresh = s.refresh := rfl
@[simp] theorem State.putTeam_seqs (s : State) (k : Nat) (x : Team) : (s.putTeam k x).seqs = s.seqs := rfl
@[simp] theorem State.putTeam_jet (s : State) (k : Nat) (x : Team) : (s.putTeam k x).jet = s.jet := rfl
@[simp] theorem State.putTeam_drops (s : State) (k : Nat) (x : Team) : (s.putTeam k x).drops = s.drops := rfl
@[simp] theorem State.putTeam_contrail (s : State) (k : Nat) (x : Team) : (s.putTeam k x).contrail = s.contrail := rfl
@[simp] theorem State.putTeam_stamps (s : State) (k : Nat) (x : Team) : (s.putTeam k x).stamps = s.stamps := rfl
@[simp] theorem State.putTeam_counts (s : State) (k : Nat) (x : Team) : (s.putTeam k x).counts = s.counts := rfl
@[simp] theorem State.putTeam_routes (s : State) (k : Nat) (x : Team) : (s.putTeam k x).routes = s.routes := rfl
@[simp] theorem State.putTeam_queues (s : State) (k : Nat) (x : Team) : (s.putTeam k x).queues = s.queues := rfl
@[simp] theorem State.putTeam_graphs (s : State) (k : Nat) (x : Team) : (s.putTeam k x).graphs = s.graphs := rfl
@[simp] theorem State.putTeam_graphCtr (s : State) (k : Nat) (x : Team) : (s.putTeam k x).graphCtr = s.graphCtr := rfl
@[simp] theorem State.putTeam_tasks (s : State) (k : Nat) (x : Team) : (s.putTeam k x).tasks = s.tasks := rfl
@[simp] theorem State.putTeam_teamCtr (s : State) (k : Nat) (x : Team) : (s.putTeam k x).teamCtr = s.teamCtr := rfl
@[simp] theorem State.putTeam_ready (s : State) (k : Nat) (x : Team) : (s.putTeam k x).ready = s.ready := rfl
@[simp] theorem State.putTeam_overflow (s : State) (k : Nat) (x : Team) : (s.putTeam k x).overflow = s.overflow := rfl
@[simp] theorem State.putTeam_ovBase (s : State) (k : Nat) (x : Team) : (s.putTeam k x).ovBase = s.ovBase := rfl
@[simp] theorem State.putTeam_ovMax (s : State) (k : Nat) (x : Team) : (s.putTeam k x).ovMax = s.ovMax := rfl
@[simp] theorem State.putTeam_deferred (s : State) (k : Nat) (x : Team) : (s.putTeam k x).deferred = s.deferred := rfl
@[simp] theorem State.putTeam_ctxs (s : State) (k : Nat) (x : Team) : (s.putTeam k x).ctxs = s.ctxs := rfl
@[simp] theorem State.putTeam_device (s : State) (k : Nat) (x : Team) : (s.putTeam k x).device = s.device := rfl
@[simp] theorem State.putTeam_poison (s : State) (k : Nat) (x : Team) : (s.putTeam k x).poison = s.poison := rfl
@[simp] theorem State.putTeam_tlbis (s : State) (k : Nat) (x : Team) : (s.putTeam k x).tlbis = s.tlbis := rfl
@[simp] theorem State.putTeam_ggens (s : State) (k : Nat) (x : Team) : (s.putTeam k x).ggens = s.ggens := rfl
@[simp] theorem State.putTeam_cmdCtr (s : State) (k : Nat) (x : Team) : (s.putTeam k x).cmdCtr = s.cmdCtr := rfl
@[simp] theorem State.putTeam_copies (s : State) (k : Nat) (x : Team) : (s.putTeam k x).copies = s.copies := rfl
@[simp] theorem State.putTeam_rings (s : State) (k : Nat) (x : Team) : (s.putTeam k x).rings = s.rings := rfl
@[simp] theorem State.putTeam_mx (s : State) (k : Nat) (x : Team) : (s.putTeam k x).mx = s.mx := rfl
@[simp] theorem State.putTeam_spares (s : State) (k : Nat) (x : Team) : (s.putTeam k x).spares = s.spares := rfl
@[simp] theorem State.putTeam_lastTaken (s : State) (k : Nat) (x : Team) : (s.putTeam k x).lastTaken = s.lastTaken := rfl
@[simp] theorem State.putTeam_irqs (s : State) (k : Nat) (x : Team) : (s.putTeam k x).irqs = s.irqs := rfl
@[simp] theorem State.putTeam_hostDown (s : State) (k : Nat) (x : Team) : (s.putTeam k x).hostDown = s.hostDown := rfl
@[simp] theorem State.putTeam_switches (s : State) (k : Nat) (x : Team) : (s.putTeam k x).switches = s.switches := rfl
@[simp] theorem State.putTeam_saved (s : State) (k : Nat) (x : Team) : (s.putTeam k x).saved = s.saved := rfl
@[simp] theorem State.putTeam_absent (s : State) (k : Nat) (x : Team) : (s.putTeam k x).absent = s.absent := rfl
@[simp] theorem State.putTeam_phys (s : State) (k : Nat) (x : Team) : (s.putTeam k x).phys = s.phys := rfl
@[simp] theorem State.putTeam_portsDown (s : State) (k : Nat) (x : Team) : (s.putTeam k x).portsDown = s.portsDown := rfl
@[simp] theorem State.putTeam_lanesLost (s : State) (k : Nat) (x : Team) : (s.putTeam k x).lanesLost = s.lanesLost := rfl
@[simp] theorem State.putTeam_reqIds (s : State) (k : Nat) (x : Team) : (s.putTeam k x).reqIds = s.reqIds := rfl
@[simp] theorem State.putTeam_filters (s : State) (k : Nat) (x : Team) : (s.putTeam k x).filters = s.filters := rfl
@[simp] theorem State.putTeam_linkSeqs (s : State) (k : Nat) (x : Team) : (s.putTeam k x).linkSeqs = s.linkSeqs := rfl
@[simp] theorem State.putTeam_replayBuf (s : State) (k : Nat) (x : Team) : (s.putTeam k x).replayBuf = s.replayBuf := rfl
@[simp] theorem State.putTeam_noCredit (s : State) (k : Nat) (x : Team) : (s.putTeam k x).noCredit = s.noCredit := rfl
@[simp] theorem State.putTeam_credits (s : State) (k : Nat) (x : Team) : (s.putTeam k x).credits = s.credits := rfl
@[simp] theorem State.putTeam_outbox (s : State) (k : Nat) (x : Team) : (s.putTeam k x).outbox = s.outbox := rfl
@[simp] theorem State.putTeam_lastk (s : State) (k : Nat) (x : Team) : (s.putTeam k x).lastk = s.lastk := rfl
@[simp] theorem State.putTeam_comms (s : State) (k : Nat) (x : Team) : (s.putTeam k x).comms = s.comms := rfl
@[simp] theorem State.putTeam_tpls (s : State) (k : Nat) (x : Team) : (s.putTeam k x).tpls = s.tpls := rfl
@[simp] theorem State.putTeam_colls (s : State) (k : Nat) (x : Team) : (s.putTeam k x).colls = s.colls := rfl
@[simp] theorem State.putTeam_offers (s : State) (k : Nat) (x : Team) : (s.putTeam k x).offers = s.offers := rfl
@[simp] theorem State.putTeam_notices (s : State) (k : Nat) (x : Team) : (s.putTeam k x).notices = s.notices := rfl
@[simp] theorem State.putTeam_waited (s : State) (k : Nat) (x : Team) : (s.putTeam k x).waited = s.waited := rfl
@[simp] theorem State.putTeam_inbox (s : State) (k : Nat) (x : Team) : (s.putTeam k x).inbox = s.inbox := rfl
@[simp] theorem State.putTeam_steps (s : State) (k : Nat) (x : Team) : (s.putTeam k x).steps = s.steps := rfl
@[simp] theorem State.putTeam_sampling (s : State) (k : Nat) (x : Team) : (s.putTeam k x).sampling = s.sampling := rfl
@[simp] theorem State.putTeam_summed (s : State) (k : Nat) (x : Team) : (s.putTeam k x).summed = s.summed := rfl
@[simp] theorem State.putTeam_sampled (s : State) (k : Nat) (x : Team) : (s.putTeam k x).sampled = s.sampled := rfl
@[simp] theorem State.putTeam_seqBase (s : State) (k : Nat) (x : Team) : (s.putTeam k x).seqBase = s.seqBase := rfl
@[simp] theorem State.putTeam_tstat (s : State) (k : Nat) (x : Team) : (s.putTeam k x).tstat = s.tstat := rfl
@[simp] theorem State.putTeam_mgmtTime (s : State) (k : Nat) (x : Team) : (s.putTeam k x).mgmtTime = s.mgmtTime := rfl
@[simp] theorem State.putTeam_islands (s : State) (k : Nat) (x : Team) : (s.putTeam k x).islands = s.islands := rfl
@[simp] theorem State.putTeam_budget (s : State) (k : Nat) (x : Team) : (s.putTeam k x).budget = s.budget := rfl
@[simp] theorem State.putTeam_life (s : State) (k : Nat) (x : Team) : (s.putTeam k x).life = s.life := rfl
@[simp] theorem State.putTeam_lifeNext (s : State) (k : Nat) (x : Team) : (s.putTeam k x).lifeNext = s.lifeNext := rfl
@[simp] theorem State.putTeam_resets (s : State) (k : Nat) (x : Team) : (s.putTeam k x).resets = s.resets := rfl
@[simp] theorem State.putTeam_attest (s : State) (k : Nat) (x : Team) : (s.putTeam k x).attest = s.attest := rfl
@[simp] theorem State.putTeam_recovery (s : State) (k : Nat) (x : Team) : (s.putTeam k x).recovery = s.recovery := rfl
@[simp] theorem State.putTeam_meas (s : State) (k : Nat) (x : Team) : (s.putTeam k x).meas = s.meas := rfl
@[simp] theorem State.putTeam_rootKey (s : State) (k : Nat) (x : Team) : (s.putTeam k x).rootKey = s.rootKey := rfl
@[simp] theorem State.putTeam_operKey (s : State) (k : Nat) (x : Team) : (s.putTeam k x).operKey = s.operKey := rfl
@[simp] theorem State.putTeam_chErrors (s : State) (k : Nat) (x : Team) : (s.putTeam k x).chErrors = s.chErrors := rfl
@[simp] theorem State.putTeam_chSpared (s : State) (k : Nat) (x : Team) : (s.putTeam k x).chSpared = s.chSpared := rfl

/-! ### putTask -/

@[simp] theorem State.putTask_cur (s : State) (k : Nat) (x : Task) : (s.putTask k x).cur = s.cur := rfl
@[simp] theorem State.putTask_agenda (s : State) (k : Nat) (x : Task) : (s.putTask k x).agenda = s.agenda := rfl
@[simp] theorem State.putTask_tried (s : State) (k : Nat) (x : Task) : (s.putTask k x).tried = s.tried := rfl
@[simp] theorem State.putTask_lately (s : State) (k : Nat) (x : Task) : (s.putTask k x).lately = s.lately := rfl
@[simp] theorem State.putTask_turns (s : State) (k : Nat) (x : Task) : (s.putTask k x).turns = s.turns := rfl
@[simp] theorem State.putTask_clock (s : State) (k : Nat) (x : Task) : (s.putTask k x).clock = s.clock := rfl
@[simp] theorem State.putTask_freeCtr (s : State) (k : Nat) (x : Task) : (s.putTask k x).freeCtr = s.freeCtr := rfl
@[simp] theorem State.putTask_groups (s : State) (k : Nat) (x : Task) : (s.putTask k x).groups = s.groups := rfl
@[simp] theorem State.putTask_teams (s : State) (k : Nat) (x : Task) : (s.putTask k x).teams = s.teams := rfl
@[simp] theorem State.putTask_ctxCores (s : State) (k : Nat) (x : Task) : (s.putTask k x).ctxCores = s.ctxCores := rfl
@[simp] theorem State.putTask_hbm (s : State) (k : Nat) (x : Task) : (s.putTask k x).hbm = s.hbm := rfl
@[simp] theorem State.putTask_stratus (s : State) (k : Nat) (x : Task) : (s.putTask k x).stratus = s.stratus := rfl
@[simp] theorem State.putTask_host (s : State) (k : Nat) (x : Task) : (s.putTask k x).host = s.host := rfl
@[simp] theorem State.putTask_peer (s : State) (k : Nat) (x : Task) : (s.putTask k x).peer = s.peer := rfl
@[simp] theorem State.putTask_scratch (s : State) (k : Nat) (x : Task) : (s.putTask k x).scratch = s.scratch := rfl
@[simp] theorem State.putTask_accum (s : State) (k : Nat) (x : Task) : (s.putTask k x).accum = s.accum := rfl
@[simp] theorem State.putTask_l1 (s : State) (k : Nat) (x : Task) : (s.putTask k x).l1 = s.l1 := rfl
@[simp] theorem State.putTask_l1Ctr (s : State) (k : Nat) (x : Task) : (s.putTask k x).l1Ctr = s.l1Ctr := rfl
@[simp] theorem State.putTask_tlb (s : State) (k : Nat) (x : Task) : (s.putTask k x).tlb = s.tlb := rfl
@[simp] theorem State.putTask_l1tlb (s : State) (k : Nat) (x : Task) : (s.putTask k x).l1tlb = s.l1tlb := rfl
@[simp] theorem State.putTask_walks (s : State) (k : Nat) (x : Task) : (s.putTask k x).walks = s.walks := rfl
@[simp] theorem State.putTask_ants (s : State) (k : Nat) (x : Task) : (s.putTask k x).ants = s.ants := rfl
@[simp] theorem State.putTask_icache (s : State) (k : Nat) (x : Task) : (s.putTask k x).icache = s.icache := rfl
@[simp] theorem State.putTask_owned (s : State) (k : Nat) (x : Task) : (s.putTask k x).owned = s.owned := rfl
@[simp] theorem State.putTask_armed (s : State) (k : Nat) (x : Task) : (s.putTask k x).armed = s.armed := rfl
@[simp] theorem State.putTask_refresh (s : State) (k : Nat) (x : Task) : (s.putTask k x).refresh = s.refresh := rfl
@[simp] theorem State.putTask_seqs (s : State) (k : Nat) (x : Task) : (s.putTask k x).seqs = s.seqs := rfl
@[simp] theorem State.putTask_jet (s : State) (k : Nat) (x : Task) : (s.putTask k x).jet = s.jet := rfl
@[simp] theorem State.putTask_drops (s : State) (k : Nat) (x : Task) : (s.putTask k x).drops = s.drops := rfl
@[simp] theorem State.putTask_contrail (s : State) (k : Nat) (x : Task) : (s.putTask k x).contrail = s.contrail := rfl
@[simp] theorem State.putTask_stamps (s : State) (k : Nat) (x : Task) : (s.putTask k x).stamps = s.stamps := rfl
@[simp] theorem State.putTask_counts (s : State) (k : Nat) (x : Task) : (s.putTask k x).counts = s.counts := rfl
@[simp] theorem State.putTask_routes (s : State) (k : Nat) (x : Task) : (s.putTask k x).routes = s.routes := rfl
@[simp] theorem State.putTask_queues (s : State) (k : Nat) (x : Task) : (s.putTask k x).queues = s.queues := rfl
@[simp] theorem State.putTask_graphs (s : State) (k : Nat) (x : Task) : (s.putTask k x).graphs = s.graphs := rfl
@[simp] theorem State.putTask_graphCtr (s : State) (k : Nat) (x : Task) : (s.putTask k x).graphCtr = s.graphCtr := rfl
@[simp] theorem State.putTask_teamCtr (s : State) (k : Nat) (x : Task) : (s.putTask k x).teamCtr = s.teamCtr := rfl
@[simp] theorem State.putTask_ready (s : State) (k : Nat) (x : Task) : (s.putTask k x).ready = s.ready := rfl
@[simp] theorem State.putTask_overflow (s : State) (k : Nat) (x : Task) : (s.putTask k x).overflow = s.overflow := rfl
@[simp] theorem State.putTask_ovBase (s : State) (k : Nat) (x : Task) : (s.putTask k x).ovBase = s.ovBase := rfl
@[simp] theorem State.putTask_ovMax (s : State) (k : Nat) (x : Task) : (s.putTask k x).ovMax = s.ovMax := rfl
@[simp] theorem State.putTask_deferred (s : State) (k : Nat) (x : Task) : (s.putTask k x).deferred = s.deferred := rfl
@[simp] theorem State.putTask_ctxs (s : State) (k : Nat) (x : Task) : (s.putTask k x).ctxs = s.ctxs := rfl
@[simp] theorem State.putTask_device (s : State) (k : Nat) (x : Task) : (s.putTask k x).device = s.device := rfl
@[simp] theorem State.putTask_poison (s : State) (k : Nat) (x : Task) : (s.putTask k x).poison = s.poison := rfl
@[simp] theorem State.putTask_tlbis (s : State) (k : Nat) (x : Task) : (s.putTask k x).tlbis = s.tlbis := rfl
@[simp] theorem State.putTask_ggens (s : State) (k : Nat) (x : Task) : (s.putTask k x).ggens = s.ggens := rfl
@[simp] theorem State.putTask_cmdCtr (s : State) (k : Nat) (x : Task) : (s.putTask k x).cmdCtr = s.cmdCtr := rfl
@[simp] theorem State.putTask_copies (s : State) (k : Nat) (x : Task) : (s.putTask k x).copies = s.copies := rfl
@[simp] theorem State.putTask_rings (s : State) (k : Nat) (x : Task) : (s.putTask k x).rings = s.rings := rfl
@[simp] theorem State.putTask_mx (s : State) (k : Nat) (x : Task) : (s.putTask k x).mx = s.mx := rfl
@[simp] theorem State.putTask_spares (s : State) (k : Nat) (x : Task) : (s.putTask k x).spares = s.spares := rfl
@[simp] theorem State.putTask_lastTaken (s : State) (k : Nat) (x : Task) : (s.putTask k x).lastTaken = s.lastTaken := rfl
@[simp] theorem State.putTask_irqs (s : State) (k : Nat) (x : Task) : (s.putTask k x).irqs = s.irqs := rfl
@[simp] theorem State.putTask_hostDown (s : State) (k : Nat) (x : Task) : (s.putTask k x).hostDown = s.hostDown := rfl
@[simp] theorem State.putTask_switches (s : State) (k : Nat) (x : Task) : (s.putTask k x).switches = s.switches := rfl
@[simp] theorem State.putTask_saved (s : State) (k : Nat) (x : Task) : (s.putTask k x).saved = s.saved := rfl
@[simp] theorem State.putTask_absent (s : State) (k : Nat) (x : Task) : (s.putTask k x).absent = s.absent := rfl
@[simp] theorem State.putTask_phys (s : State) (k : Nat) (x : Task) : (s.putTask k x).phys = s.phys := rfl
@[simp] theorem State.putTask_portsDown (s : State) (k : Nat) (x : Task) : (s.putTask k x).portsDown = s.portsDown := rfl
@[simp] theorem State.putTask_lanesLost (s : State) (k : Nat) (x : Task) : (s.putTask k x).lanesLost = s.lanesLost := rfl
@[simp] theorem State.putTask_reqIds (s : State) (k : Nat) (x : Task) : (s.putTask k x).reqIds = s.reqIds := rfl
@[simp] theorem State.putTask_filters (s : State) (k : Nat) (x : Task) : (s.putTask k x).filters = s.filters := rfl
@[simp] theorem State.putTask_linkSeqs (s : State) (k : Nat) (x : Task) : (s.putTask k x).linkSeqs = s.linkSeqs := rfl
@[simp] theorem State.putTask_replayBuf (s : State) (k : Nat) (x : Task) : (s.putTask k x).replayBuf = s.replayBuf := rfl
@[simp] theorem State.putTask_noCredit (s : State) (k : Nat) (x : Task) : (s.putTask k x).noCredit = s.noCredit := rfl
@[simp] theorem State.putTask_credits (s : State) (k : Nat) (x : Task) : (s.putTask k x).credits = s.credits := rfl
@[simp] theorem State.putTask_outbox (s : State) (k : Nat) (x : Task) : (s.putTask k x).outbox = s.outbox := rfl
@[simp] theorem State.putTask_lastk (s : State) (k : Nat) (x : Task) : (s.putTask k x).lastk = s.lastk := rfl
@[simp] theorem State.putTask_comms (s : State) (k : Nat) (x : Task) : (s.putTask k x).comms = s.comms := rfl
@[simp] theorem State.putTask_tpls (s : State) (k : Nat) (x : Task) : (s.putTask k x).tpls = s.tpls := rfl
@[simp] theorem State.putTask_colls (s : State) (k : Nat) (x : Task) : (s.putTask k x).colls = s.colls := rfl
@[simp] theorem State.putTask_offers (s : State) (k : Nat) (x : Task) : (s.putTask k x).offers = s.offers := rfl
@[simp] theorem State.putTask_notices (s : State) (k : Nat) (x : Task) : (s.putTask k x).notices = s.notices := rfl
@[simp] theorem State.putTask_waited (s : State) (k : Nat) (x : Task) : (s.putTask k x).waited = s.waited := rfl
@[simp] theorem State.putTask_inbox (s : State) (k : Nat) (x : Task) : (s.putTask k x).inbox = s.inbox := rfl
@[simp] theorem State.putTask_steps (s : State) (k : Nat) (x : Task) : (s.putTask k x).steps = s.steps := rfl
@[simp] theorem State.putTask_sampling (s : State) (k : Nat) (x : Task) : (s.putTask k x).sampling = s.sampling := rfl
@[simp] theorem State.putTask_summed (s : State) (k : Nat) (x : Task) : (s.putTask k x).summed = s.summed := rfl
@[simp] theorem State.putTask_sampled (s : State) (k : Nat) (x : Task) : (s.putTask k x).sampled = s.sampled := rfl
@[simp] theorem State.putTask_seqBase (s : State) (k : Nat) (x : Task) : (s.putTask k x).seqBase = s.seqBase := rfl
@[simp] theorem State.putTask_tstat (s : State) (k : Nat) (x : Task) : (s.putTask k x).tstat = s.tstat := rfl
@[simp] theorem State.putTask_mgmtTime (s : State) (k : Nat) (x : Task) : (s.putTask k x).mgmtTime = s.mgmtTime := rfl
@[simp] theorem State.putTask_islands (s : State) (k : Nat) (x : Task) : (s.putTask k x).islands = s.islands := rfl
@[simp] theorem State.putTask_budget (s : State) (k : Nat) (x : Task) : (s.putTask k x).budget = s.budget := rfl
@[simp] theorem State.putTask_life (s : State) (k : Nat) (x : Task) : (s.putTask k x).life = s.life := rfl
@[simp] theorem State.putTask_lifeNext (s : State) (k : Nat) (x : Task) : (s.putTask k x).lifeNext = s.lifeNext := rfl
@[simp] theorem State.putTask_resets (s : State) (k : Nat) (x : Task) : (s.putTask k x).resets = s.resets := rfl
@[simp] theorem State.putTask_attest (s : State) (k : Nat) (x : Task) : (s.putTask k x).attest = s.attest := rfl
@[simp] theorem State.putTask_recovery (s : State) (k : Nat) (x : Task) : (s.putTask k x).recovery = s.recovery := rfl
@[simp] theorem State.putTask_meas (s : State) (k : Nat) (x : Task) : (s.putTask k x).meas = s.meas := rfl
@[simp] theorem State.putTask_rootKey (s : State) (k : Nat) (x : Task) : (s.putTask k x).rootKey = s.rootKey := rfl
@[simp] theorem State.putTask_operKey (s : State) (k : Nat) (x : Task) : (s.putTask k x).operKey = s.operKey := rfl
@[simp] theorem State.putTask_chErrors (s : State) (k : Nat) (x : Task) : (s.putTask k x).chErrors = s.chErrors := rfl
@[simp] theorem State.putTask_chSpared (s : State) (k : Nat) (x : Task) : (s.putTask k x).chSpared = s.chSpared := rfl

/-! ### putGraph -/

@[simp] theorem State.putGraph_cur (s : State) (k : Nat) (x : Graph) : (s.putGraph k x).cur = s.cur := rfl
@[simp] theorem State.putGraph_agenda (s : State) (k : Nat) (x : Graph) : (s.putGraph k x).agenda = s.agenda := rfl
@[simp] theorem State.putGraph_tried (s : State) (k : Nat) (x : Graph) : (s.putGraph k x).tried = s.tried := rfl
@[simp] theorem State.putGraph_lately (s : State) (k : Nat) (x : Graph) : (s.putGraph k x).lately = s.lately := rfl
@[simp] theorem State.putGraph_turns (s : State) (k : Nat) (x : Graph) : (s.putGraph k x).turns = s.turns := rfl
@[simp] theorem State.putGraph_clock (s : State) (k : Nat) (x : Graph) : (s.putGraph k x).clock = s.clock := rfl
@[simp] theorem State.putGraph_freeCtr (s : State) (k : Nat) (x : Graph) : (s.putGraph k x).freeCtr = s.freeCtr := rfl
@[simp] theorem State.putGraph_groups (s : State) (k : Nat) (x : Graph) : (s.putGraph k x).groups = s.groups := rfl
@[simp] theorem State.putGraph_teams (s : State) (k : Nat) (x : Graph) : (s.putGraph k x).teams = s.teams := rfl
@[simp] theorem State.putGraph_ctxCores (s : State) (k : Nat) (x : Graph) : (s.putGraph k x).ctxCores = s.ctxCores := rfl
@[simp] theorem State.putGraph_hbm (s : State) (k : Nat) (x : Graph) : (s.putGraph k x).hbm = s.hbm := rfl
@[simp] theorem State.putGraph_stratus (s : State) (k : Nat) (x : Graph) : (s.putGraph k x).stratus = s.stratus := rfl
@[simp] theorem State.putGraph_host (s : State) (k : Nat) (x : Graph) : (s.putGraph k x).host = s.host := rfl
@[simp] theorem State.putGraph_peer (s : State) (k : Nat) (x : Graph) : (s.putGraph k x).peer = s.peer := rfl
@[simp] theorem State.putGraph_scratch (s : State) (k : Nat) (x : Graph) : (s.putGraph k x).scratch = s.scratch := rfl
@[simp] theorem State.putGraph_accum (s : State) (k : Nat) (x : Graph) : (s.putGraph k x).accum = s.accum := rfl
@[simp] theorem State.putGraph_l1 (s : State) (k : Nat) (x : Graph) : (s.putGraph k x).l1 = s.l1 := rfl
@[simp] theorem State.putGraph_l1Ctr (s : State) (k : Nat) (x : Graph) : (s.putGraph k x).l1Ctr = s.l1Ctr := rfl
@[simp] theorem State.putGraph_tlb (s : State) (k : Nat) (x : Graph) : (s.putGraph k x).tlb = s.tlb := rfl
@[simp] theorem State.putGraph_l1tlb (s : State) (k : Nat) (x : Graph) : (s.putGraph k x).l1tlb = s.l1tlb := rfl
@[simp] theorem State.putGraph_walks (s : State) (k : Nat) (x : Graph) : (s.putGraph k x).walks = s.walks := rfl
@[simp] theorem State.putGraph_ants (s : State) (k : Nat) (x : Graph) : (s.putGraph k x).ants = s.ants := rfl
@[simp] theorem State.putGraph_icache (s : State) (k : Nat) (x : Graph) : (s.putGraph k x).icache = s.icache := rfl
@[simp] theorem State.putGraph_owned (s : State) (k : Nat) (x : Graph) : (s.putGraph k x).owned = s.owned := rfl
@[simp] theorem State.putGraph_armed (s : State) (k : Nat) (x : Graph) : (s.putGraph k x).armed = s.armed := rfl
@[simp] theorem State.putGraph_refresh (s : State) (k : Nat) (x : Graph) : (s.putGraph k x).refresh = s.refresh := rfl
@[simp] theorem State.putGraph_seqs (s : State) (k : Nat) (x : Graph) : (s.putGraph k x).seqs = s.seqs := rfl
@[simp] theorem State.putGraph_jet (s : State) (k : Nat) (x : Graph) : (s.putGraph k x).jet = s.jet := rfl
@[simp] theorem State.putGraph_drops (s : State) (k : Nat) (x : Graph) : (s.putGraph k x).drops = s.drops := rfl
@[simp] theorem State.putGraph_contrail (s : State) (k : Nat) (x : Graph) : (s.putGraph k x).contrail = s.contrail := rfl
@[simp] theorem State.putGraph_stamps (s : State) (k : Nat) (x : Graph) : (s.putGraph k x).stamps = s.stamps := rfl
@[simp] theorem State.putGraph_counts (s : State) (k : Nat) (x : Graph) : (s.putGraph k x).counts = s.counts := rfl
@[simp] theorem State.putGraph_routes (s : State) (k : Nat) (x : Graph) : (s.putGraph k x).routes = s.routes := rfl
@[simp] theorem State.putGraph_queues (s : State) (k : Nat) (x : Graph) : (s.putGraph k x).queues = s.queues := rfl
@[simp] theorem State.putGraph_graphCtr (s : State) (k : Nat) (x : Graph) : (s.putGraph k x).graphCtr = s.graphCtr := rfl
@[simp] theorem State.putGraph_tasks (s : State) (k : Nat) (x : Graph) : (s.putGraph k x).tasks = s.tasks := rfl
@[simp] theorem State.putGraph_teamCtr (s : State) (k : Nat) (x : Graph) : (s.putGraph k x).teamCtr = s.teamCtr := rfl
@[simp] theorem State.putGraph_ready (s : State) (k : Nat) (x : Graph) : (s.putGraph k x).ready = s.ready := rfl
@[simp] theorem State.putGraph_overflow (s : State) (k : Nat) (x : Graph) : (s.putGraph k x).overflow = s.overflow := rfl
@[simp] theorem State.putGraph_ovBase (s : State) (k : Nat) (x : Graph) : (s.putGraph k x).ovBase = s.ovBase := rfl
@[simp] theorem State.putGraph_ovMax (s : State) (k : Nat) (x : Graph) : (s.putGraph k x).ovMax = s.ovMax := rfl
@[simp] theorem State.putGraph_deferred (s : State) (k : Nat) (x : Graph) : (s.putGraph k x).deferred = s.deferred := rfl
@[simp] theorem State.putGraph_ctxs (s : State) (k : Nat) (x : Graph) : (s.putGraph k x).ctxs = s.ctxs := rfl
@[simp] theorem State.putGraph_device (s : State) (k : Nat) (x : Graph) : (s.putGraph k x).device = s.device := rfl
@[simp] theorem State.putGraph_poison (s : State) (k : Nat) (x : Graph) : (s.putGraph k x).poison = s.poison := rfl
@[simp] theorem State.putGraph_tlbis (s : State) (k : Nat) (x : Graph) : (s.putGraph k x).tlbis = s.tlbis := rfl
@[simp] theorem State.putGraph_ggens (s : State) (k : Nat) (x : Graph) : (s.putGraph k x).ggens = s.ggens := rfl
@[simp] theorem State.putGraph_cmdCtr (s : State) (k : Nat) (x : Graph) : (s.putGraph k x).cmdCtr = s.cmdCtr := rfl
@[simp] theorem State.putGraph_copies (s : State) (k : Nat) (x : Graph) : (s.putGraph k x).copies = s.copies := rfl
@[simp] theorem State.putGraph_rings (s : State) (k : Nat) (x : Graph) : (s.putGraph k x).rings = s.rings := rfl
@[simp] theorem State.putGraph_mx (s : State) (k : Nat) (x : Graph) : (s.putGraph k x).mx = s.mx := rfl
@[simp] theorem State.putGraph_spares (s : State) (k : Nat) (x : Graph) : (s.putGraph k x).spares = s.spares := rfl
@[simp] theorem State.putGraph_lastTaken (s : State) (k : Nat) (x : Graph) : (s.putGraph k x).lastTaken = s.lastTaken := rfl
@[simp] theorem State.putGraph_irqs (s : State) (k : Nat) (x : Graph) : (s.putGraph k x).irqs = s.irqs := rfl
@[simp] theorem State.putGraph_hostDown (s : State) (k : Nat) (x : Graph) : (s.putGraph k x).hostDown = s.hostDown := rfl
@[simp] theorem State.putGraph_switches (s : State) (k : Nat) (x : Graph) : (s.putGraph k x).switches = s.switches := rfl
@[simp] theorem State.putGraph_saved (s : State) (k : Nat) (x : Graph) : (s.putGraph k x).saved = s.saved := rfl
@[simp] theorem State.putGraph_absent (s : State) (k : Nat) (x : Graph) : (s.putGraph k x).absent = s.absent := rfl
@[simp] theorem State.putGraph_phys (s : State) (k : Nat) (x : Graph) : (s.putGraph k x).phys = s.phys := rfl
@[simp] theorem State.putGraph_portsDown (s : State) (k : Nat) (x : Graph) : (s.putGraph k x).portsDown = s.portsDown := rfl
@[simp] theorem State.putGraph_lanesLost (s : State) (k : Nat) (x : Graph) : (s.putGraph k x).lanesLost = s.lanesLost := rfl
@[simp] theorem State.putGraph_reqIds (s : State) (k : Nat) (x : Graph) : (s.putGraph k x).reqIds = s.reqIds := rfl
@[simp] theorem State.putGraph_filters (s : State) (k : Nat) (x : Graph) : (s.putGraph k x).filters = s.filters := rfl
@[simp] theorem State.putGraph_linkSeqs (s : State) (k : Nat) (x : Graph) : (s.putGraph k x).linkSeqs = s.linkSeqs := rfl
@[simp] theorem State.putGraph_replayBuf (s : State) (k : Nat) (x : Graph) : (s.putGraph k x).replayBuf = s.replayBuf := rfl
@[simp] theorem State.putGraph_noCredit (s : State) (k : Nat) (x : Graph) : (s.putGraph k x).noCredit = s.noCredit := rfl
@[simp] theorem State.putGraph_credits (s : State) (k : Nat) (x : Graph) : (s.putGraph k x).credits = s.credits := rfl
@[simp] theorem State.putGraph_outbox (s : State) (k : Nat) (x : Graph) : (s.putGraph k x).outbox = s.outbox := rfl
@[simp] theorem State.putGraph_lastk (s : State) (k : Nat) (x : Graph) : (s.putGraph k x).lastk = s.lastk := rfl
@[simp] theorem State.putGraph_comms (s : State) (k : Nat) (x : Graph) : (s.putGraph k x).comms = s.comms := rfl
@[simp] theorem State.putGraph_tpls (s : State) (k : Nat) (x : Graph) : (s.putGraph k x).tpls = s.tpls := rfl
@[simp] theorem State.putGraph_colls (s : State) (k : Nat) (x : Graph) : (s.putGraph k x).colls = s.colls := rfl
@[simp] theorem State.putGraph_offers (s : State) (k : Nat) (x : Graph) : (s.putGraph k x).offers = s.offers := rfl
@[simp] theorem State.putGraph_notices (s : State) (k : Nat) (x : Graph) : (s.putGraph k x).notices = s.notices := rfl
@[simp] theorem State.putGraph_waited (s : State) (k : Nat) (x : Graph) : (s.putGraph k x).waited = s.waited := rfl
@[simp] theorem State.putGraph_inbox (s : State) (k : Nat) (x : Graph) : (s.putGraph k x).inbox = s.inbox := rfl
@[simp] theorem State.putGraph_steps (s : State) (k : Nat) (x : Graph) : (s.putGraph k x).steps = s.steps := rfl
@[simp] theorem State.putGraph_sampling (s : State) (k : Nat) (x : Graph) : (s.putGraph k x).sampling = s.sampling := rfl
@[simp] theorem State.putGraph_summed (s : State) (k : Nat) (x : Graph) : (s.putGraph k x).summed = s.summed := rfl
@[simp] theorem State.putGraph_sampled (s : State) (k : Nat) (x : Graph) : (s.putGraph k x).sampled = s.sampled := rfl
@[simp] theorem State.putGraph_seqBase (s : State) (k : Nat) (x : Graph) : (s.putGraph k x).seqBase = s.seqBase := rfl
@[simp] theorem State.putGraph_tstat (s : State) (k : Nat) (x : Graph) : (s.putGraph k x).tstat = s.tstat := rfl
@[simp] theorem State.putGraph_mgmtTime (s : State) (k : Nat) (x : Graph) : (s.putGraph k x).mgmtTime = s.mgmtTime := rfl
@[simp] theorem State.putGraph_islands (s : State) (k : Nat) (x : Graph) : (s.putGraph k x).islands = s.islands := rfl
@[simp] theorem State.putGraph_budget (s : State) (k : Nat) (x : Graph) : (s.putGraph k x).budget = s.budget := rfl
@[simp] theorem State.putGraph_life (s : State) (k : Nat) (x : Graph) : (s.putGraph k x).life = s.life := rfl
@[simp] theorem State.putGraph_lifeNext (s : State) (k : Nat) (x : Graph) : (s.putGraph k x).lifeNext = s.lifeNext := rfl
@[simp] theorem State.putGraph_resets (s : State) (k : Nat) (x : Graph) : (s.putGraph k x).resets = s.resets := rfl
@[simp] theorem State.putGraph_attest (s : State) (k : Nat) (x : Graph) : (s.putGraph k x).attest = s.attest := rfl
@[simp] theorem State.putGraph_recovery (s : State) (k : Nat) (x : Graph) : (s.putGraph k x).recovery = s.recovery := rfl
@[simp] theorem State.putGraph_meas (s : State) (k : Nat) (x : Graph) : (s.putGraph k x).meas = s.meas := rfl
@[simp] theorem State.putGraph_rootKey (s : State) (k : Nat) (x : Graph) : (s.putGraph k x).rootKey = s.rootKey := rfl
@[simp] theorem State.putGraph_operKey (s : State) (k : Nat) (x : Graph) : (s.putGraph k x).operKey = s.operKey := rfl
@[simp] theorem State.putGraph_chErrors (s : State) (k : Nat) (x : Graph) : (s.putGraph k x).chErrors = s.chErrors := rfl
@[simp] theorem State.putGraph_chSpared (s : State) (k : Nat) (x : Graph) : (s.putGraph k x).chSpared = s.chSpared := rfl

/-! ### putQueue -/

@[simp] theorem State.putQueue_cur (s : State) (k : Nat) (x : Queue) : (s.putQueue k x).cur = s.cur := rfl
@[simp] theorem State.putQueue_agenda (s : State) (k : Nat) (x : Queue) : (s.putQueue k x).agenda = s.agenda := rfl
@[simp] theorem State.putQueue_tried (s : State) (k : Nat) (x : Queue) : (s.putQueue k x).tried = s.tried := rfl
@[simp] theorem State.putQueue_lately (s : State) (k : Nat) (x : Queue) : (s.putQueue k x).lately = s.lately := rfl
@[simp] theorem State.putQueue_turns (s : State) (k : Nat) (x : Queue) : (s.putQueue k x).turns = s.turns := rfl
@[simp] theorem State.putQueue_clock (s : State) (k : Nat) (x : Queue) : (s.putQueue k x).clock = s.clock := rfl
@[simp] theorem State.putQueue_freeCtr (s : State) (k : Nat) (x : Queue) : (s.putQueue k x).freeCtr = s.freeCtr := rfl
@[simp] theorem State.putQueue_groups (s : State) (k : Nat) (x : Queue) : (s.putQueue k x).groups = s.groups := rfl
@[simp] theorem State.putQueue_teams (s : State) (k : Nat) (x : Queue) : (s.putQueue k x).teams = s.teams := rfl
@[simp] theorem State.putQueue_ctxCores (s : State) (k : Nat) (x : Queue) : (s.putQueue k x).ctxCores = s.ctxCores := rfl
@[simp] theorem State.putQueue_hbm (s : State) (k : Nat) (x : Queue) : (s.putQueue k x).hbm = s.hbm := rfl
@[simp] theorem State.putQueue_stratus (s : State) (k : Nat) (x : Queue) : (s.putQueue k x).stratus = s.stratus := rfl
@[simp] theorem State.putQueue_host (s : State) (k : Nat) (x : Queue) : (s.putQueue k x).host = s.host := rfl
@[simp] theorem State.putQueue_peer (s : State) (k : Nat) (x : Queue) : (s.putQueue k x).peer = s.peer := rfl
@[simp] theorem State.putQueue_scratch (s : State) (k : Nat) (x : Queue) : (s.putQueue k x).scratch = s.scratch := rfl
@[simp] theorem State.putQueue_accum (s : State) (k : Nat) (x : Queue) : (s.putQueue k x).accum = s.accum := rfl
@[simp] theorem State.putQueue_l1 (s : State) (k : Nat) (x : Queue) : (s.putQueue k x).l1 = s.l1 := rfl
@[simp] theorem State.putQueue_l1Ctr (s : State) (k : Nat) (x : Queue) : (s.putQueue k x).l1Ctr = s.l1Ctr := rfl
@[simp] theorem State.putQueue_tlb (s : State) (k : Nat) (x : Queue) : (s.putQueue k x).tlb = s.tlb := rfl
@[simp] theorem State.putQueue_l1tlb (s : State) (k : Nat) (x : Queue) : (s.putQueue k x).l1tlb = s.l1tlb := rfl
@[simp] theorem State.putQueue_walks (s : State) (k : Nat) (x : Queue) : (s.putQueue k x).walks = s.walks := rfl
@[simp] theorem State.putQueue_ants (s : State) (k : Nat) (x : Queue) : (s.putQueue k x).ants = s.ants := rfl
@[simp] theorem State.putQueue_icache (s : State) (k : Nat) (x : Queue) : (s.putQueue k x).icache = s.icache := rfl
@[simp] theorem State.putQueue_owned (s : State) (k : Nat) (x : Queue) : (s.putQueue k x).owned = s.owned := rfl
@[simp] theorem State.putQueue_armed (s : State) (k : Nat) (x : Queue) : (s.putQueue k x).armed = s.armed := rfl
@[simp] theorem State.putQueue_refresh (s : State) (k : Nat) (x : Queue) : (s.putQueue k x).refresh = s.refresh := rfl
@[simp] theorem State.putQueue_seqs (s : State) (k : Nat) (x : Queue) : (s.putQueue k x).seqs = s.seqs := rfl
@[simp] theorem State.putQueue_jet (s : State) (k : Nat) (x : Queue) : (s.putQueue k x).jet = s.jet := rfl
@[simp] theorem State.putQueue_drops (s : State) (k : Nat) (x : Queue) : (s.putQueue k x).drops = s.drops := rfl
@[simp] theorem State.putQueue_contrail (s : State) (k : Nat) (x : Queue) : (s.putQueue k x).contrail = s.contrail := rfl
@[simp] theorem State.putQueue_stamps (s : State) (k : Nat) (x : Queue) : (s.putQueue k x).stamps = s.stamps := rfl
@[simp] theorem State.putQueue_counts (s : State) (k : Nat) (x : Queue) : (s.putQueue k x).counts = s.counts := rfl
@[simp] theorem State.putQueue_routes (s : State) (k : Nat) (x : Queue) : (s.putQueue k x).routes = s.routes := rfl
@[simp] theorem State.putQueue_graphs (s : State) (k : Nat) (x : Queue) : (s.putQueue k x).graphs = s.graphs := rfl
@[simp] theorem State.putQueue_graphCtr (s : State) (k : Nat) (x : Queue) : (s.putQueue k x).graphCtr = s.graphCtr := rfl
@[simp] theorem State.putQueue_tasks (s : State) (k : Nat) (x : Queue) : (s.putQueue k x).tasks = s.tasks := rfl
@[simp] theorem State.putQueue_teamCtr (s : State) (k : Nat) (x : Queue) : (s.putQueue k x).teamCtr = s.teamCtr := rfl
@[simp] theorem State.putQueue_ready (s : State) (k : Nat) (x : Queue) : (s.putQueue k x).ready = s.ready := rfl
@[simp] theorem State.putQueue_overflow (s : State) (k : Nat) (x : Queue) : (s.putQueue k x).overflow = s.overflow := rfl
@[simp] theorem State.putQueue_ovBase (s : State) (k : Nat) (x : Queue) : (s.putQueue k x).ovBase = s.ovBase := rfl
@[simp] theorem State.putQueue_ovMax (s : State) (k : Nat) (x : Queue) : (s.putQueue k x).ovMax = s.ovMax := rfl
@[simp] theorem State.putQueue_deferred (s : State) (k : Nat) (x : Queue) : (s.putQueue k x).deferred = s.deferred := rfl
@[simp] theorem State.putQueue_ctxs (s : State) (k : Nat) (x : Queue) : (s.putQueue k x).ctxs = s.ctxs := rfl
@[simp] theorem State.putQueue_device (s : State) (k : Nat) (x : Queue) : (s.putQueue k x).device = s.device := rfl
@[simp] theorem State.putQueue_poison (s : State) (k : Nat) (x : Queue) : (s.putQueue k x).poison = s.poison := rfl
@[simp] theorem State.putQueue_tlbis (s : State) (k : Nat) (x : Queue) : (s.putQueue k x).tlbis = s.tlbis := rfl
@[simp] theorem State.putQueue_ggens (s : State) (k : Nat) (x : Queue) : (s.putQueue k x).ggens = s.ggens := rfl
@[simp] theorem State.putQueue_cmdCtr (s : State) (k : Nat) (x : Queue) : (s.putQueue k x).cmdCtr = s.cmdCtr := rfl
@[simp] theorem State.putQueue_copies (s : State) (k : Nat) (x : Queue) : (s.putQueue k x).copies = s.copies := rfl
@[simp] theorem State.putQueue_rings (s : State) (k : Nat) (x : Queue) : (s.putQueue k x).rings = s.rings := rfl
@[simp] theorem State.putQueue_mx (s : State) (k : Nat) (x : Queue) : (s.putQueue k x).mx = s.mx := rfl
@[simp] theorem State.putQueue_spares (s : State) (k : Nat) (x : Queue) : (s.putQueue k x).spares = s.spares := rfl
@[simp] theorem State.putQueue_lastTaken (s : State) (k : Nat) (x : Queue) : (s.putQueue k x).lastTaken = s.lastTaken := rfl
@[simp] theorem State.putQueue_irqs (s : State) (k : Nat) (x : Queue) : (s.putQueue k x).irqs = s.irqs := rfl
@[simp] theorem State.putQueue_hostDown (s : State) (k : Nat) (x : Queue) : (s.putQueue k x).hostDown = s.hostDown := rfl
@[simp] theorem State.putQueue_switches (s : State) (k : Nat) (x : Queue) : (s.putQueue k x).switches = s.switches := rfl
@[simp] theorem State.putQueue_saved (s : State) (k : Nat) (x : Queue) : (s.putQueue k x).saved = s.saved := rfl
@[simp] theorem State.putQueue_absent (s : State) (k : Nat) (x : Queue) : (s.putQueue k x).absent = s.absent := rfl
@[simp] theorem State.putQueue_phys (s : State) (k : Nat) (x : Queue) : (s.putQueue k x).phys = s.phys := rfl
@[simp] theorem State.putQueue_portsDown (s : State) (k : Nat) (x : Queue) : (s.putQueue k x).portsDown = s.portsDown := rfl
@[simp] theorem State.putQueue_lanesLost (s : State) (k : Nat) (x : Queue) : (s.putQueue k x).lanesLost = s.lanesLost := rfl
@[simp] theorem State.putQueue_reqIds (s : State) (k : Nat) (x : Queue) : (s.putQueue k x).reqIds = s.reqIds := rfl
@[simp] theorem State.putQueue_filters (s : State) (k : Nat) (x : Queue) : (s.putQueue k x).filters = s.filters := rfl
@[simp] theorem State.putQueue_linkSeqs (s : State) (k : Nat) (x : Queue) : (s.putQueue k x).linkSeqs = s.linkSeqs := rfl
@[simp] theorem State.putQueue_replayBuf (s : State) (k : Nat) (x : Queue) : (s.putQueue k x).replayBuf = s.replayBuf := rfl
@[simp] theorem State.putQueue_noCredit (s : State) (k : Nat) (x : Queue) : (s.putQueue k x).noCredit = s.noCredit := rfl
@[simp] theorem State.putQueue_credits (s : State) (k : Nat) (x : Queue) : (s.putQueue k x).credits = s.credits := rfl
@[simp] theorem State.putQueue_outbox (s : State) (k : Nat) (x : Queue) : (s.putQueue k x).outbox = s.outbox := rfl
@[simp] theorem State.putQueue_lastk (s : State) (k : Nat) (x : Queue) : (s.putQueue k x).lastk = s.lastk := rfl
@[simp] theorem State.putQueue_comms (s : State) (k : Nat) (x : Queue) : (s.putQueue k x).comms = s.comms := rfl
@[simp] theorem State.putQueue_tpls (s : State) (k : Nat) (x : Queue) : (s.putQueue k x).tpls = s.tpls := rfl
@[simp] theorem State.putQueue_colls (s : State) (k : Nat) (x : Queue) : (s.putQueue k x).colls = s.colls := rfl
@[simp] theorem State.putQueue_offers (s : State) (k : Nat) (x : Queue) : (s.putQueue k x).offers = s.offers := rfl
@[simp] theorem State.putQueue_notices (s : State) (k : Nat) (x : Queue) : (s.putQueue k x).notices = s.notices := rfl
@[simp] theorem State.putQueue_waited (s : State) (k : Nat) (x : Queue) : (s.putQueue k x).waited = s.waited := rfl
@[simp] theorem State.putQueue_inbox (s : State) (k : Nat) (x : Queue) : (s.putQueue k x).inbox = s.inbox := rfl
@[simp] theorem State.putQueue_steps (s : State) (k : Nat) (x : Queue) : (s.putQueue k x).steps = s.steps := rfl
@[simp] theorem State.putQueue_sampling (s : State) (k : Nat) (x : Queue) : (s.putQueue k x).sampling = s.sampling := rfl
@[simp] theorem State.putQueue_summed (s : State) (k : Nat) (x : Queue) : (s.putQueue k x).summed = s.summed := rfl
@[simp] theorem State.putQueue_sampled (s : State) (k : Nat) (x : Queue) : (s.putQueue k x).sampled = s.sampled := rfl
@[simp] theorem State.putQueue_seqBase (s : State) (k : Nat) (x : Queue) : (s.putQueue k x).seqBase = s.seqBase := rfl
@[simp] theorem State.putQueue_tstat (s : State) (k : Nat) (x : Queue) : (s.putQueue k x).tstat = s.tstat := rfl
@[simp] theorem State.putQueue_mgmtTime (s : State) (k : Nat) (x : Queue) : (s.putQueue k x).mgmtTime = s.mgmtTime := rfl
@[simp] theorem State.putQueue_islands (s : State) (k : Nat) (x : Queue) : (s.putQueue k x).islands = s.islands := rfl
@[simp] theorem State.putQueue_budget (s : State) (k : Nat) (x : Queue) : (s.putQueue k x).budget = s.budget := rfl
@[simp] theorem State.putQueue_life (s : State) (k : Nat) (x : Queue) : (s.putQueue k x).life = s.life := rfl
@[simp] theorem State.putQueue_lifeNext (s : State) (k : Nat) (x : Queue) : (s.putQueue k x).lifeNext = s.lifeNext := rfl
@[simp] theorem State.putQueue_resets (s : State) (k : Nat) (x : Queue) : (s.putQueue k x).resets = s.resets := rfl
@[simp] theorem State.putQueue_attest (s : State) (k : Nat) (x : Queue) : (s.putQueue k x).attest = s.attest := rfl
@[simp] theorem State.putQueue_recovery (s : State) (k : Nat) (x : Queue) : (s.putQueue k x).recovery = s.recovery := rfl
@[simp] theorem State.putQueue_meas (s : State) (k : Nat) (x : Queue) : (s.putQueue k x).meas = s.meas := rfl
@[simp] theorem State.putQueue_rootKey (s : State) (k : Nat) (x : Queue) : (s.putQueue k x).rootKey = s.rootKey := rfl
@[simp] theorem State.putQueue_operKey (s : State) (k : Nat) (x : Queue) : (s.putQueue k x).operKey = s.operKey := rfl
@[simp] theorem State.putQueue_chErrors (s : State) (k : Nat) (x : Queue) : (s.putQueue k x).chErrors = s.chErrors := rfl
@[simp] theorem State.putQueue_chSpared (s : State) (k : Nat) (x : Queue) : (s.putQueue k x).chSpared = s.chSpared := rfl

/-! ### putCtx -/

@[simp] theorem State.putCtx_cur (s : State) (a : BitVec 16) (x : Ctx) : (s.putCtx a x).cur = s.cur := rfl
@[simp] theorem State.putCtx_agenda (s : State) (a : BitVec 16) (x : Ctx) : (s.putCtx a x).agenda = s.agenda := rfl
@[simp] theorem State.putCtx_tried (s : State) (a : BitVec 16) (x : Ctx) : (s.putCtx a x).tried = s.tried := rfl
@[simp] theorem State.putCtx_lately (s : State) (a : BitVec 16) (x : Ctx) : (s.putCtx a x).lately = s.lately := rfl
@[simp] theorem State.putCtx_turns (s : State) (a : BitVec 16) (x : Ctx) : (s.putCtx a x).turns = s.turns := rfl
@[simp] theorem State.putCtx_clock (s : State) (a : BitVec 16) (x : Ctx) : (s.putCtx a x).clock = s.clock := rfl
@[simp] theorem State.putCtx_freeCtr (s : State) (a : BitVec 16) (x : Ctx) : (s.putCtx a x).freeCtr = s.freeCtr := rfl
@[simp] theorem State.putCtx_groups (s : State) (a : BitVec 16) (x : Ctx) : (s.putCtx a x).groups = s.groups := rfl
@[simp] theorem State.putCtx_teams (s : State) (a : BitVec 16) (x : Ctx) : (s.putCtx a x).teams = s.teams := rfl
@[simp] theorem State.putCtx_ctxCores (s : State) (a : BitVec 16) (x : Ctx) : (s.putCtx a x).ctxCores = s.ctxCores := rfl
@[simp] theorem State.putCtx_hbm (s : State) (a : BitVec 16) (x : Ctx) : (s.putCtx a x).hbm = s.hbm := rfl
@[simp] theorem State.putCtx_stratus (s : State) (a : BitVec 16) (x : Ctx) : (s.putCtx a x).stratus = s.stratus := rfl
@[simp] theorem State.putCtx_host (s : State) (a : BitVec 16) (x : Ctx) : (s.putCtx a x).host = s.host := rfl
@[simp] theorem State.putCtx_peer (s : State) (a : BitVec 16) (x : Ctx) : (s.putCtx a x).peer = s.peer := rfl
@[simp] theorem State.putCtx_scratch (s : State) (a : BitVec 16) (x : Ctx) : (s.putCtx a x).scratch = s.scratch := rfl
@[simp] theorem State.putCtx_accum (s : State) (a : BitVec 16) (x : Ctx) : (s.putCtx a x).accum = s.accum := rfl
@[simp] theorem State.putCtx_l1 (s : State) (a : BitVec 16) (x : Ctx) : (s.putCtx a x).l1 = s.l1 := rfl
@[simp] theorem State.putCtx_l1Ctr (s : State) (a : BitVec 16) (x : Ctx) : (s.putCtx a x).l1Ctr = s.l1Ctr := rfl
@[simp] theorem State.putCtx_tlb (s : State) (a : BitVec 16) (x : Ctx) : (s.putCtx a x).tlb = s.tlb := rfl
@[simp] theorem State.putCtx_l1tlb (s : State) (a : BitVec 16) (x : Ctx) : (s.putCtx a x).l1tlb = s.l1tlb := rfl
@[simp] theorem State.putCtx_walks (s : State) (a : BitVec 16) (x : Ctx) : (s.putCtx a x).walks = s.walks := rfl
@[simp] theorem State.putCtx_ants (s : State) (a : BitVec 16) (x : Ctx) : (s.putCtx a x).ants = s.ants := rfl
@[simp] theorem State.putCtx_icache (s : State) (a : BitVec 16) (x : Ctx) : (s.putCtx a x).icache = s.icache := rfl
@[simp] theorem State.putCtx_owned (s : State) (a : BitVec 16) (x : Ctx) : (s.putCtx a x).owned = s.owned := rfl
@[simp] theorem State.putCtx_armed (s : State) (a : BitVec 16) (x : Ctx) : (s.putCtx a x).armed = s.armed := rfl
@[simp] theorem State.putCtx_refresh (s : State) (a : BitVec 16) (x : Ctx) : (s.putCtx a x).refresh = s.refresh := rfl
@[simp] theorem State.putCtx_seqs (s : State) (a : BitVec 16) (x : Ctx) : (s.putCtx a x).seqs = s.seqs := rfl
@[simp] theorem State.putCtx_jet (s : State) (a : BitVec 16) (x : Ctx) : (s.putCtx a x).jet = s.jet := rfl
@[simp] theorem State.putCtx_drops (s : State) (a : BitVec 16) (x : Ctx) : (s.putCtx a x).drops = s.drops := rfl
@[simp] theorem State.putCtx_contrail (s : State) (a : BitVec 16) (x : Ctx) : (s.putCtx a x).contrail = s.contrail := rfl
@[simp] theorem State.putCtx_stamps (s : State) (a : BitVec 16) (x : Ctx) : (s.putCtx a x).stamps = s.stamps := rfl
@[simp] theorem State.putCtx_counts (s : State) (a : BitVec 16) (x : Ctx) : (s.putCtx a x).counts = s.counts := rfl
@[simp] theorem State.putCtx_routes (s : State) (a : BitVec 16) (x : Ctx) : (s.putCtx a x).routes = s.routes := rfl
@[simp] theorem State.putCtx_queues (s : State) (a : BitVec 16) (x : Ctx) : (s.putCtx a x).queues = s.queues := rfl
@[simp] theorem State.putCtx_graphs (s : State) (a : BitVec 16) (x : Ctx) : (s.putCtx a x).graphs = s.graphs := rfl
@[simp] theorem State.putCtx_graphCtr (s : State) (a : BitVec 16) (x : Ctx) : (s.putCtx a x).graphCtr = s.graphCtr := rfl
@[simp] theorem State.putCtx_tasks (s : State) (a : BitVec 16) (x : Ctx) : (s.putCtx a x).tasks = s.tasks := rfl
@[simp] theorem State.putCtx_teamCtr (s : State) (a : BitVec 16) (x : Ctx) : (s.putCtx a x).teamCtr = s.teamCtr := rfl
@[simp] theorem State.putCtx_ready (s : State) (a : BitVec 16) (x : Ctx) : (s.putCtx a x).ready = s.ready := rfl
@[simp] theorem State.putCtx_overflow (s : State) (a : BitVec 16) (x : Ctx) : (s.putCtx a x).overflow = s.overflow := rfl
@[simp] theorem State.putCtx_ovBase (s : State) (a : BitVec 16) (x : Ctx) : (s.putCtx a x).ovBase = s.ovBase := rfl
@[simp] theorem State.putCtx_ovMax (s : State) (a : BitVec 16) (x : Ctx) : (s.putCtx a x).ovMax = s.ovMax := rfl
@[simp] theorem State.putCtx_deferred (s : State) (a : BitVec 16) (x : Ctx) : (s.putCtx a x).deferred = s.deferred := rfl
@[simp] theorem State.putCtx_device (s : State) (a : BitVec 16) (x : Ctx) : (s.putCtx a x).device = s.device := rfl
@[simp] theorem State.putCtx_poison (s : State) (a : BitVec 16) (x : Ctx) : (s.putCtx a x).poison = s.poison := rfl
@[simp] theorem State.putCtx_tlbis (s : State) (a : BitVec 16) (x : Ctx) : (s.putCtx a x).tlbis = s.tlbis := rfl
@[simp] theorem State.putCtx_ggens (s : State) (a : BitVec 16) (x : Ctx) : (s.putCtx a x).ggens = s.ggens := rfl
@[simp] theorem State.putCtx_cmdCtr (s : State) (a : BitVec 16) (x : Ctx) : (s.putCtx a x).cmdCtr = s.cmdCtr := rfl
@[simp] theorem State.putCtx_copies (s : State) (a : BitVec 16) (x : Ctx) : (s.putCtx a x).copies = s.copies := rfl
@[simp] theorem State.putCtx_rings (s : State) (a : BitVec 16) (x : Ctx) : (s.putCtx a x).rings = s.rings := rfl
@[simp] theorem State.putCtx_mx (s : State) (a : BitVec 16) (x : Ctx) : (s.putCtx a x).mx = s.mx := rfl
@[simp] theorem State.putCtx_spares (s : State) (a : BitVec 16) (x : Ctx) : (s.putCtx a x).spares = s.spares := rfl
@[simp] theorem State.putCtx_lastTaken (s : State) (a : BitVec 16) (x : Ctx) : (s.putCtx a x).lastTaken = s.lastTaken := rfl
@[simp] theorem State.putCtx_irqs (s : State) (a : BitVec 16) (x : Ctx) : (s.putCtx a x).irqs = s.irqs := rfl
@[simp] theorem State.putCtx_hostDown (s : State) (a : BitVec 16) (x : Ctx) : (s.putCtx a x).hostDown = s.hostDown := rfl
@[simp] theorem State.putCtx_switches (s : State) (a : BitVec 16) (x : Ctx) : (s.putCtx a x).switches = s.switches := rfl
@[simp] theorem State.putCtx_saved (s : State) (a : BitVec 16) (x : Ctx) : (s.putCtx a x).saved = s.saved := rfl
@[simp] theorem State.putCtx_absent (s : State) (a : BitVec 16) (x : Ctx) : (s.putCtx a x).absent = s.absent := rfl
@[simp] theorem State.putCtx_phys (s : State) (a : BitVec 16) (x : Ctx) : (s.putCtx a x).phys = s.phys := rfl
@[simp] theorem State.putCtx_portsDown (s : State) (a : BitVec 16) (x : Ctx) : (s.putCtx a x).portsDown = s.portsDown := rfl
@[simp] theorem State.putCtx_lanesLost (s : State) (a : BitVec 16) (x : Ctx) : (s.putCtx a x).lanesLost = s.lanesLost := rfl
@[simp] theorem State.putCtx_reqIds (s : State) (a : BitVec 16) (x : Ctx) : (s.putCtx a x).reqIds = s.reqIds := rfl
@[simp] theorem State.putCtx_filters (s : State) (a : BitVec 16) (x : Ctx) : (s.putCtx a x).filters = s.filters := rfl
@[simp] theorem State.putCtx_linkSeqs (s : State) (a : BitVec 16) (x : Ctx) : (s.putCtx a x).linkSeqs = s.linkSeqs := rfl
@[simp] theorem State.putCtx_replayBuf (s : State) (a : BitVec 16) (x : Ctx) : (s.putCtx a x).replayBuf = s.replayBuf := rfl
@[simp] theorem State.putCtx_noCredit (s : State) (a : BitVec 16) (x : Ctx) : (s.putCtx a x).noCredit = s.noCredit := rfl
@[simp] theorem State.putCtx_credits (s : State) (a : BitVec 16) (x : Ctx) : (s.putCtx a x).credits = s.credits := rfl
@[simp] theorem State.putCtx_outbox (s : State) (a : BitVec 16) (x : Ctx) : (s.putCtx a x).outbox = s.outbox := rfl
@[simp] theorem State.putCtx_lastk (s : State) (a : BitVec 16) (x : Ctx) : (s.putCtx a x).lastk = s.lastk := rfl
@[simp] theorem State.putCtx_comms (s : State) (a : BitVec 16) (x : Ctx) : (s.putCtx a x).comms = s.comms := rfl
@[simp] theorem State.putCtx_tpls (s : State) (a : BitVec 16) (x : Ctx) : (s.putCtx a x).tpls = s.tpls := rfl
@[simp] theorem State.putCtx_colls (s : State) (a : BitVec 16) (x : Ctx) : (s.putCtx a x).colls = s.colls := rfl
@[simp] theorem State.putCtx_offers (s : State) (a : BitVec 16) (x : Ctx) : (s.putCtx a x).offers = s.offers := rfl
@[simp] theorem State.putCtx_notices (s : State) (a : BitVec 16) (x : Ctx) : (s.putCtx a x).notices = s.notices := rfl
@[simp] theorem State.putCtx_waited (s : State) (a : BitVec 16) (x : Ctx) : (s.putCtx a x).waited = s.waited := rfl
@[simp] theorem State.putCtx_inbox (s : State) (a : BitVec 16) (x : Ctx) : (s.putCtx a x).inbox = s.inbox := rfl
@[simp] theorem State.putCtx_steps (s : State) (a : BitVec 16) (x : Ctx) : (s.putCtx a x).steps = s.steps := rfl
@[simp] theorem State.putCtx_sampling (s : State) (a : BitVec 16) (x : Ctx) : (s.putCtx a x).sampling = s.sampling := rfl
@[simp] theorem State.putCtx_summed (s : State) (a : BitVec 16) (x : Ctx) : (s.putCtx a x).summed = s.summed := rfl
@[simp] theorem State.putCtx_sampled (s : State) (a : BitVec 16) (x : Ctx) : (s.putCtx a x).sampled = s.sampled := rfl
@[simp] theorem State.putCtx_seqBase (s : State) (a : BitVec 16) (x : Ctx) : (s.putCtx a x).seqBase = s.seqBase := rfl
@[simp] theorem State.putCtx_tstat (s : State) (a : BitVec 16) (x : Ctx) : (s.putCtx a x).tstat = s.tstat := rfl
@[simp] theorem State.putCtx_mgmtTime (s : State) (a : BitVec 16) (x : Ctx) : (s.putCtx a x).mgmtTime = s.mgmtTime := rfl
@[simp] theorem State.putCtx_islands (s : State) (a : BitVec 16) (x : Ctx) : (s.putCtx a x).islands = s.islands := rfl
@[simp] theorem State.putCtx_budget (s : State) (a : BitVec 16) (x : Ctx) : (s.putCtx a x).budget = s.budget := rfl
@[simp] theorem State.putCtx_life (s : State) (a : BitVec 16) (x : Ctx) : (s.putCtx a x).life = s.life := rfl
@[simp] theorem State.putCtx_lifeNext (s : State) (a : BitVec 16) (x : Ctx) : (s.putCtx a x).lifeNext = s.lifeNext := rfl
@[simp] theorem State.putCtx_resets (s : State) (a : BitVec 16) (x : Ctx) : (s.putCtx a x).resets = s.resets := rfl
@[simp] theorem State.putCtx_attest (s : State) (a : BitVec 16) (x : Ctx) : (s.putCtx a x).attest = s.attest := rfl
@[simp] theorem State.putCtx_recovery (s : State) (a : BitVec 16) (x : Ctx) : (s.putCtx a x).recovery = s.recovery := rfl
@[simp] theorem State.putCtx_meas (s : State) (a : BitVec 16) (x : Ctx) : (s.putCtx a x).meas = s.meas := rfl
@[simp] theorem State.putCtx_rootKey (s : State) (a : BitVec 16) (x : Ctx) : (s.putCtx a x).rootKey = s.rootKey := rfl
@[simp] theorem State.putCtx_operKey (s : State) (a : BitVec 16) (x : Ctx) : (s.putCtx a x).operKey = s.operKey := rfl
@[simp] theorem State.putCtx_chErrors (s : State) (a : BitVec 16) (x : Ctx) : (s.putCtx a x).chErrors = s.chErrors := rfl
@[simp] theorem State.putCtx_chSpared (s : State) (a : BitVec 16) (x : Ctx) : (s.putCtx a x).chSpared = s.chSpared := rfl

/-! ### putCtxCore -/

@[simp] theorem State.putCtxCore_cur (s : State) (c : Nat) (a : BitVec 16) (x : CtxCore) : (s.putCtxCore c a x).cur = s.cur := rfl
@[simp] theorem State.putCtxCore_agenda (s : State) (c : Nat) (a : BitVec 16) (x : CtxCore) : (s.putCtxCore c a x).agenda = s.agenda := rfl
@[simp] theorem State.putCtxCore_tried (s : State) (c : Nat) (a : BitVec 16) (x : CtxCore) : (s.putCtxCore c a x).tried = s.tried := rfl
@[simp] theorem State.putCtxCore_lately (s : State) (c : Nat) (a : BitVec 16) (x : CtxCore) : (s.putCtxCore c a x).lately = s.lately := rfl
@[simp] theorem State.putCtxCore_turns (s : State) (c : Nat) (a : BitVec 16) (x : CtxCore) : (s.putCtxCore c a x).turns = s.turns := rfl
@[simp] theorem State.putCtxCore_clock (s : State) (c : Nat) (a : BitVec 16) (x : CtxCore) : (s.putCtxCore c a x).clock = s.clock := rfl
@[simp] theorem State.putCtxCore_freeCtr (s : State) (c : Nat) (a : BitVec 16) (x : CtxCore) : (s.putCtxCore c a x).freeCtr = s.freeCtr := rfl
@[simp] theorem State.putCtxCore_groups (s : State) (c : Nat) (a : BitVec 16) (x : CtxCore) : (s.putCtxCore c a x).groups = s.groups := rfl
@[simp] theorem State.putCtxCore_teams (s : State) (c : Nat) (a : BitVec 16) (x : CtxCore) : (s.putCtxCore c a x).teams = s.teams := rfl
@[simp] theorem State.putCtxCore_hbm (s : State) (c : Nat) (a : BitVec 16) (x : CtxCore) : (s.putCtxCore c a x).hbm = s.hbm := rfl
@[simp] theorem State.putCtxCore_stratus (s : State) (c : Nat) (a : BitVec 16) (x : CtxCore) : (s.putCtxCore c a x).stratus = s.stratus := rfl
@[simp] theorem State.putCtxCore_host (s : State) (c : Nat) (a : BitVec 16) (x : CtxCore) : (s.putCtxCore c a x).host = s.host := rfl
@[simp] theorem State.putCtxCore_peer (s : State) (c : Nat) (a : BitVec 16) (x : CtxCore) : (s.putCtxCore c a x).peer = s.peer := rfl
@[simp] theorem State.putCtxCore_scratch (s : State) (c : Nat) (a : BitVec 16) (x : CtxCore) : (s.putCtxCore c a x).scratch = s.scratch := rfl
@[simp] theorem State.putCtxCore_accum (s : State) (c : Nat) (a : BitVec 16) (x : CtxCore) : (s.putCtxCore c a x).accum = s.accum := rfl
@[simp] theorem State.putCtxCore_l1 (s : State) (c : Nat) (a : BitVec 16) (x : CtxCore) : (s.putCtxCore c a x).l1 = s.l1 := rfl
@[simp] theorem State.putCtxCore_l1Ctr (s : State) (c : Nat) (a : BitVec 16) (x : CtxCore) : (s.putCtxCore c a x).l1Ctr = s.l1Ctr := rfl
@[simp] theorem State.putCtxCore_tlb (s : State) (c : Nat) (a : BitVec 16) (x : CtxCore) : (s.putCtxCore c a x).tlb = s.tlb := rfl
@[simp] theorem State.putCtxCore_l1tlb (s : State) (c : Nat) (a : BitVec 16) (x : CtxCore) : (s.putCtxCore c a x).l1tlb = s.l1tlb := rfl
@[simp] theorem State.putCtxCore_walks (s : State) (c : Nat) (a : BitVec 16) (x : CtxCore) : (s.putCtxCore c a x).walks = s.walks := rfl
@[simp] theorem State.putCtxCore_ants (s : State) (c : Nat) (a : BitVec 16) (x : CtxCore) : (s.putCtxCore c a x).ants = s.ants := rfl
@[simp] theorem State.putCtxCore_icache (s : State) (c : Nat) (a : BitVec 16) (x : CtxCore) : (s.putCtxCore c a x).icache = s.icache := rfl
@[simp] theorem State.putCtxCore_owned (s : State) (c : Nat) (a : BitVec 16) (x : CtxCore) : (s.putCtxCore c a x).owned = s.owned := rfl
@[simp] theorem State.putCtxCore_armed (s : State) (c : Nat) (a : BitVec 16) (x : CtxCore) : (s.putCtxCore c a x).armed = s.armed := rfl
@[simp] theorem State.putCtxCore_refresh (s : State) (c : Nat) (a : BitVec 16) (x : CtxCore) : (s.putCtxCore c a x).refresh = s.refresh := rfl
@[simp] theorem State.putCtxCore_seqs (s : State) (c : Nat) (a : BitVec 16) (x : CtxCore) : (s.putCtxCore c a x).seqs = s.seqs := rfl
@[simp] theorem State.putCtxCore_jet (s : State) (c : Nat) (a : BitVec 16) (x : CtxCore) : (s.putCtxCore c a x).jet = s.jet := rfl
@[simp] theorem State.putCtxCore_drops (s : State) (c : Nat) (a : BitVec 16) (x : CtxCore) : (s.putCtxCore c a x).drops = s.drops := rfl
@[simp] theorem State.putCtxCore_contrail (s : State) (c : Nat) (a : BitVec 16) (x : CtxCore) : (s.putCtxCore c a x).contrail = s.contrail := rfl
@[simp] theorem State.putCtxCore_stamps (s : State) (c : Nat) (a : BitVec 16) (x : CtxCore) : (s.putCtxCore c a x).stamps = s.stamps := rfl
@[simp] theorem State.putCtxCore_counts (s : State) (c : Nat) (a : BitVec 16) (x : CtxCore) : (s.putCtxCore c a x).counts = s.counts := rfl
@[simp] theorem State.putCtxCore_routes (s : State) (c : Nat) (a : BitVec 16) (x : CtxCore) : (s.putCtxCore c a x).routes = s.routes := rfl
@[simp] theorem State.putCtxCore_queues (s : State) (c : Nat) (a : BitVec 16) (x : CtxCore) : (s.putCtxCore c a x).queues = s.queues := rfl
@[simp] theorem State.putCtxCore_graphs (s : State) (c : Nat) (a : BitVec 16) (x : CtxCore) : (s.putCtxCore c a x).graphs = s.graphs := rfl
@[simp] theorem State.putCtxCore_graphCtr (s : State) (c : Nat) (a : BitVec 16) (x : CtxCore) : (s.putCtxCore c a x).graphCtr = s.graphCtr := rfl
@[simp] theorem State.putCtxCore_tasks (s : State) (c : Nat) (a : BitVec 16) (x : CtxCore) : (s.putCtxCore c a x).tasks = s.tasks := rfl
@[simp] theorem State.putCtxCore_teamCtr (s : State) (c : Nat) (a : BitVec 16) (x : CtxCore) : (s.putCtxCore c a x).teamCtr = s.teamCtr := rfl
@[simp] theorem State.putCtxCore_ready (s : State) (c : Nat) (a : BitVec 16) (x : CtxCore) : (s.putCtxCore c a x).ready = s.ready := rfl
@[simp] theorem State.putCtxCore_overflow (s : State) (c : Nat) (a : BitVec 16) (x : CtxCore) : (s.putCtxCore c a x).overflow = s.overflow := rfl
@[simp] theorem State.putCtxCore_ovBase (s : State) (c : Nat) (a : BitVec 16) (x : CtxCore) : (s.putCtxCore c a x).ovBase = s.ovBase := rfl
@[simp] theorem State.putCtxCore_ovMax (s : State) (c : Nat) (a : BitVec 16) (x : CtxCore) : (s.putCtxCore c a x).ovMax = s.ovMax := rfl
@[simp] theorem State.putCtxCore_deferred (s : State) (c : Nat) (a : BitVec 16) (x : CtxCore) : (s.putCtxCore c a x).deferred = s.deferred := rfl
@[simp] theorem State.putCtxCore_ctxs (s : State) (c : Nat) (a : BitVec 16) (x : CtxCore) : (s.putCtxCore c a x).ctxs = s.ctxs := rfl
@[simp] theorem State.putCtxCore_device (s : State) (c : Nat) (a : BitVec 16) (x : CtxCore) : (s.putCtxCore c a x).device = s.device := rfl
@[simp] theorem State.putCtxCore_poison (s : State) (c : Nat) (a : BitVec 16) (x : CtxCore) : (s.putCtxCore c a x).poison = s.poison := rfl
@[simp] theorem State.putCtxCore_tlbis (s : State) (c : Nat) (a : BitVec 16) (x : CtxCore) : (s.putCtxCore c a x).tlbis = s.tlbis := rfl
@[simp] theorem State.putCtxCore_ggens (s : State) (c : Nat) (a : BitVec 16) (x : CtxCore) : (s.putCtxCore c a x).ggens = s.ggens := rfl
@[simp] theorem State.putCtxCore_cmdCtr (s : State) (c : Nat) (a : BitVec 16) (x : CtxCore) : (s.putCtxCore c a x).cmdCtr = s.cmdCtr := rfl
@[simp] theorem State.putCtxCore_copies (s : State) (c : Nat) (a : BitVec 16) (x : CtxCore) : (s.putCtxCore c a x).copies = s.copies := rfl
@[simp] theorem State.putCtxCore_rings (s : State) (c : Nat) (a : BitVec 16) (x : CtxCore) : (s.putCtxCore c a x).rings = s.rings := rfl
@[simp] theorem State.putCtxCore_mx (s : State) (c : Nat) (a : BitVec 16) (x : CtxCore) : (s.putCtxCore c a x).mx = s.mx := rfl
@[simp] theorem State.putCtxCore_spares (s : State) (c : Nat) (a : BitVec 16) (x : CtxCore) : (s.putCtxCore c a x).spares = s.spares := rfl
@[simp] theorem State.putCtxCore_lastTaken (s : State) (c : Nat) (a : BitVec 16) (x : CtxCore) : (s.putCtxCore c a x).lastTaken = s.lastTaken := rfl
@[simp] theorem State.putCtxCore_irqs (s : State) (c : Nat) (a : BitVec 16) (x : CtxCore) : (s.putCtxCore c a x).irqs = s.irqs := rfl
@[simp] theorem State.putCtxCore_hostDown (s : State) (c : Nat) (a : BitVec 16) (x : CtxCore) : (s.putCtxCore c a x).hostDown = s.hostDown := rfl
@[simp] theorem State.putCtxCore_switches (s : State) (c : Nat) (a : BitVec 16) (x : CtxCore) : (s.putCtxCore c a x).switches = s.switches := rfl
@[simp] theorem State.putCtxCore_saved (s : State) (c : Nat) (a : BitVec 16) (x : CtxCore) : (s.putCtxCore c a x).saved = s.saved := rfl
@[simp] theorem State.putCtxCore_absent (s : State) (c : Nat) (a : BitVec 16) (x : CtxCore) : (s.putCtxCore c a x).absent = s.absent := rfl
@[simp] theorem State.putCtxCore_phys (s : State) (c : Nat) (a : BitVec 16) (x : CtxCore) : (s.putCtxCore c a x).phys = s.phys := rfl
@[simp] theorem State.putCtxCore_portsDown (s : State) (c : Nat) (a : BitVec 16) (x : CtxCore) : (s.putCtxCore c a x).portsDown = s.portsDown := rfl
@[simp] theorem State.putCtxCore_lanesLost (s : State) (c : Nat) (a : BitVec 16) (x : CtxCore) : (s.putCtxCore c a x).lanesLost = s.lanesLost := rfl
@[simp] theorem State.putCtxCore_reqIds (s : State) (c : Nat) (a : BitVec 16) (x : CtxCore) : (s.putCtxCore c a x).reqIds = s.reqIds := rfl
@[simp] theorem State.putCtxCore_filters (s : State) (c : Nat) (a : BitVec 16) (x : CtxCore) : (s.putCtxCore c a x).filters = s.filters := rfl
@[simp] theorem State.putCtxCore_linkSeqs (s : State) (c : Nat) (a : BitVec 16) (x : CtxCore) : (s.putCtxCore c a x).linkSeqs = s.linkSeqs := rfl
@[simp] theorem State.putCtxCore_replayBuf (s : State) (c : Nat) (a : BitVec 16) (x : CtxCore) : (s.putCtxCore c a x).replayBuf = s.replayBuf := rfl
@[simp] theorem State.putCtxCore_noCredit (s : State) (c : Nat) (a : BitVec 16) (x : CtxCore) : (s.putCtxCore c a x).noCredit = s.noCredit := rfl
@[simp] theorem State.putCtxCore_credits (s : State) (c : Nat) (a : BitVec 16) (x : CtxCore) : (s.putCtxCore c a x).credits = s.credits := rfl
@[simp] theorem State.putCtxCore_outbox (s : State) (c : Nat) (a : BitVec 16) (x : CtxCore) : (s.putCtxCore c a x).outbox = s.outbox := rfl
@[simp] theorem State.putCtxCore_lastk (s : State) (c : Nat) (a : BitVec 16) (x : CtxCore) : (s.putCtxCore c a x).lastk = s.lastk := rfl
@[simp] theorem State.putCtxCore_comms (s : State) (c : Nat) (a : BitVec 16) (x : CtxCore) : (s.putCtxCore c a x).comms = s.comms := rfl
@[simp] theorem State.putCtxCore_tpls (s : State) (c : Nat) (a : BitVec 16) (x : CtxCore) : (s.putCtxCore c a x).tpls = s.tpls := rfl
@[simp] theorem State.putCtxCore_colls (s : State) (c : Nat) (a : BitVec 16) (x : CtxCore) : (s.putCtxCore c a x).colls = s.colls := rfl
@[simp] theorem State.putCtxCore_offers (s : State) (c : Nat) (a : BitVec 16) (x : CtxCore) : (s.putCtxCore c a x).offers = s.offers := rfl
@[simp] theorem State.putCtxCore_notices (s : State) (c : Nat) (a : BitVec 16) (x : CtxCore) : (s.putCtxCore c a x).notices = s.notices := rfl
@[simp] theorem State.putCtxCore_waited (s : State) (c : Nat) (a : BitVec 16) (x : CtxCore) : (s.putCtxCore c a x).waited = s.waited := rfl
@[simp] theorem State.putCtxCore_inbox (s : State) (c : Nat) (a : BitVec 16) (x : CtxCore) : (s.putCtxCore c a x).inbox = s.inbox := rfl
@[simp] theorem State.putCtxCore_steps (s : State) (c : Nat) (a : BitVec 16) (x : CtxCore) : (s.putCtxCore c a x).steps = s.steps := rfl
@[simp] theorem State.putCtxCore_sampling (s : State) (c : Nat) (a : BitVec 16) (x : CtxCore) : (s.putCtxCore c a x).sampling = s.sampling := rfl
@[simp] theorem State.putCtxCore_summed (s : State) (c : Nat) (a : BitVec 16) (x : CtxCore) : (s.putCtxCore c a x).summed = s.summed := rfl
@[simp] theorem State.putCtxCore_sampled (s : State) (c : Nat) (a : BitVec 16) (x : CtxCore) : (s.putCtxCore c a x).sampled = s.sampled := rfl
@[simp] theorem State.putCtxCore_seqBase (s : State) (c : Nat) (a : BitVec 16) (x : CtxCore) : (s.putCtxCore c a x).seqBase = s.seqBase := rfl
@[simp] theorem State.putCtxCore_tstat (s : State) (c : Nat) (a : BitVec 16) (x : CtxCore) : (s.putCtxCore c a x).tstat = s.tstat := rfl
@[simp] theorem State.putCtxCore_mgmtTime (s : State) (c : Nat) (a : BitVec 16) (x : CtxCore) : (s.putCtxCore c a x).mgmtTime = s.mgmtTime := rfl
@[simp] theorem State.putCtxCore_islands (s : State) (c : Nat) (a : BitVec 16) (x : CtxCore) : (s.putCtxCore c a x).islands = s.islands := rfl
@[simp] theorem State.putCtxCore_budget (s : State) (c : Nat) (a : BitVec 16) (x : CtxCore) : (s.putCtxCore c a x).budget = s.budget := rfl
@[simp] theorem State.putCtxCore_life (s : State) (c : Nat) (a : BitVec 16) (x : CtxCore) : (s.putCtxCore c a x).life = s.life := rfl
@[simp] theorem State.putCtxCore_lifeNext (s : State) (c : Nat) (a : BitVec 16) (x : CtxCore) : (s.putCtxCore c a x).lifeNext = s.lifeNext := rfl
@[simp] theorem State.putCtxCore_resets (s : State) (c : Nat) (a : BitVec 16) (x : CtxCore) : (s.putCtxCore c a x).resets = s.resets := rfl
@[simp] theorem State.putCtxCore_attest (s : State) (c : Nat) (a : BitVec 16) (x : CtxCore) : (s.putCtxCore c a x).attest = s.attest := rfl
@[simp] theorem State.putCtxCore_recovery (s : State) (c : Nat) (a : BitVec 16) (x : CtxCore) : (s.putCtxCore c a x).recovery = s.recovery := rfl
@[simp] theorem State.putCtxCore_meas (s : State) (c : Nat) (a : BitVec 16) (x : CtxCore) : (s.putCtxCore c a x).meas = s.meas := rfl
@[simp] theorem State.putCtxCore_rootKey (s : State) (c : Nat) (a : BitVec 16) (x : CtxCore) : (s.putCtxCore c a x).rootKey = s.rootKey := rfl
@[simp] theorem State.putCtxCore_operKey (s : State) (c : Nat) (a : BitVec 16) (x : CtxCore) : (s.putCtxCore c a x).operKey = s.operKey := rfl
@[simp] theorem State.putCtxCore_chErrors (s : State) (c : Nat) (a : BitVec 16) (x : CtxCore) : (s.putCtxCore c a x).chErrors = s.chErrors := rfl
@[simp] theorem State.putCtxCore_chSpared (s : State) (c : Nat) (a : BitVec 16) (x : CtxCore) : (s.putCtxCore c a x).chSpared = s.chSpared := rfl

/-! ### advance -/

@[simp] theorem State.advance_cur (s : State) (e : Nat) : (s.advance e).cur = s.cur := rfl
@[simp] theorem State.advance_agenda (s : State) (e : Nat) : (s.advance e).agenda = s.agenda := rfl
@[simp] theorem State.advance_tried (s : State) (e : Nat) : (s.advance e).tried = s.tried := rfl
@[simp] theorem State.advance_lately (s : State) (e : Nat) : (s.advance e).lately = s.lately := rfl
@[simp] theorem State.advance_turns (s : State) (e : Nat) : (s.advance e).turns = s.turns := rfl
@[simp] theorem State.advance_clock (s : State) (e : Nat) : (s.advance e).clock = s.clock := rfl
@[simp] theorem State.advance_freeCtr (s : State) (e : Nat) : (s.advance e).freeCtr = s.freeCtr := rfl
@[simp] theorem State.advance_groups (s : State) (e : Nat) : (s.advance e).groups = s.groups := rfl
@[simp] theorem State.advance_teams (s : State) (e : Nat) : (s.advance e).teams = s.teams := rfl
@[simp] theorem State.advance_ctxCores (s : State) (e : Nat) : (s.advance e).ctxCores = s.ctxCores := rfl
@[simp] theorem State.advance_hbm (s : State) (e : Nat) : (s.advance e).hbm = s.hbm := rfl
@[simp] theorem State.advance_stratus (s : State) (e : Nat) : (s.advance e).stratus = s.stratus := rfl
@[simp] theorem State.advance_host (s : State) (e : Nat) : (s.advance e).host = s.host := rfl
@[simp] theorem State.advance_peer (s : State) (e : Nat) : (s.advance e).peer = s.peer := rfl
@[simp] theorem State.advance_scratch (s : State) (e : Nat) : (s.advance e).scratch = s.scratch := rfl
@[simp] theorem State.advance_accum (s : State) (e : Nat) : (s.advance e).accum = s.accum := rfl
@[simp] theorem State.advance_l1 (s : State) (e : Nat) : (s.advance e).l1 = s.l1 := rfl
@[simp] theorem State.advance_l1Ctr (s : State) (e : Nat) : (s.advance e).l1Ctr = s.l1Ctr := rfl
@[simp] theorem State.advance_tlb (s : State) (e : Nat) : (s.advance e).tlb = s.tlb := rfl
@[simp] theorem State.advance_l1tlb (s : State) (e : Nat) : (s.advance e).l1tlb = s.l1tlb := rfl
@[simp] theorem State.advance_walks (s : State) (e : Nat) : (s.advance e).walks = s.walks := rfl
@[simp] theorem State.advance_ants (s : State) (e : Nat) : (s.advance e).ants = s.ants := rfl
@[simp] theorem State.advance_icache (s : State) (e : Nat) : (s.advance e).icache = s.icache := rfl
@[simp] theorem State.advance_owned (s : State) (e : Nat) : (s.advance e).owned = s.owned := rfl
@[simp] theorem State.advance_armed (s : State) (e : Nat) : (s.advance e).armed = s.armed := rfl
@[simp] theorem State.advance_refresh (s : State) (e : Nat) : (s.advance e).refresh = s.refresh := rfl
@[simp] theorem State.advance_jet (s : State) (e : Nat) : (s.advance e).jet = s.jet := rfl
@[simp] theorem State.advance_drops (s : State) (e : Nat) : (s.advance e).drops = s.drops := rfl
@[simp] theorem State.advance_contrail (s : State) (e : Nat) : (s.advance e).contrail = s.contrail := rfl
@[simp] theorem State.advance_stamps (s : State) (e : Nat) : (s.advance e).stamps = s.stamps := rfl
@[simp] theorem State.advance_counts (s : State) (e : Nat) : (s.advance e).counts = s.counts := rfl
@[simp] theorem State.advance_routes (s : State) (e : Nat) : (s.advance e).routes = s.routes := rfl
@[simp] theorem State.advance_queues (s : State) (e : Nat) : (s.advance e).queues = s.queues := rfl
@[simp] theorem State.advance_graphs (s : State) (e : Nat) : (s.advance e).graphs = s.graphs := rfl
@[simp] theorem State.advance_graphCtr (s : State) (e : Nat) : (s.advance e).graphCtr = s.graphCtr := rfl
@[simp] theorem State.advance_tasks (s : State) (e : Nat) : (s.advance e).tasks = s.tasks := rfl
@[simp] theorem State.advance_teamCtr (s : State) (e : Nat) : (s.advance e).teamCtr = s.teamCtr := rfl
@[simp] theorem State.advance_ready (s : State) (e : Nat) : (s.advance e).ready = s.ready := rfl
@[simp] theorem State.advance_overflow (s : State) (e : Nat) : (s.advance e).overflow = s.overflow := rfl
@[simp] theorem State.advance_ovBase (s : State) (e : Nat) : (s.advance e).ovBase = s.ovBase := rfl
@[simp] theorem State.advance_ovMax (s : State) (e : Nat) : (s.advance e).ovMax = s.ovMax := rfl
@[simp] theorem State.advance_deferred (s : State) (e : Nat) : (s.advance e).deferred = s.deferred := rfl
@[simp] theorem State.advance_ctxs (s : State) (e : Nat) : (s.advance e).ctxs = s.ctxs := rfl
@[simp] theorem State.advance_device (s : State) (e : Nat) : (s.advance e).device = s.device := rfl
@[simp] theorem State.advance_poison (s : State) (e : Nat) : (s.advance e).poison = s.poison := rfl
@[simp] theorem State.advance_tlbis (s : State) (e : Nat) : (s.advance e).tlbis = s.tlbis := rfl
@[simp] theorem State.advance_ggens (s : State) (e : Nat) : (s.advance e).ggens = s.ggens := rfl
@[simp] theorem State.advance_cmdCtr (s : State) (e : Nat) : (s.advance e).cmdCtr = s.cmdCtr := rfl
@[simp] theorem State.advance_copies (s : State) (e : Nat) : (s.advance e).copies = s.copies := rfl
@[simp] theorem State.advance_rings (s : State) (e : Nat) : (s.advance e).rings = s.rings := rfl
@[simp] theorem State.advance_mx (s : State) (e : Nat) : (s.advance e).mx = s.mx := rfl
@[simp] theorem State.advance_spares (s : State) (e : Nat) : (s.advance e).spares = s.spares := rfl
@[simp] theorem State.advance_lastTaken (s : State) (e : Nat) : (s.advance e).lastTaken = s.lastTaken := rfl
@[simp] theorem State.advance_irqs (s : State) (e : Nat) : (s.advance e).irqs = s.irqs := rfl
@[simp] theorem State.advance_hostDown (s : State) (e : Nat) : (s.advance e).hostDown = s.hostDown := rfl
@[simp] theorem State.advance_switches (s : State) (e : Nat) : (s.advance e).switches = s.switches := rfl
@[simp] theorem State.advance_saved (s : State) (e : Nat) : (s.advance e).saved = s.saved := rfl
@[simp] theorem State.advance_absent (s : State) (e : Nat) : (s.advance e).absent = s.absent := rfl
@[simp] theorem State.advance_phys (s : State) (e : Nat) : (s.advance e).phys = s.phys := rfl
@[simp] theorem State.advance_portsDown (s : State) (e : Nat) : (s.advance e).portsDown = s.portsDown := rfl
@[simp] theorem State.advance_lanesLost (s : State) (e : Nat) : (s.advance e).lanesLost = s.lanesLost := rfl
@[simp] theorem State.advance_reqIds (s : State) (e : Nat) : (s.advance e).reqIds = s.reqIds := rfl
@[simp] theorem State.advance_filters (s : State) (e : Nat) : (s.advance e).filters = s.filters := rfl
@[simp] theorem State.advance_linkSeqs (s : State) (e : Nat) : (s.advance e).linkSeqs = s.linkSeqs := rfl
@[simp] theorem State.advance_replayBuf (s : State) (e : Nat) : (s.advance e).replayBuf = s.replayBuf := rfl
@[simp] theorem State.advance_noCredit (s : State) (e : Nat) : (s.advance e).noCredit = s.noCredit := rfl
@[simp] theorem State.advance_credits (s : State) (e : Nat) : (s.advance e).credits = s.credits := rfl
@[simp] theorem State.advance_outbox (s : State) (e : Nat) : (s.advance e).outbox = s.outbox := rfl
@[simp] theorem State.advance_lastk (s : State) (e : Nat) : (s.advance e).lastk = s.lastk := rfl
@[simp] theorem State.advance_comms (s : State) (e : Nat) : (s.advance e).comms = s.comms := rfl
@[simp] theorem State.advance_tpls (s : State) (e : Nat) : (s.advance e).tpls = s.tpls := rfl
@[simp] theorem State.advance_colls (s : State) (e : Nat) : (s.advance e).colls = s.colls := rfl
@[simp] theorem State.advance_offers (s : State) (e : Nat) : (s.advance e).offers = s.offers := rfl
@[simp] theorem State.advance_notices (s : State) (e : Nat) : (s.advance e).notices = s.notices := rfl
@[simp] theorem State.advance_waited (s : State) (e : Nat) : (s.advance e).waited = s.waited := rfl
@[simp] theorem State.advance_inbox (s : State) (e : Nat) : (s.advance e).inbox = s.inbox := rfl
@[simp] theorem State.advance_steps (s : State) (e : Nat) : (s.advance e).steps = s.steps := rfl
@[simp] theorem State.advance_sampling (s : State) (e : Nat) : (s.advance e).sampling = s.sampling := rfl
@[simp] theorem State.advance_summed (s : State) (e : Nat) : (s.advance e).summed = s.summed := rfl
@[simp] theorem State.advance_sampled (s : State) (e : Nat) : (s.advance e).sampled = s.sampled := rfl
@[simp] theorem State.advance_seqBase (s : State) (e : Nat) : (s.advance e).seqBase = s.seqBase := rfl
@[simp] theorem State.advance_tstat (s : State) (e : Nat) : (s.advance e).tstat = s.tstat := rfl
@[simp] theorem State.advance_mgmtTime (s : State) (e : Nat) : (s.advance e).mgmtTime = s.mgmtTime := rfl
@[simp] theorem State.advance_islands (s : State) (e : Nat) : (s.advance e).islands = s.islands := rfl
@[simp] theorem State.advance_budget (s : State) (e : Nat) : (s.advance e).budget = s.budget := rfl
@[simp] theorem State.advance_life (s : State) (e : Nat) : (s.advance e).life = s.life := rfl
@[simp] theorem State.advance_lifeNext (s : State) (e : Nat) : (s.advance e).lifeNext = s.lifeNext := rfl
@[simp] theorem State.advance_resets (s : State) (e : Nat) : (s.advance e).resets = s.resets := rfl
@[simp] theorem State.advance_attest (s : State) (e : Nat) : (s.advance e).attest = s.attest := rfl
@[simp] theorem State.advance_recovery (s : State) (e : Nat) : (s.advance e).recovery = s.recovery := rfl
@[simp] theorem State.advance_meas (s : State) (e : Nat) : (s.advance e).meas = s.meas := rfl
@[simp] theorem State.advance_rootKey (s : State) (e : Nat) : (s.advance e).rootKey = s.rootKey := rfl
@[simp] theorem State.advance_operKey (s : State) (e : Nat) : (s.advance e).operKey = s.operKey := rfl
@[simp] theorem State.advance_chErrors (s : State) (e : Nat) : (s.advance e).chErrors = s.chErrors := rfl
@[simp] theorem State.advance_chSpared (s : State) (e : Nat) : (s.advance e).chSpared = s.chSpared := rfl

/-! ### receive -/

@[simp] theorem State.receive_cur (s : State) (e : Nat) (x : DWord) : (s.receive e x).cur = s.cur := rfl
@[simp] theorem State.receive_agenda (s : State) (e : Nat) (x : DWord) : (s.receive e x).agenda = s.agenda := rfl
@[simp] theorem State.receive_tried (s : State) (e : Nat) (x : DWord) : (s.receive e x).tried = s.tried := rfl
@[simp] theorem State.receive_lately (s : State) (e : Nat) (x : DWord) : (s.receive e x).lately = s.lately := rfl
@[simp] theorem State.receive_turns (s : State) (e : Nat) (x : DWord) : (s.receive e x).turns = s.turns := rfl
@[simp] theorem State.receive_clock (s : State) (e : Nat) (x : DWord) : (s.receive e x).clock = s.clock := rfl
@[simp] theorem State.receive_freeCtr (s : State) (e : Nat) (x : DWord) : (s.receive e x).freeCtr = s.freeCtr := rfl
@[simp] theorem State.receive_groups (s : State) (e : Nat) (x : DWord) : (s.receive e x).groups = s.groups := rfl
@[simp] theorem State.receive_teams (s : State) (e : Nat) (x : DWord) : (s.receive e x).teams = s.teams := rfl
@[simp] theorem State.receive_ctxCores (s : State) (e : Nat) (x : DWord) : (s.receive e x).ctxCores = s.ctxCores := rfl
@[simp] theorem State.receive_hbm (s : State) (e : Nat) (x : DWord) : (s.receive e x).hbm = s.hbm := rfl
@[simp] theorem State.receive_stratus (s : State) (e : Nat) (x : DWord) : (s.receive e x).stratus = s.stratus := rfl
@[simp] theorem State.receive_host (s : State) (e : Nat) (x : DWord) : (s.receive e x).host = s.host := rfl
@[simp] theorem State.receive_peer (s : State) (e : Nat) (x : DWord) : (s.receive e x).peer = s.peer := rfl
@[simp] theorem State.receive_scratch (s : State) (e : Nat) (x : DWord) : (s.receive e x).scratch = s.scratch := rfl
@[simp] theorem State.receive_accum (s : State) (e : Nat) (x : DWord) : (s.receive e x).accum = s.accum := rfl
@[simp] theorem State.receive_l1 (s : State) (e : Nat) (x : DWord) : (s.receive e x).l1 = s.l1 := rfl
@[simp] theorem State.receive_l1Ctr (s : State) (e : Nat) (x : DWord) : (s.receive e x).l1Ctr = s.l1Ctr := rfl
@[simp] theorem State.receive_tlb (s : State) (e : Nat) (x : DWord) : (s.receive e x).tlb = s.tlb := rfl
@[simp] theorem State.receive_l1tlb (s : State) (e : Nat) (x : DWord) : (s.receive e x).l1tlb = s.l1tlb := rfl
@[simp] theorem State.receive_walks (s : State) (e : Nat) (x : DWord) : (s.receive e x).walks = s.walks := rfl
@[simp] theorem State.receive_ants (s : State) (e : Nat) (x : DWord) : (s.receive e x).ants = s.ants := rfl
@[simp] theorem State.receive_icache (s : State) (e : Nat) (x : DWord) : (s.receive e x).icache = s.icache := rfl
@[simp] theorem State.receive_owned (s : State) (e : Nat) (x : DWord) : (s.receive e x).owned = s.owned := rfl
@[simp] theorem State.receive_armed (s : State) (e : Nat) (x : DWord) : (s.receive e x).armed = s.armed := rfl
@[simp] theorem State.receive_refresh (s : State) (e : Nat) (x : DWord) : (s.receive e x).refresh = s.refresh := rfl
@[simp] theorem State.receive_jet (s : State) (e : Nat) (x : DWord) : (s.receive e x).jet = s.jet := rfl
@[simp] theorem State.receive_drops (s : State) (e : Nat) (x : DWord) : (s.receive e x).drops = s.drops := rfl
@[simp] theorem State.receive_contrail (s : State) (e : Nat) (x : DWord) : (s.receive e x).contrail = s.contrail := rfl
@[simp] theorem State.receive_stamps (s : State) (e : Nat) (x : DWord) : (s.receive e x).stamps = s.stamps := rfl
@[simp] theorem State.receive_counts (s : State) (e : Nat) (x : DWord) : (s.receive e x).counts = s.counts := rfl
@[simp] theorem State.receive_routes (s : State) (e : Nat) (x : DWord) : (s.receive e x).routes = s.routes := rfl
@[simp] theorem State.receive_queues (s : State) (e : Nat) (x : DWord) : (s.receive e x).queues = s.queues := rfl
@[simp] theorem State.receive_graphs (s : State) (e : Nat) (x : DWord) : (s.receive e x).graphs = s.graphs := rfl
@[simp] theorem State.receive_graphCtr (s : State) (e : Nat) (x : DWord) : (s.receive e x).graphCtr = s.graphCtr := rfl
@[simp] theorem State.receive_tasks (s : State) (e : Nat) (x : DWord) : (s.receive e x).tasks = s.tasks := rfl
@[simp] theorem State.receive_teamCtr (s : State) (e : Nat) (x : DWord) : (s.receive e x).teamCtr = s.teamCtr := rfl
@[simp] theorem State.receive_ready (s : State) (e : Nat) (x : DWord) : (s.receive e x).ready = s.ready := rfl
@[simp] theorem State.receive_overflow (s : State) (e : Nat) (x : DWord) : (s.receive e x).overflow = s.overflow := rfl
@[simp] theorem State.receive_ovBase (s : State) (e : Nat) (x : DWord) : (s.receive e x).ovBase = s.ovBase := rfl
@[simp] theorem State.receive_ovMax (s : State) (e : Nat) (x : DWord) : (s.receive e x).ovMax = s.ovMax := rfl
@[simp] theorem State.receive_deferred (s : State) (e : Nat) (x : DWord) : (s.receive e x).deferred = s.deferred := rfl
@[simp] theorem State.receive_ctxs (s : State) (e : Nat) (x : DWord) : (s.receive e x).ctxs = s.ctxs := rfl
@[simp] theorem State.receive_device (s : State) (e : Nat) (x : DWord) : (s.receive e x).device = s.device := rfl
@[simp] theorem State.receive_poison (s : State) (e : Nat) (x : DWord) : (s.receive e x).poison = s.poison := rfl
@[simp] theorem State.receive_tlbis (s : State) (e : Nat) (x : DWord) : (s.receive e x).tlbis = s.tlbis := rfl
@[simp] theorem State.receive_ggens (s : State) (e : Nat) (x : DWord) : (s.receive e x).ggens = s.ggens := rfl
@[simp] theorem State.receive_cmdCtr (s : State) (e : Nat) (x : DWord) : (s.receive e x).cmdCtr = s.cmdCtr := rfl
@[simp] theorem State.receive_copies (s : State) (e : Nat) (x : DWord) : (s.receive e x).copies = s.copies := rfl
@[simp] theorem State.receive_rings (s : State) (e : Nat) (x : DWord) : (s.receive e x).rings = s.rings := rfl
@[simp] theorem State.receive_mx (s : State) (e : Nat) (x : DWord) : (s.receive e x).mx = s.mx := rfl
@[simp] theorem State.receive_spares (s : State) (e : Nat) (x : DWord) : (s.receive e x).spares = s.spares := rfl
@[simp] theorem State.receive_lastTaken (s : State) (e : Nat) (x : DWord) : (s.receive e x).lastTaken = s.lastTaken := rfl
@[simp] theorem State.receive_irqs (s : State) (e : Nat) (x : DWord) : (s.receive e x).irqs = s.irqs := rfl
@[simp] theorem State.receive_hostDown (s : State) (e : Nat) (x : DWord) : (s.receive e x).hostDown = s.hostDown := rfl
@[simp] theorem State.receive_switches (s : State) (e : Nat) (x : DWord) : (s.receive e x).switches = s.switches := rfl
@[simp] theorem State.receive_saved (s : State) (e : Nat) (x : DWord) : (s.receive e x).saved = s.saved := rfl
@[simp] theorem State.receive_absent (s : State) (e : Nat) (x : DWord) : (s.receive e x).absent = s.absent := rfl
@[simp] theorem State.receive_phys (s : State) (e : Nat) (x : DWord) : (s.receive e x).phys = s.phys := rfl
@[simp] theorem State.receive_portsDown (s : State) (e : Nat) (x : DWord) : (s.receive e x).portsDown = s.portsDown := rfl
@[simp] theorem State.receive_lanesLost (s : State) (e : Nat) (x : DWord) : (s.receive e x).lanesLost = s.lanesLost := rfl
@[simp] theorem State.receive_reqIds (s : State) (e : Nat) (x : DWord) : (s.receive e x).reqIds = s.reqIds := rfl
@[simp] theorem State.receive_filters (s : State) (e : Nat) (x : DWord) : (s.receive e x).filters = s.filters := rfl
@[simp] theorem State.receive_linkSeqs (s : State) (e : Nat) (x : DWord) : (s.receive e x).linkSeqs = s.linkSeqs := rfl
@[simp] theorem State.receive_replayBuf (s : State) (e : Nat) (x : DWord) : (s.receive e x).replayBuf = s.replayBuf := rfl
@[simp] theorem State.receive_noCredit (s : State) (e : Nat) (x : DWord) : (s.receive e x).noCredit = s.noCredit := rfl
@[simp] theorem State.receive_credits (s : State) (e : Nat) (x : DWord) : (s.receive e x).credits = s.credits := rfl
@[simp] theorem State.receive_outbox (s : State) (e : Nat) (x : DWord) : (s.receive e x).outbox = s.outbox := rfl
@[simp] theorem State.receive_lastk (s : State) (e : Nat) (x : DWord) : (s.receive e x).lastk = s.lastk := rfl
@[simp] theorem State.receive_comms (s : State) (e : Nat) (x : DWord) : (s.receive e x).comms = s.comms := rfl
@[simp] theorem State.receive_tpls (s : State) (e : Nat) (x : DWord) : (s.receive e x).tpls = s.tpls := rfl
@[simp] theorem State.receive_colls (s : State) (e : Nat) (x : DWord) : (s.receive e x).colls = s.colls := rfl
@[simp] theorem State.receive_offers (s : State) (e : Nat) (x : DWord) : (s.receive e x).offers = s.offers := rfl
@[simp] theorem State.receive_notices (s : State) (e : Nat) (x : DWord) : (s.receive e x).notices = s.notices := rfl
@[simp] theorem State.receive_waited (s : State) (e : Nat) (x : DWord) : (s.receive e x).waited = s.waited := rfl
@[simp] theorem State.receive_inbox (s : State) (e : Nat) (x : DWord) : (s.receive e x).inbox = s.inbox := rfl
@[simp] theorem State.receive_steps (s : State) (e : Nat) (x : DWord) : (s.receive e x).steps = s.steps := rfl
@[simp] theorem State.receive_sampling (s : State) (e : Nat) (x : DWord) : (s.receive e x).sampling = s.sampling := rfl
@[simp] theorem State.receive_summed (s : State) (e : Nat) (x : DWord) : (s.receive e x).summed = s.summed := rfl
@[simp] theorem State.receive_sampled (s : State) (e : Nat) (x : DWord) : (s.receive e x).sampled = s.sampled := rfl
@[simp] theorem State.receive_seqBase (s : State) (e : Nat) (x : DWord) : (s.receive e x).seqBase = s.seqBase := rfl
@[simp] theorem State.receive_tstat (s : State) (e : Nat) (x : DWord) : (s.receive e x).tstat = s.tstat := rfl
@[simp] theorem State.receive_mgmtTime (s : State) (e : Nat) (x : DWord) : (s.receive e x).mgmtTime = s.mgmtTime := rfl
@[simp] theorem State.receive_islands (s : State) (e : Nat) (x : DWord) : (s.receive e x).islands = s.islands := rfl
@[simp] theorem State.receive_budget (s : State) (e : Nat) (x : DWord) : (s.receive e x).budget = s.budget := rfl
@[simp] theorem State.receive_life (s : State) (e : Nat) (x : DWord) : (s.receive e x).life = s.life := rfl
@[simp] theorem State.receive_lifeNext (s : State) (e : Nat) (x : DWord) : (s.receive e x).lifeNext = s.lifeNext := rfl
@[simp] theorem State.receive_resets (s : State) (e : Nat) (x : DWord) : (s.receive e x).resets = s.resets := rfl
@[simp] theorem State.receive_attest (s : State) (e : Nat) (x : DWord) : (s.receive e x).attest = s.attest := rfl
@[simp] theorem State.receive_recovery (s : State) (e : Nat) (x : DWord) : (s.receive e x).recovery = s.recovery := rfl
@[simp] theorem State.receive_meas (s : State) (e : Nat) (x : DWord) : (s.receive e x).meas = s.meas := rfl
@[simp] theorem State.receive_rootKey (s : State) (e : Nat) (x : DWord) : (s.receive e x).rootKey = s.rootKey := rfl
@[simp] theorem State.receive_operKey (s : State) (e : Nat) (x : DWord) : (s.receive e x).operKey = s.operKey := rfl
@[simp] theorem State.receive_chErrors (s : State) (e : Nat) (x : DWord) : (s.receive e x).chErrors = s.chErrors := rfl
@[simp] theorem State.receive_chSpared (s : State) (e : Nat) (x : DWord) : (s.receive e x).chSpared = s.chSpared := rfl

/-! ### bump -/

@[simp] theorem State.bump_cur (s : State) (k n : Nat) : (s.bump k n).cur = s.cur := rfl
@[simp] theorem State.bump_agenda (s : State) (k n : Nat) : (s.bump k n).agenda = s.agenda := rfl
@[simp] theorem State.bump_tried (s : State) (k n : Nat) : (s.bump k n).tried = s.tried := rfl
@[simp] theorem State.bump_lately (s : State) (k n : Nat) : (s.bump k n).lately = s.lately := rfl
@[simp] theorem State.bump_turns (s : State) (k n : Nat) : (s.bump k n).turns = s.turns := rfl
@[simp] theorem State.bump_clock (s : State) (k n : Nat) : (s.bump k n).clock = s.clock := rfl
@[simp] theorem State.bump_freeCtr (s : State) (k n : Nat) : (s.bump k n).freeCtr = s.freeCtr := rfl
@[simp] theorem State.bump_groups (s : State) (k n : Nat) : (s.bump k n).groups = s.groups := rfl
@[simp] theorem State.bump_teams (s : State) (k n : Nat) : (s.bump k n).teams = s.teams := rfl
@[simp] theorem State.bump_ctxCores (s : State) (k n : Nat) : (s.bump k n).ctxCores = s.ctxCores := rfl
@[simp] theorem State.bump_hbm (s : State) (k n : Nat) : (s.bump k n).hbm = s.hbm := rfl
@[simp] theorem State.bump_stratus (s : State) (k n : Nat) : (s.bump k n).stratus = s.stratus := rfl
@[simp] theorem State.bump_host (s : State) (k n : Nat) : (s.bump k n).host = s.host := rfl
@[simp] theorem State.bump_peer (s : State) (k n : Nat) : (s.bump k n).peer = s.peer := rfl
@[simp] theorem State.bump_scratch (s : State) (k n : Nat) : (s.bump k n).scratch = s.scratch := rfl
@[simp] theorem State.bump_accum (s : State) (k n : Nat) : (s.bump k n).accum = s.accum := rfl
@[simp] theorem State.bump_l1 (s : State) (k n : Nat) : (s.bump k n).l1 = s.l1 := rfl
@[simp] theorem State.bump_l1Ctr (s : State) (k n : Nat) : (s.bump k n).l1Ctr = s.l1Ctr := rfl
@[simp] theorem State.bump_tlb (s : State) (k n : Nat) : (s.bump k n).tlb = s.tlb := rfl
@[simp] theorem State.bump_l1tlb (s : State) (k n : Nat) : (s.bump k n).l1tlb = s.l1tlb := rfl
@[simp] theorem State.bump_walks (s : State) (k n : Nat) : (s.bump k n).walks = s.walks := rfl
@[simp] theorem State.bump_ants (s : State) (k n : Nat) : (s.bump k n).ants = s.ants := rfl
@[simp] theorem State.bump_icache (s : State) (k n : Nat) : (s.bump k n).icache = s.icache := rfl
@[simp] theorem State.bump_owned (s : State) (k n : Nat) : (s.bump k n).owned = s.owned := rfl
@[simp] theorem State.bump_armed (s : State) (k n : Nat) : (s.bump k n).armed = s.armed := rfl
@[simp] theorem State.bump_refresh (s : State) (k n : Nat) : (s.bump k n).refresh = s.refresh := rfl
@[simp] theorem State.bump_seqs (s : State) (k n : Nat) : (s.bump k n).seqs = s.seqs := rfl
@[simp] theorem State.bump_jet (s : State) (k n : Nat) : (s.bump k n).jet = s.jet := rfl
@[simp] theorem State.bump_drops (s : State) (k n : Nat) : (s.bump k n).drops = s.drops := rfl
@[simp] theorem State.bump_contrail (s : State) (k n : Nat) : (s.bump k n).contrail = s.contrail := rfl
@[simp] theorem State.bump_stamps (s : State) (k n : Nat) : (s.bump k n).stamps = s.stamps := rfl
@[simp] theorem State.bump_routes (s : State) (k n : Nat) : (s.bump k n).routes = s.routes := rfl
@[simp] theorem State.bump_queues (s : State) (k n : Nat) : (s.bump k n).queues = s.queues := rfl
@[simp] theorem State.bump_graphs (s : State) (k n : Nat) : (s.bump k n).graphs = s.graphs := rfl
@[simp] theorem State.bump_graphCtr (s : State) (k n : Nat) : (s.bump k n).graphCtr = s.graphCtr := rfl
@[simp] theorem State.bump_tasks (s : State) (k n : Nat) : (s.bump k n).tasks = s.tasks := rfl
@[simp] theorem State.bump_teamCtr (s : State) (k n : Nat) : (s.bump k n).teamCtr = s.teamCtr := rfl
@[simp] theorem State.bump_ready (s : State) (k n : Nat) : (s.bump k n).ready = s.ready := rfl
@[simp] theorem State.bump_overflow (s : State) (k n : Nat) : (s.bump k n).overflow = s.overflow := rfl
@[simp] theorem State.bump_ovBase (s : State) (k n : Nat) : (s.bump k n).ovBase = s.ovBase := rfl
@[simp] theorem State.bump_ovMax (s : State) (k n : Nat) : (s.bump k n).ovMax = s.ovMax := rfl
@[simp] theorem State.bump_deferred (s : State) (k n : Nat) : (s.bump k n).deferred = s.deferred := rfl
@[simp] theorem State.bump_ctxs (s : State) (k n : Nat) : (s.bump k n).ctxs = s.ctxs := rfl
@[simp] theorem State.bump_device (s : State) (k n : Nat) : (s.bump k n).device = s.device := rfl
@[simp] theorem State.bump_poison (s : State) (k n : Nat) : (s.bump k n).poison = s.poison := rfl
@[simp] theorem State.bump_tlbis (s : State) (k n : Nat) : (s.bump k n).tlbis = s.tlbis := rfl
@[simp] theorem State.bump_ggens (s : State) (k n : Nat) : (s.bump k n).ggens = s.ggens := rfl
@[simp] theorem State.bump_cmdCtr (s : State) (k n : Nat) : (s.bump k n).cmdCtr = s.cmdCtr := rfl
@[simp] theorem State.bump_copies (s : State) (k n : Nat) : (s.bump k n).copies = s.copies := rfl
@[simp] theorem State.bump_rings (s : State) (k n : Nat) : (s.bump k n).rings = s.rings := rfl
@[simp] theorem State.bump_mx (s : State) (k n : Nat) : (s.bump k n).mx = s.mx := rfl
@[simp] theorem State.bump_spares (s : State) (k n : Nat) : (s.bump k n).spares = s.spares := rfl
@[simp] theorem State.bump_lastTaken (s : State) (k n : Nat) : (s.bump k n).lastTaken = s.lastTaken := rfl
@[simp] theorem State.bump_irqs (s : State) (k n : Nat) : (s.bump k n).irqs = s.irqs := rfl
@[simp] theorem State.bump_hostDown (s : State) (k n : Nat) : (s.bump k n).hostDown = s.hostDown := rfl
@[simp] theorem State.bump_switches (s : State) (k n : Nat) : (s.bump k n).switches = s.switches := rfl
@[simp] theorem State.bump_saved (s : State) (k n : Nat) : (s.bump k n).saved = s.saved := rfl
@[simp] theorem State.bump_absent (s : State) (k n : Nat) : (s.bump k n).absent = s.absent := rfl
@[simp] theorem State.bump_phys (s : State) (k n : Nat) : (s.bump k n).phys = s.phys := rfl
@[simp] theorem State.bump_portsDown (s : State) (k n : Nat) : (s.bump k n).portsDown = s.portsDown := rfl
@[simp] theorem State.bump_lanesLost (s : State) (k n : Nat) : (s.bump k n).lanesLost = s.lanesLost := rfl
@[simp] theorem State.bump_reqIds (s : State) (k n : Nat) : (s.bump k n).reqIds = s.reqIds := rfl
@[simp] theorem State.bump_filters (s : State) (k n : Nat) : (s.bump k n).filters = s.filters := rfl
@[simp] theorem State.bump_linkSeqs (s : State) (k n : Nat) : (s.bump k n).linkSeqs = s.linkSeqs := rfl
@[simp] theorem State.bump_replayBuf (s : State) (k n : Nat) : (s.bump k n).replayBuf = s.replayBuf := rfl
@[simp] theorem State.bump_noCredit (s : State) (k n : Nat) : (s.bump k n).noCredit = s.noCredit := rfl
@[simp] theorem State.bump_credits (s : State) (k n : Nat) : (s.bump k n).credits = s.credits := rfl
@[simp] theorem State.bump_outbox (s : State) (k n : Nat) : (s.bump k n).outbox = s.outbox := rfl
@[simp] theorem State.bump_lastk (s : State) (k n : Nat) : (s.bump k n).lastk = s.lastk := rfl
@[simp] theorem State.bump_comms (s : State) (k n : Nat) : (s.bump k n).comms = s.comms := rfl
@[simp] theorem State.bump_tpls (s : State) (k n : Nat) : (s.bump k n).tpls = s.tpls := rfl
@[simp] theorem State.bump_colls (s : State) (k n : Nat) : (s.bump k n).colls = s.colls := rfl
@[simp] theorem State.bump_offers (s : State) (k n : Nat) : (s.bump k n).offers = s.offers := rfl
@[simp] theorem State.bump_notices (s : State) (k n : Nat) : (s.bump k n).notices = s.notices := rfl
@[simp] theorem State.bump_waited (s : State) (k n : Nat) : (s.bump k n).waited = s.waited := rfl
@[simp] theorem State.bump_inbox (s : State) (k n : Nat) : (s.bump k n).inbox = s.inbox := rfl
@[simp] theorem State.bump_steps (s : State) (k n : Nat) : (s.bump k n).steps = s.steps := rfl
@[simp] theorem State.bump_sampling (s : State) (k n : Nat) : (s.bump k n).sampling = s.sampling := rfl
@[simp] theorem State.bump_summed (s : State) (k n : Nat) : (s.bump k n).summed = s.summed := rfl
@[simp] theorem State.bump_sampled (s : State) (k n : Nat) : (s.bump k n).sampled = s.sampled := rfl
@[simp] theorem State.bump_seqBase (s : State) (k n : Nat) : (s.bump k n).seqBase = s.seqBase := rfl
@[simp] theorem State.bump_tstat (s : State) (k n : Nat) : (s.bump k n).tstat = s.tstat := rfl
@[simp] theorem State.bump_mgmtTime (s : State) (k n : Nat) : (s.bump k n).mgmtTime = s.mgmtTime := rfl
@[simp] theorem State.bump_islands (s : State) (k n : Nat) : (s.bump k n).islands = s.islands := rfl
@[simp] theorem State.bump_budget (s : State) (k n : Nat) : (s.bump k n).budget = s.budget := rfl
@[simp] theorem State.bump_life (s : State) (k n : Nat) : (s.bump k n).life = s.life := rfl
@[simp] theorem State.bump_lifeNext (s : State) (k n : Nat) : (s.bump k n).lifeNext = s.lifeNext := rfl
@[simp] theorem State.bump_resets (s : State) (k n : Nat) : (s.bump k n).resets = s.resets := rfl
@[simp] theorem State.bump_attest (s : State) (k n : Nat) : (s.bump k n).attest = s.attest := rfl
@[simp] theorem State.bump_recovery (s : State) (k n : Nat) : (s.bump k n).recovery = s.recovery := rfl
@[simp] theorem State.bump_meas (s : State) (k n : Nat) : (s.bump k n).meas = s.meas := rfl
@[simp] theorem State.bump_rootKey (s : State) (k n : Nat) : (s.bump k n).rootKey = s.rootKey := rfl
@[simp] theorem State.bump_operKey (s : State) (k n : Nat) : (s.bump k n).operKey = s.operKey := rfl
@[simp] theorem State.bump_chErrors (s : State) (k n : Nat) : (s.bump k n).chErrors = s.chErrors := rfl
@[simp] theorem State.bump_chSpared (s : State) (k n : Nat) : (s.bump k n).chSpared = s.chSpared := rfl

/-! ### Reads after updates -/

theorem State.group_putGroup (s : State) (k j : Nat) (g : Group) :
    (s.putGroup k g).group j = if j = k then g else s.group j := Store.get_put _ _ _ _ _

@[simp] theorem State.group_putGroup_same (s : State) (k : Nat) (g : Group) : (s.putGroup k g).group k = g := by
  simp [State.group_putGroup]

theorem State.group_putGroup_other (s : State) {k j : Nat} (g : Group) (h : j ≠ k) :
    (s.putGroup k g).group j = s.group j := by simp [State.group_putGroup, h]

@[simp] theorem State.g_setG (s : State) (g : Group) : (s.setG g).g = g := State.group_putGroup_same s s.cur g

theorem State.group_setG (s : State) (j : Nat) (g : Group) :
    (s.setG g).group j = if j = s.cur then g else s.group j := State.group_putGroup s s.cur j g

theorem State.g_eq (s : State) : s.g = s.group s.cur := rfl

@[simp] theorem State.team_putTeam_same (s : State) (k : Nat) (x : Team) : (s.putTeam k x).team k = x :=
  Store.get_put_same _ _ _ _

theorem State.team_putTeam (s : State) (k j : Nat) (x : Team) :
    (s.putTeam k x).team j = if j = k then x else s.team j := Store.get_put _ _ _ _ _

@[simp] theorem State.task_putTask_same (s : State) (k : Nat) (x : Task) : (s.putTask k x).task k = x :=
  Store.get_put_same _ _ _ _

@[simp] theorem State.queue_putQueue_same (s : State) (k : Nat) (x : Queue) : (s.putQueue k x).queue k = x :=
  Store.get_put_same _ _ _ _

@[simp] theorem State.ctx_putCtx_same (s : State) (a : BitVec 16) (x : Ctx) : (s.putCtx a x).ctx a = x :=
  Store.get_put_same _ _ _ _

@[simp] theorem State.team_putGroup (s : State) (k j : Nat) (g : Group) : (s.putGroup k g).team j = s.team j := rfl
@[simp] theorem State.team_setG (s : State) (j : Nat) (g : Group) : (s.setG g).team j = s.team j := rfl
@[simp] theorem State.group_putTeam (s : State) (k j : Nat) (x : Team) : (s.putTeam k x).group j = s.group j := rfl
@[simp] theorem State.g_putTeam (s : State) (k : Nat) (x : Team) : (s.putTeam k x).g = s.g := rfl
@[simp] theorem State.task_putGroup (s : State) (k j : Nat) (g : Group) : (s.putGroup k g).task j = s.task j := rfl
@[simp] theorem State.group_bump (s : State) (k n j : Nat) : (s.bump k n).group j = s.group j := rfl
@[simp] theorem State.group_advance (s : State) (e j : Nat) : (s.advance e).group j = s.group j := rfl

/-- An update of the issuing group twice is the second update. -/
theorem State.g_of_groups {s t : State} (hc : t.cur = s.cur) (hg : t.groups = s.groups) : t.g = s.g := by
  simp [State.g, State.group, hc, hg]

end Sys2Proof.Machine
end

