-- ==== Sys2Proof/Laws/Regs.lean ====
section
/-! SUPPORT. The laws of registers: what a write of a vector word, a scalar, a predicate or a destination does, and what
it leaves alone. -/

namespace Sys2Proof.Machine

open Sys2Proof.Safety

/-! ### Scalars and predicates -/

theorem Group.sreg_setSreg (g : Group) (n m : Nat) (v : TVal) (hn : n ≠ 0) (hn' : n < 61) (hm : m < 61) :
    (g.setSreg n v).sreg m = if m = n then v else g.sreg m := by
  have h61 : n ≠ 61 := by omega
  have h62 : n ≠ 62 := by omega
  have h63 : n ≠ 63 := by omega
  by_cases h0 : m = 0
  · subst h0; simp [Group.sreg, Ne.symm hn]
  · have k61 : m ≠ 61 := by omega
    have k62 : m ≠ 62 := by omega
    have k63 : m ≠ 63 := by omega
    simp [Group.setSreg, Group.sreg, hn, h61, h62, h63, h0, k61, k62, k63, Store.get_set]

theorem Group.pred_setPred (g : Group) (n m : Nat) (a v : Lanes) (hn : n ≠ 0) :
    (g.setPred n a v).pred m = if m = n then (g.pred n &&& ~~~a) ||| (v &&& a) else g.pred m := by
  by_cases h0 : m = 0
  · subst h0; simp [Group.pred, Ne.symm hn]
  · simp only [Group.setPred, Group.pred, if_neg hn, if_neg h0, Store.get_set]

/-! ### Words of register space (R27, R31) -/

theorem State.setRsWord_cur (s : State) (k b : Nat) (w : TWord) : (s.setRsWord k b w).cur = s.cur := by
  unfold State.setRsWord; dsimp only; split <;> rfl

theorem State.setRsWord_frame (s : State) (k b : Nat) (w : TWord) :
    s.setRsWord k b w = { s with groups := (s.setRsWord k b w).groups, accum := (s.setRsWord k b w).accum } := by
  unfold State.setRsWord; dsimp only; split <;> rfl

theorem State.setRsWord_group_other (s : State) {k j : Nat} (b : Nat) (w : TWord) (h : j ≠ k) :
    (s.setRsWord k b w).group j = s.group j := by
  unfold State.setRsWord; dsimp only; split
  · rfl
  · exact State.group_putGroup_other _ _ h

theorem State.setRsWord_group (s : State) (k b : Nat) (w : TWord) :
    (s.setRsWord k b w).group k = { s.group k with regs := ((s.setRsWord k b w).group k).regs } := by
  unfold State.setRsWord; dsimp only; split
  · rfl
  · simp

theorem State.setRsWord_accum (s : State) (k b : Nat) (w : TWord) (a : Nat)
    (h : (s.group k).inWindow b = true → a ≠ (s.group k).accKey b) :
    Store.get TWord.zero (s.setRsWord k b w).accum a = Store.get TWord.zero s.accum a := by
  unfold State.setRsWord; dsimp only; split
  · rename_i hw; simp [Store.get_set, h hw]
  · rfl

theorem State.rsWord_of_regs (s : State) (g g' : Group) (hv : g'.viewA = g.viewA) (hc : g'.core = g.core)
    (hr : g'.regs = g.regs) (b : Nat) : s.rsWord g' b = s.rsWord g b := by
  have h1 : g'.inWindow b = g.inWindow b := by unfold Group.inWindow Group.aBase Group.aLen; rw [hv]
  have h2 : g'.accKey b = g.accKey b := by unfold Group.accKey Group.aBase Group.aOffset; rw [hv, hc]
  unfold State.rsWord; rw [h1, h2, hr]

/-- The word written. -/
theorem State.rsWord_setRsWord_same (s : State) (k b : Nat) (w : TWord) :
    (s.setRsWord k b w).rsWord ((s.setRsWord k b w).group k) b = w := by
  unfold State.setRsWord; dsimp only
  by_cases hw : (s.group k).inWindow b = true
  · simp only [hw, if_true]
    show State.rsWord _ (s.group k) b = w
    simp [State.rsWord, hw, Store.get_set]
  · simp only [hw]
    simp only [Bool.false_eq_true, if_false, State.group_putGroup_same]
    have hw' : ({ s.group k with regs := Store.set TWord.zero (s.group k).regs (b / 4) w } : Group).inWindow b = false := by
      show (s.group k).inWindow b = false
      exact Bool.eq_false_iff.mpr hw
    simp [State.rsWord, hw', Store.get_set]

/-- A word apart from the word written. -/
theorem State.rsWord_setRsWord_apart (s : State) (k b b' : Nat) (w : TWord) (h : apart b b') :
    (s.setRsWord k b w).rsWord ((s.setRsWord k b w).group k) b' = s.rsWord (s.group k) b' := by
  have hk : b' / 4 ≠ b / 4 := by unfold apart at h; omega
  unfold State.setRsWord; dsimp only
  by_cases hw : (s.group k).inWindow b = true
  · simp only [hw, if_true]
    show State.rsWord _ (s.group k) b' = _
    by_cases hw' : (s.group k).inWindow b' = true
    · have : (s.group k).accKey b' ≠ (s.group k).accKey b := by
        simp only [Group.inWindow, Bool.and_eq_true, decide_eq_true_eq] at hw hw'
        have h1 := hw.1; have h2 := hw'.1
        unfold Group.accKey apart at *
        generalize (s.group k).aBase = x at *
        generalize (s.group k).aOffset = y at *
        omega
      simp [State.rsWord, hw', Store.get_set, this]
    · simp [State.rsWord, hw']
  · simp only [hw, Bool.false_eq_true, if_false, State.group_putGroup_same]
    have e : ({ s.group k with regs := Store.set TWord.zero (s.group k).regs (b / 4) w } : Group).inWindow b'
        = (s.group k).inWindow b' := rfl
    have e2 : ({ s.group k with regs := Store.set TWord.zero (s.group k).regs (b / 4) w } : Group).accKey b'
        = (s.group k).accKey b' := rfl
    simp only [State.rsWord, e, e2, State.putGroup_accum]
    simp [Store.get_set, hk]

/-! ### Vector registers (R27, R39) -/

theorem State.setVword_cur (s : State) (n i : Nat) (w : TWord) : (s.setVword n i w).cur = s.cur := State.setRsWord_cur ..

theorem State.setVword_g (s : State) (n i : Nat) (w : TWord) :
    (s.setVword n i w).g = { s.g with regs := (s.setVword n i w).g.regs } := by
  have h := State.setRsWord_group s s.cur (s.g.vByte n i) w
  unfold State.g State.setVword
  rw [State.setRsWord_cur]
  exact h

/-- What a write to register space at the words `ws` may change, and nothing else: `t` after `s`. -/
structure OnlyWords (s t : State) (ws : List Nat) : Prop where
  rest   : t = { s with groups := t.groups, accum := t.accum }
  others : ∀ k, k ≠ s.cur → t.group k = s.group k
  g      : t.g = { s.g with regs := t.g.regs }
  words  : ∀ b, (∀ w ∈ ws, apart w b) → t.rsWord t.g b = s.rsWord s.g b
  accum  : ∀ a, (∀ w ∈ ws, s.g.inWindow w = true → a ≠ s.g.accKey w) → Store.get TWord.zero t.accum a = Store.get TWord.zero s.accum a

theorem OnlyWords.refl (s : State) : OnlyWords s s [] := ⟨rfl, fun _ _ => rfl, rfl, fun _ _ => rfl, fun _ _ => rfl⟩

theorem OnlyWords.trans {s t u : State} {a b : List Nat} (h : OnlyWords s t a) (h' : OnlyWords t u b) :
    OnlyWords s u (a ++ b) := by
  have hc : t.cur = s.cur := by rw [h.rest]
  have eg : ∀ x, t.g.inWindow x = s.g.inWindow x := by intro x; rw [h.g]; rfl
  have ek : ∀ x, t.g.accKey x = s.g.accKey x := by intro x; rw [h.g]; rfl
  refine ⟨?_, ?_, ?_, ?_, ?_⟩
  · rw [h'.rest, h.rest]
  · intro k hk; rw [h'.others k (by rw [hc]; exact hk), h.others k hk]
  · rw [h'.g, h.g]
  · intro x hx
    rw [h'.words x (fun w hw => hx w (List.mem_append_right _ hw)), h.words x (fun w hw => hx w (List.mem_append_left _ hw))]
  · intro x hx
    rw [h'.accum x (fun w hw hi => by
      rw [ek]; exact hx w (List.mem_append_right _ hw) (by rw [← eg]; exact hi)),
      h.accum x (fun w hw hi => hx w (List.mem_append_left _ hw) hi)]

theorem State.onlyWords_setVword (s : State) (n i : Nat) (w : TWord) : OnlyWords s (s.setVword n i w) [s.g.vByte n i] := by
  have hc := State.setVword_cur s n i w
  refine ⟨State.setRsWord_frame .., fun k hk => State.setRsWord_group_other s _ _ hk, State.setVword_g s n i w, ?_, ?_⟩
  · intro b hb
    have := State.rsWord_setRsWord_apart s s.cur (s.g.vByte n i) b w (hb _ (List.mem_singleton.mpr rfl))
    unfold State.g; rw [hc]; exact this
  · intro a ha
    exact State.setRsWord_accum s s.cur (s.g.vByte n i) w a (fun hw => ha _ (List.mem_singleton.mpr rfl) hw)

theorem State.vword_setVword_same (s : State) (n i : Nat) (w : TWord) : (s.setVword n i w).vword n i = w := by
  have h := State.rsWord_setRsWord_same s s.cur (s.g.vByte n i) w
  have hg : (s.setVword n i w).g.vByte n i = s.g.vByte n i := by rw [State.setVword_g]; rfl
  unfold State.vword; rw [hg]
  unfold State.g; rw [State.setVword_cur]; exact h

theorem Group.vByte_apart (g : Group) {n m i j : Nat} (hi : i < 96) (hj : j < 96) (h : n ≠ m ∨ i ≠ j) :
    apart (g.vByte n i) (g.vByte m j) := by
  unfold apart Group.vByte
  omega

theorem State.onlyWords_setVval (s : State) (n : Nat) (wide : Bool) (i : Nat) (v : TVal) :
    OnlyWords s (s.setVval n wide i v) (if wide then [s.g.vByte n i, s.g.vByte (n + 1) i] else [s.g.vByte n i]) := by
  have h1 := State.onlyWords_setVword s n i ⟨v.val.setWidth 32, v.tail⟩
  cases wide
  · simpa [State.setVval] using h1
  · have h2 := State.onlyWords_setVword (s.setVword n i ⟨v.val.setWidth 32, v.tail⟩) (n + 1) i ⟨v.val.extractLsb' 32 32, 0⟩
    have e : (s.setVword n i ⟨v.val.setWidth 32, v.tail⟩).g.vByte (n + 1) i = s.g.vByte (n + 1) i := by
      rw [State.setVword_g]; rfl
    rw [e] at h2
    simpa [State.setVval] using h1.trans h2

theorem State.vword_of_onlyWords {s t : State} {ws : List Nat} (h : OnlyWords s t ws) (n i : Nat)
    (ha : ∀ w ∈ ws, apart w (s.g.vByte n i)) : t.vword n i = s.vword n i := by
  have e : t.g.vByte n i = s.g.vByte n i := by rw [h.g]; rfl
  unfold State.vword; rw [e]; exact h.words _ ha

theorem State.vval_of_onlyWords {s t : State} {ws : List Nat} (h : OnlyWords s t ws) (n i : Nat) (wide : Bool)
    (ha : ∀ w ∈ ws, apart w (s.g.vByte n i)) (hb : wide = true → ∀ w ∈ ws, apart w (s.g.vByte (n + 1) i)) :
    t.vval n wide i = s.vval n wide i := by
  have h1 := State.vword_of_onlyWords h n i ha
  cases wide
  · simp only [State.vval, Bool.false_eq_true, if_false, h1]
  · simp only [State.vval, if_true, h1, State.vword_of_onlyWords h (n + 1) i (hb rfl)]

theorem append_parts (v : BitVec (32 + 32)) : v.extractLsb' 32 32 ++ v.setWidth 32 = v := by
  apply BitVec.eq_of_getLsbD_eq
  intro i hi
  rw [BitVec.getLsbD_append]
  by_cases h : i < 32
  · simp [h]
  · have h2 : i - 32 < 32 := by omega
    have h3 : 32 + (i - 32) = i := by omega
    simp [h, h2, h3]

theorem append_halves (v : DWord) : v.extractLsb' 32 32 ++ v.setWidth 32 = v := append_parts v

theorem State.vval_setVval_same (s : State) (n : Nat) (wide : Bool) (i : Nat) (hi : i < 96) (v : TVal) :
    (s.setVval n wide i v).vval n wide i = shown wide v := by
  cases wide
  · simp [State.setVval, State.vval, State.vword_setVword_same, shown]
  · have h2 := State.onlyWords_setVword (s.setVword n i ⟨v.val.setWidth 32, v.tail⟩) (n + 1) i ⟨v.val.extractLsb' 32 32, 0⟩
    have h3 := State.vword_of_onlyWords h2 n i (by
      intro w hw
      rw [List.mem_singleton.mp hw]
      exact Group.vByte_apart _ hi hi (Or.inl (by omega)))
    simp only [State.setVval, State.vval, if_true, h3, State.vword_setVword_same, shown, append_halves]

/-- A write to lanes of a vector register reaches the words of those lanes only. -/
theorem State.onlyWords_setLanes (s : State) (n : Nat) (wide : Bool) (l : List (Nat × TVal)) :
    OnlyWords s (s.setLanes n wide l)
      (l.flatMap fun p => if wide then [s.g.vByte n p.1, s.g.vByte (n + 1) p.1] else [s.g.vByte n p.1]) := by
  induction l generalizing s with
  | nil => exact OnlyWords.refl s
  | cons p l ih =>
    obtain ⟨i, v⟩ := p
    have h1 := State.onlyWords_setVval s n wide i v
    have h2 := ih (s.setVval n wide i v)
    have e : ∀ m j, (s.setVval n wide i v).g.vByte m j = s.g.vByte m j := by intro m j; rw [h1.g]; rfl
    simp only [e] at h2
    simpa [State.setLanes] using h1.trans h2

/-- Each lane of a write to lanes shows its value. -/
theorem State.vval_setLanes (s : State) (n : Nat) (wide : Bool) (l : List (Nat × TVal)) (hl : ∀ p ∈ l, p.1 < 96)
    (hd : (l.map Prod.fst).Nodup) (p : Nat × TVal) (hp : p ∈ l) :
    (s.setLanes n wide l).vval n wide p.1 = shown wide p.2 := by
  induction l generalizing s with
  | nil => cases hp
  | cons q l ih =>
    obtain ⟨i, v⟩ := q
    simp only [List.map_cons, List.nodup_cons] at hd
    rcases List.mem_cons.mp hp with h | h
    · subst h
      have hi : i < 96 := hl _ (List.mem_cons_self ..)
      have h2 := State.onlyWords_setLanes (s.setVval n wide i v) n wide l
      have key : ∀ m, (m = n ∨ m = n + 1) → ∀ w ∈ (l.flatMap fun p =>
          if wide then [(s.setVval n wide i v).g.vByte n p.1, (s.setVval n wide i v).g.vByte (n + 1) p.1]
          else [(s.setVval n wide i v).g.vByte n p.1]), apart w ((s.setVval n wide i v).g.vByte m i) := by
        intro m hm w hw
        obtain ⟨p, hpl, hw⟩ := List.mem_flatMap.mp hw
        have hne : p.1 ≠ i := fun he => hd.1 (he ▸ List.mem_map_of_mem hpl)
        have hp96 : p.1 < 96 := hl p (List.mem_cons_of_mem _ hpl)
        cases wide
        · rw [List.mem_singleton.mp hw]; exact Group.vByte_apart _ hp96 hi (Or.inr hne)
        · simp only [if_true, List.mem_cons, List.not_mem_nil, or_false] at hw
          rcases hw with rfl | rfl <;> exact Group.vByte_apart _ hp96 hi (Or.inr hne)
      show (State.setLanes (s.setVval n wide i v) n wide l).vval n wide i = _
      rw [State.vval_of_onlyWords h2 n i wide (key n (Or.inl rfl)) (fun _ => key (n + 1) (Or.inr rfl))]
      exact State.vval_setVval_same s n wide i hi v
    · exact ih (s.setVval n wide i v) (fun p hp => hl p (List.mem_cons_of_mem _ hp)) hd.2 h

/-! ### Lane sets -/

theorem mem_lanesOf {m : Lanes} {i : Nat} : i ∈ lanesOf m ↔ i < 96 ∧ m.getLsbD i = true := by
  simp [lanesOf]

theorem nodup_lanesOf (m : Lanes) : (lanesOf m).Nodup := List.nodup_range.sublist List.filter_sublist

/-- A vector register written in a set of lanes (R27, R67). -/
theorem State.vecSet_setLanes (s : State) (n : Nat) (wide : Bool) (e : Lanes) (v : Nat → TVal) :
    VecSet s (s.setLanes n wide ((lanesOf e).map fun i => (i, v i))) n wide e v := by
  have h := State.onlyWords_setLanes s n wide ((lanesOf e).map fun i => (i, v i))
  have hw : (((lanesOf e).map fun i => (i, v i)).flatMap fun p =>
      if wide then [s.g.vByte n p.1, s.g.vByte (n + 1) p.1] else [s.g.vByte n p.1]) = laneWords s.g n wide e := by
    simp [laneWords, List.flatMap_map]
  rw [hw] at h
  refine ⟨?_, h.words, h.accum⟩
  intro i hi he
  refine State.vval_setLanes s n wide _ ?_ ?_ (i, v i) ?_
  · intro p hp
    obtain ⟨j, hj, rfl⟩ := List.mem_map.mp hp
    exact (mem_lanesOf.mp hj).1
  · simpa [List.map_map, Function.comp_def] using nodup_lanesOf e
  · exact List.mem_map.mpr ⟨i, mem_lanesOf.mpr ⟨hi, he⟩, rfl⟩

end Sys2Proof.Machine
end

