-- ==== Sys2Proof/Laws/Ops.lean ====
section
/-! SUPPORT. One lemma for each shared operation of an instruction's end: everything it can do. -/

namespace Sys2Proof.Machine

open Sys2Proof.Safety

/-! ### Checks -/

theorem require_ok {b : Bool} {e : Stop} : require b e = .ok () ↔ b = true := by
  cases b <;> simp [require]

theorem foldl_or_zero (l : List VecOp) (f : VecOp → Lanes) (h : ∀ o ∈ l, f o = 0) :
    l.foldl (fun m o => m ||| f o) 0 = 0 := by
  induction l with
  | nil => rfl
  | cons a l ih =>
    simp only [List.foldl_cons, h a (List.mem_cons_self ..)]
    exact ih fun o ho => h o (List.mem_cons_of_mem _ ho)

/-- Operands that can be used pass the checks. -/
theorem checkVecs_of_readable {s : State} {e : Lanes} {ops : List VecOp} (h : Readable s e ops) :
    s.checkVecs e ops = .ok () := by
  have h1 : ops.all s.g.vecOk = true := List.all_eq_true.mpr h.1
  unfold State.checkVecs
  rw [h1]
  show State.windowFault s _ = _
  unfold State.windowFault
  rcases h.2 with h2 | ⟨h2, h3, h4⟩
  · rw [foldl_or_zero _ _ h2]; rfl
  · rw [h2, h3, h4]
    split <;> rfl

/-! ### The end of an instruction -/

theorem State.chainHead_le (s : State) (core m : Nat) : s.chainHead core m ≤ m := by
  induction m with
  | zero => exact Nat.le_refl _
  | succ m ih => unfold State.chainHead; split <;> omega

/-- A chain with an antenna that is not armed matches nothing. -/
theorem State.chainOf_unarmed (s : State) (core m : Nat) (h : ∀ n, n ≤ m → (s.antenna core n).ctl.getLsbD 0 = false)
    (asid : BitVec 16) (sup : Bool) (o : Obs) (pc : DWord) (i : Nat) :
    ((s.chainOf core m).all fun a => a.hits asid sup o pc i) = false := by
  have hle := s.chainHead_le core m
  rw [List.all_eq_false]
  refine ⟨s.antenna core (s.chainHead core m + 0), ?_, ?_⟩
  · exact List.mem_map.mpr ⟨0, List.mem_range.mpr (by omega), rfl⟩
  · have h0 := h _ hle
    simp only [Nat.add_zero, Antenna.hits, h0, Bool.false_and, Bool.false_eq_true, not_false_eq_true]

theorem laneSet_false {p : Nat → Bool} (h : ∀ i, p i = false) : laneSet p = 0 := by
  have : ∀ l : List Nat, l.foldl (fun acc i => if p i then acc ||| ((1 : Lanes) <<< i) else acc) 0 = 0 := by
    intro l
    induction l with
    | nil => rfl
    | cons a l ih => simp only [List.foldl_cons, h a, Bool.false_eq_true, if_false]; exact ih
  exact this _

theorem foldl_same {α β : Type} (f : β → α → β) (s : β) (l : List α) (h : ∀ a ∈ l, f s a = s) : l.foldl f s = s := by
  induction l with
  | nil => rfl
  | cons a l ih => rw [List.foldl_cons, h a (List.mem_cons_self ..)]; exact ih fun b hb => h b (List.mem_cons_of_mem _ hb)

/-- With no antenna of its core armed, no chain matches an instruction of a group (R376). -/
theorem State.antMatches_none (s : State) (k : Nat) (o : Obs) (ex : Lanes) (pc : DWord) (a b : Bool)
    (h : ∀ n, n < 16 → (s.antenna (s.group k).core n).ctl.getLsbD 0 = false) : s.antMatches k o ex pc a b = [] := by
  unfold State.antMatches
  rw [List.filterMap_eq_nil_iff]
  intro m hm
  have hm16 : m < 16 := List.mem_range.mp (List.mem_filter.mp hm).1
  have hz : (laneSet fun i => ex.getLsbD i && (s.chainOf (s.group k).core m).all fun x => x.hits (s.group k).asid a o pc i) = 0 :=
    laneSet_false fun i => by
      rw [s.chainOf_unarmed (s.group k).core m (fun n hn => h n (by omega)) (s.group k).asid a o pc i, Bool.and_false]
  simp only [hz, if_true, ite_self]

/-- Antennae that do not watch the group do nothing (R376). -/
theorem State.antennae_none (s : State) (k : Nat) (o : Obs) (ex : Lanes) (pc : DWord) (a b : Bool) (h : Unwatched s k) :
    s.antennae k o ex pc a b = s := by
  unfold State.antennae
  split
  · rfl
  · rename_i hd
    have hn : (s.group k).dbg = false := by
      cases hb : (s.group k).dbg with
      | false => rfl
      | true => exact absurd (by rw [hb, Bool.or_true]) hd
    rw [s.antMatches_none k o ex pc a b (h.resolve_left (by rw [hn]; exact Bool.false_ne_true))]
    rfl

/-- Whether antennae watch a group depends on them, its core and its kind only. -/
theorem unwatched_of {s x : State} {k : Nat} (h : Unwatched s k) (ha : x.ants = s.ants) (hc : (x.group k).core = (s.group k).core)
    (hd : (x.group k).dbg = (s.group k).dbg) : Unwatched x k := by
  unfold Unwatched State.antenna at *
  rw [ha, hc, hd]; exact h

theorem State.heldCheck_none (s : State) (k : Nat) (h : (s.group k).held = 0) : s.heldCheck k = s := by
  unfold State.heldCheck
  have : ((s.group k).held != 0) = false := by simp [h]
  simp only [this, Bool.and_false, Bool.false_and, Bool.false_eq_true, if_false]

theorem State.rewritten_g (s : State) (i : Instr) : (s.rewritten i).g = { s.g with lost := lostAfter s.g i } := by
  unfold State.rewritten
  split
  · rename_i h
    have : lostAfter s.g i = s.g.lost := by
      unfold lostAfter; rw [if_pos h]; exact (by simpa using h : s.g.lost = []).symm
    rw [this]
  · simp

theorem State.rewritten_frame (s : State) (i : Instr) :
    s.rewritten i = { s with groups := (s.rewritten i).groups } ∧ ∀ k, k ≠ s.cur → (s.rewritten i).group k = s.group k := by
  unfold State.rewritten
  split
  · exact ⟨rfl, fun _ _ => rfl⟩
  · exact ⟨rfl, fun k hk => State.group_putGroup_other _ _ hk⟩

theorem State.deferAfter_g (s0 s : State) (i : Instr) :
    (s0.deferAfter s i).g = { s.g with deferred := s.g.deferred || (nonIdempotent i && s0.actsOn i) } := by
  unfold State.deferAfter
  split
  · rename_i h; simp [h]
  · rename_i h; simp [Bool.eq_false_iff.mpr h]

theorem State.deferAfter_frame (s0 s : State) (i : Instr) :
    s0.deferAfter s i = { s with groups := (s0.deferAfter s i).groups } ∧
      ∀ k, k ≠ s.cur → (s0.deferAfter s i).group k = s.group k := by
  unfold State.deferAfter
  split
  · exact ⟨rfl, fun k hk => State.group_putGroup_other _ _ hk⟩
  · exact ⟨rfl, fun _ _ => rfl⟩

/-- Retirement with no antenna armed and no lane held. -/
theorem ends_complete (s x : State) (i : Instr) (o : Obs) (pc : DWord) (hc : x.cur = s.cur) (ha : Unwatched x s.cur)
    (hh : x.g.held = 0) :
    Ends s i x (s.complete (s.deferAfter (x.rewritten i) i) (s.execOf i) o pc) pc := by
  have hr := State.rewritten_frame x i
  have hrc : (x.rewritten i).cur = x.cur := by rw [hr.1]
  have hd := State.deferAfter_frame s (x.rewritten i) i
  have hdc : (s.deferAfter (x.rewritten i) i).cur = s.cur := by rw [hd.1]; exact hrc.trans hc
  have hg : (s.deferAfter (x.rewritten i) i).g =
      { x.g with lost := lostAfter x.g i, deferred := x.g.deferred || (nonIdempotent i && s.actsOn i) } := by
    rw [State.deferAfter_g, State.rewritten_g]
  generalize hy : s.deferAfter (x.rewritten i) i = y at *
  have hya : y.ants = x.ants := by rw [hd.1, hr.1]
  have hyg : y.group s.cur = y.g := by rw [← hdc]; rfl
  have hxg : x.group s.cur = x.g := by rw [← hc]; rfl
  have e : s.complete y (s.execOf i) o pc = y.setG (y.g.retire (!s.g.mode) pc) := by
    unfold State.complete
    have this : ((y.setG (y.g.retire (!s.g.mode) pc)).group s.cur) = y.g.retire (!s.g.mode) pc := by
      rw [← hdc]; exact State.g_setG _ _
    rw [State.antennae_none _ _ _ _ _ _ _ (unwatched_of ha (by simpa using hya) (by rw [this, hxg]; show y.g.core = _; rw [hg])
      (by rw [this, hxg]; show y.g.dbg = _; rw [hg]))]
    apply State.heldCheck_none
    rw [this]
    show y.g.held = 0
    rw [hg]; exact hh
  rw [e]
  have hgs : (y.setG (y.g.retire (!s.g.mode) pc)).g = y.g.retire (!s.g.mode) pc := State.g_setG _ _
  refine ⟨?_, ?_, ?_⟩
  · have hf : ∃ gs, y = { x with groups := gs } := by
      obtain ⟨a, ha⟩ : ∃ a, x.rewritten i = { x with groups := a } := ⟨_, hr.1⟩
      obtain ⟨b, hb⟩ : ∃ b, y = { x.rewritten i with groups := b } := ⟨_, hd.1⟩
      exact ⟨b, by rw [hb, ha]⟩
    obtain ⟨gs, hf⟩ := hf
    rw [hf]; rfl
  · intro k hk
    rw [State.group_setG, if_neg (by rw [hdc]; exact hk), hd.2 k (by rw [hrc, hc]; exact hk), hr.2 k (by rw [hc]; exact hk)]
  · rw [hgs, hg]
    cases s.g.mode <;> rfl

/-- An instruction whose body goes on completes. -/
theorem finish_go (s x : State) (i : Instr) (o : Obs) (hc : x.cur = s.cur) (ha : Unwatched x s.cur) (hh : x.g.held = 0) :
    ∃ t, s.finish i (.ok (.go x o)) = .next t ∧ Ends s i x t (nextPc i s) :=
  ⟨_, rfl, ends_complete s x i o _ hc ha hh⟩

theorem finish_to (s x : State) (i : Instr) (o : Obs) (pc : DWord) (hc : x.cur = s.cur) (ha : Unwatched x s.cur)
    (hh : x.g.held = 0) : ∃ t, s.finish i (.ok (.to x pc o)) = .next t ∧ Ends s i x t pc :=
  ⟨_, rfl, ends_complete s x i o pc hc ha hh⟩

/-! ### Register-only effects -/

/-- `x` differs from `s` in registers of the issuing group and accumulator words at most. -/
structure RegsOnly (s x : State) : Prop where
  rest   : ∃ gs as, x = { s with groups := gs, accum := as }
  others : ∀ k, k ≠ s.cur → x.group k = s.group k
  g      : x.g = { s.g with regs := x.g.regs, scal := x.g.scal, preds := x.g.preds, mask := x.g.mask, full := x.g.full
                            fpc := x.g.fpc, dix := x.g.dix }

theorem RegsOnly.refl (s : State) : RegsOnly s s := ⟨⟨_, _, rfl⟩, fun _ _ => rfl, rfl⟩

theorem RegsOnly.cur {s x : State} (h : RegsOnly s x) : x.cur = s.cur := by
  obtain ⟨_, _, e⟩ := h.rest; rw [e]

theorem RegsOnly.trans {s x y : State} (h : RegsOnly s x) (h' : RegsOnly x y) : RegsOnly s y := by
  refine ⟨?_, ?_, ?_⟩
  · obtain ⟨_, _, e⟩ := h.rest
    obtain ⟨_, _, e'⟩ := h'.rest
    exact ⟨_, _, by rw [e', e]⟩
  · intro k hk; rw [h'.others k (by rw [h.cur]; exact hk), h.others k hk]
  · rw [h'.g, h.g]

theorem OnlyWords.regsOnly {s x : State} {ws : List Nat} (h : OnlyWords s x ws) : RegsOnly s x :=
  ⟨⟨_, _, h.rest⟩, h.others, by rw [h.g]⟩

theorem RegsOnly.setG (s : State) (g : Group)
    (h : g = { s.g with regs := g.regs, scal := g.scal, preds := g.preds, mask := g.mask, full := g.full
                        fpc := g.fpc, dix := g.dix }) : RegsOnly s (s.setG g) :=
  ⟨⟨_, s.accum, rfl⟩, fun _ hk => State.group_putGroup_other _ _ hk, by rw [State.g_setG]; exact h⟩

end Sys2Proof.Machine

namespace Sys2Proof.Safety

open Sys2Proof.Machine

/-- After retirement, words of register space read as after the effect. -/
theorem Ends.rsWord {s x t : State} {i : Instr} {pc : DWord} (h : Ends s i x t pc) (b : Nat) :
    t.rsWord t.g b = x.rsWord x.g b := by
  have ha : t.accum = x.accum := by rw [h.rest]
  have h1 : t.rsWord t.g b = t.rsWord x.g b := State.rsWord_of_regs t x.g t.g (by rw [h.g]) (by rw [h.g]) (by rw [h.g]) b
  rw [h1]; unfold State.rsWord; rw [ha]

theorem Ends.vval {s x t : State} {i : Instr} {pc : DWord} (h : Ends s i x t pc) (n : Nat) (w : Bool) (j : Nat) :
    t.vval n w j = x.vval n w j := by
  have hv : ∀ m, t.vword m j = x.vword m j := by
    intro m
    have e : t.g.vByte m j = x.g.vByte m j := by rw [h.g]; rfl
    unfold State.vword; rw [e]; exact h.rsWord _
  unfold State.vval; rw [hv n, hv (n + 1)]

theorem memoryKept_of {s t : State} (h : ∃ gs as, t = { s with groups := gs, accum := as }) : MemoryKept s t := by
  obtain ⟨_, _, e⟩ := h
  rw [e]; exact ⟨fun _ => rfl, fun _ => rfl, fun _ => rfl, fun _ => rfl, fun _ => rfl⟩

/-- A register-only effect, after retirement. -/
theorem Ends.retired {s x t : State} {i : Instr} {pc : DWord} (h : Ends s i x t pc) (hr : RegsOnly s x)
    (hn : (nonIdempotent i && s.actsOn i) = false) : Retired s t pc := by
  have hrest : ∃ gs as, t = { s with groups := gs, accum := as } := by
    obtain ⟨_, _, e⟩ := hr.rest
    exact ⟨_, _, by rw [h.rest, e]⟩
  refine ⟨?_, memoryKept_of hrest, ?_, ?_⟩
  · obtain ⟨_, _, e⟩ := hrest; rw [e]
  · intro k hk; rw [h.others k hk, hr.others k hk]
  · rw [h.g, hr.g, hn, Bool.or_false]

theorem Ends.keepsVecs {s x t : State} {i : Instr} {pc : DWord} (h : Ends s i x t pc) (hx : KeepsVecs s x) : KeepsVecs s t :=
  ⟨fun b => by rw [h.rsWord, hx.1], fun a => by rw [h.rest]; exact hx.2 a⟩
theorem Ends.keepsScals {s x t : State} {i : Instr} {pc : DWord} (h : Ends s i x t pc) (hx : KeepsScals s x) : KeepsScals s t :=
  fun n hn => by rw [← hx n hn, h.g]; rfl
theorem Ends.keepsMask {s x t : State} {i : Instr} {pc : DWord} (h : Ends s i x t pc) (hx : KeepsMask s x) : KeepsMask s t :=
  ⟨by rw [h.g]; exact hx.1, by rw [h.g]; exact hx.2⟩
theorem Ends.keepsPreds {s x t : State} {i : Instr} {pc : DWord} (h : Ends s i x t pc) (hx : KeepsPreds s x) : KeepsPreds s t :=
  fun n => by rw [← hx n, h.g]; rfl
theorem Ends.keepsFp {s x t : State} {i : Instr} {pc : DWord} (h : Ends s i x t pc) (hx : KeepsFp s x) : KeepsFp s t :=
  ⟨fun n => by rw [← hx.1 n, h.g]; rfl, by rw [h.g]; exact hx.2⟩
theorem Ends.vecSet {s x t : State} {i : Instr} {pc : DWord} {n : Nat} {w : Bool} {e : Lanes} {v : Nat → TVal}
    (h : Ends s i x t pc) (hx : VecSet s x n w e v) : VecSet s t n w e v :=
  ⟨fun j hj he => by rw [h.vval]; exact hx.set j hj he, fun b hb => by rw [h.rsWord]; exact hx.other b hb,
   fun a ha => by rw [h.rest]; exact hx.accum a ha⟩
theorem Ends.scalSet {s x t : State} {i : Instr} {pc : DWord} {n : Nat} {v : TVal}
    (h : Ends s i x t pc) (hx : ScalSet s x n v) : ScalSet s t n v := by
  unfold ScalSet at *
  split
  · rename_i h0; rw [if_pos h0] at hx; exact ⟨h.keepsScals hx.1, h.keepsMask hx.2⟩
  · rename_i h0
    rw [if_neg h0] at hx
    split
    · rename_i h1
      rw [if_pos h1] at hx
      exact ⟨fun m hm => by rw [← hx.1 m hm, h.g]; rfl, h.keepsMask hx.2⟩
    · rename_i h1
      rw [if_neg h1] at hx
      exact ⟨h.keepsScals hx.1, by rw [h.g]; exact hx.2.1, by rw [h.g]; exact hx.2.2⟩
theorem Ends.predSet {s x t : State} {i : Instr} {pc : DWord} {n : Nat} {e v : Lanes}
    (h : Ends s i x t pc) (hx : PredSet s x n e v) : PredSet s t n e v := by
  unfold PredSet at *
  split
  · rename_i h0; rw [if_pos h0] at hx; exact h.keepsPreds hx
  · rename_i h0
    rw [if_neg h0] at hx
    intro m; rw [← hx m, h.g]; rfl

end Sys2Proof.Safety

namespace Sys2Proof.Machine

open Sys2Proof.Safety

/-- A scalar written (R33 to R35). -/
theorem scalSet_setS (s : State) (n : Fin 64) (v : TVal) : ScalSet s (s.setS n.val v) n.val v := by
  unfold ScalSet State.setS
  have hn := n.isLt
  by_cases h0 : n.val = 0
  · rw [if_pos h0]
    have e : s.g.setSreg n.val v = s.g := by simp [Group.setSreg, h0]
    rw [e]
    exact ⟨fun m _ => by rw [State.g_setG], by rw [State.g_setG], by rw [State.g_setG]⟩
  · rw [if_neg h0]
    by_cases h1 : n.val < 61
    · rw [if_pos h1]
      refine ⟨fun m hm => by rw [State.g_setG]; exact Group.sreg_setSreg _ _ _ _ h0 h1 hm, ?_⟩
      have h61 : n.val ≠ 61 := by omega
      have h62 : n.val ≠ 62 := by omega
      have h63 : n.val ≠ 63 := by omega
      constructor <;> rw [State.g_setG] <;> simp only [Group.setSreg, if_neg h0, if_neg h61, if_neg h62, if_neg h63]
    · rw [if_neg h1]
      have hk : ∀ k v', (s.setG (s.g.restoreMask (setLanePart s.g.full k v'))).g =
          s.g.restoreMask (setLanePart s.g.full k v') := fun _ _ => State.g_setG _ _
      have ks : ∀ k v', KeepsScals s (s.setG (s.g.restoreMask (setLanePart s.g.full k v'))) := by
        intro k v' m hm
        rw [hk]
        have a1 : m ≠ 61 := by omega
        have a2 : m ≠ 62 := by omega
        have a3 : m ≠ 63 := by omega
        simp only [Group.sreg, if_neg a1, if_neg a2, if_neg a3, Group.restoreMask]
      have h3 : n.val = 61 ∨ n.val = 62 ∨ n.val = 63 := by omega
      have e : ∃ k, k = n.val - 61 ∧ s.g.setSreg n.val v = s.g.restoreMask (setLanePart s.g.full k v.val) := by
        rcases h3 with h | h | h <;> rw [h] <;> exact ⟨_, rfl, rfl⟩
      obtain ⟨k, rfl, e⟩ := e
      rw [e]
      exact ⟨ks _ _, by rw [hk]; rfl, by rw [hk]; rfl⟩

theorem keepsPreds_of {s x : State} (h : x.g.preds = s.g.preds) : KeepsPreds s x := fun n => by
  unfold Group.pred; rw [h]
theorem keepsFp_of {s x : State} (h : x.g.fpc = s.g.fpc) (hd : x.g.dix = s.g.dix) : KeepsFp s x :=
  ⟨fun n => by unfold Group.fpcOf; rw [h], hd⟩
theorem keepsScals_of {s x : State} (h : x.g.scal = s.g.scal) : KeepsScals s x := fun n hn => by
  have h1 : n ≠ 61 := by omega
  have h2 : n ≠ 62 := by omega
  have h3 : n ≠ 63 := by omega
  simp only [Group.sreg, h, if_neg h1, if_neg h2, if_neg h3]
theorem keepsVecs_of {s x : State} (ha : x.accum = s.accum) (h1 : x.g.viewA = s.g.viewA) (h2 : x.g.core = s.g.core)
    (h3 : x.g.regs = s.g.regs) : KeepsVecs s x :=
  ⟨fun b => by rw [State.rsWord_of_regs x s.g x.g h1 h2 h3]; unfold State.rsWord; rw [ha], fun a => by rw [ha]⟩

theorem setSreg_keeps (g : Group) (n : Nat) (v : TVal) :
    g.setSreg n v = { g with scal := (g.setSreg n v).scal, mask := (g.setSreg n v).mask, full := (g.setSreg n v).full } := by
  unfold Group.setSreg Group.restoreMask
  repeat' split
  all_goals rfl

theorem setPred_keeps (g : Group) (n : Nat) (a v : Lanes) : g.setPred n a v = { g with preds := (g.setPred n a v).preds } := by
  unfold Group.setPred
  split <;> rfl

/-- What `wrDst` does (R58, R67, R68). -/
theorem writes_wrDst (s : State) (gd : Guard) (t : Ty) (d : Dst) (v : Nat → TVal) :
    RegsOnly s (s.wrDst gd t d v) ∧ KeepsPreds s (s.wrDst gd t d v) ∧ KeepsFp s (s.wrDst gd t d v)
      ∧ Writes s (s.wrDst gd t d v) gd t d v := by
  have hself : KeepsVecs s s ∧ KeepsScals s s ∧ KeepsMask s s :=
    ⟨⟨fun _ => rfl, fun _ => rfl⟩, fun _ _ => rfl, rfl, rfl⟩
  cases d with
  | vec n =>
    have h := State.onlyWords_setLanes s n.toNat t.is64 ((lanesOf (s.g.execLanes gd)).map fun i => (i, v i))
    have hg := h.g
    refine ⟨h.regsOnly, keepsPreds_of ?_, keepsFp_of ?_ ?_, State.vecSet_setLanes s n.toNat t.is64 _ v, keepsScals_of ?_, ?_, ?_⟩
    all_goals
      simp only [State.wrDst]
      rw [hg]
  | scal n =>
    simp only [State.wrDst, Writes]
    split
    · rename_i hg
      have hk := setSreg_keeps s.g n.val ⟨t.widen (v 96).val, (v 96).tail⟩
      have hx : (s.setS n.val ⟨t.widen (v 96).val, (v 96).tail⟩).g = s.g.setSreg n.val ⟨t.widen (v 96).val, (v 96).tail⟩ :=
        State.g_setG _ _
      refine ⟨RegsOnly.setG _ _ ?_, keepsPreds_of ?_, keepsFp_of ?_ ?_, keepsVecs_of rfl ?_ ?_ ?_, scalSet_setS s n _⟩
      · rw [hk]
      all_goals rw [hx, hk]
    · exact ⟨RegsOnly.refl s, fun _ => rfl, ⟨fun _ => rfl, rfl⟩, hself⟩
  | pred n => exact ⟨RegsOnly.refl s, fun _ => rfl, ⟨fun _ => rfl, rfl⟩, hself⟩
  | special n => exact ⟨RegsOnly.refl s, fun _ => rfl, ⟨fun _ => rfl, rfl⟩, hself⟩

theorem regsOnly_held {s x : State} (h : RegsOnly s x) : x.g.held = s.g.held := by rw [h.g]
theorem regsOnly_ants {s x : State} (h : RegsOnly s x) : x.ants = s.ants := by
  obtain ⟨_, _, e⟩ := h.rest; rw [e]

theorem regsOnly_unwatched {s x : State} (h : RegsOnly s x) (hu : Unwatched s s.cur) : Unwatched x s.cur := by
  have hg : x.group s.cur = x.g := by rw [← h.cur]; rfl
  exact unwatched_of hu (regsOnly_ants h) (by rw [hg, h.g]; rfl) (by rw [hg, h.g]; rfl)

/-- A per-lane instruction that passes its checks. -/
theorem gives_wrDst {i : Instr} {s : State} {gd : Guard} {ty : Ty} {d : Dst} {v : Nat → TVal} {o : Obs} (hq : Quiet s)
    (hn : nonIdempotent i = false) (h : exec i s = s.finish i (.ok (.go (s.wrDst gd ty d v) o))) : Gives i s gd ty d v := by
  obtain ⟨hr, hp, hf, hw⟩ := writes_wrDst s gd ty d v
  obtain ⟨t, ht, he⟩ := finish_go s (s.wrDst gd ty d v) i o hr.cur (regsOnly_unwatched hr hq.1)
    (by rw [regsOnly_held hr]; exact hq.2)
  refine ⟨t, by rw [h, ht], he.retired hr (by rw [hn]; rfl), he.keepsPreds hp, he.keepsFp hf, ?_⟩
  cases d with
  | vec n => exact ⟨he.vecSet hw.1, he.keepsScals hw.2.1, he.keepsMask hw.2.2⟩
  | scal n =>
    refine ⟨he.keepsVecs hw.1, ?_⟩
    have h2 := hw.2
    split
    · rename_i hg; rw [if_pos hg] at h2; exact he.scalSet h2
    · rename_i hg; rw [if_neg hg] at h2; exact ⟨he.keepsScals h2.1, he.keepsMask h2.2⟩
  | pred n => exact ⟨he.keepsVecs hw.1, he.keepsScals hw.2.1, he.keepsMask hw.2.2⟩
  | special n => exact ⟨he.keepsVecs hw.1, he.keepsScals hw.2.1, he.keepsMask hw.2.2⟩

/-- A predicate written (R37). -/
theorem predSet_setPred (s : State) (n : Nat) (e v : Lanes) : PredSet s (s.setG (s.g.setPred n e v)) n e v := by
  unfold PredSet
  by_cases h : n = 0
  · rw [if_pos h]; subst h
    intro m; rw [State.g_setG]; rfl
  · rw [if_neg h]
    intro m
    rw [State.g_setG, Group.pred_setPred _ _ _ _ _ h]

/-- An instruction whose effect is to write a predicate. -/
theorem gives_setPred {i : Instr} {s : State} {n : Nat} {e v : Lanes} {o : Obs} (hq : Quiet s)
    (hn : nonIdempotent i = false) (h : exec i s = s.finish i (.ok (.go (s.setG (s.g.setPred n e v)) o))) :
    GivesPred i s n e v := by
  have hk := setPred_keeps s.g n e v
  have hx : (s.setG (s.g.setPred n e v)).g = s.g.setPred n e v := State.g_setG _ _
  have hr : RegsOnly s (s.setG (s.g.setPred n e v)) := RegsOnly.setG _ _ (by rw [hk])
  obtain ⟨t, ht, he⟩ := finish_go s _ i o hr.cur (regsOnly_unwatched hr hq.1) (by rw [regsOnly_held hr]; exact hq.2)
  refine ⟨t, by rw [h, ht], he.retired hr (by rw [hn]; rfl), he.keepsVecs (keepsVecs_of rfl ?_ ?_ ?_),
    he.keepsScals (keepsScals_of ?_), he.keepsMask ⟨?_, ?_⟩, he.keepsFp (keepsFp_of ?_ ?_), he.predSet (predSet_setPred s n e v)⟩
  all_goals rw [hx, hk]

end Sys2Proof.Machine
end

