-- ==== Sys2Proof/Laws/Steps.lean ====
section
/-! SUPPORT. What the operations that the events share can change: records, interrupts, packets, and waits that end. -/

namespace Sys2Proof.Laws

open Sys2Proof.Machine Sys2Proof.Safety

/-! ### Records (R21, R341) -/

/-- A drained buffer changes the buffers and the store only. -/
theorem drain_logged (s : State) (die : Nat) : logged s (s.drain die) = s.drain die := by
  unfold State.drain
  split <;> rfl

theorem drain_frame (s : State) (die : Nat) :
    (s.drain die).groups = s.groups ∧ (s.drain die).device = s.device ∧ (s.drain die).seqs = s.seqs ∧ (s.drain die).seqBase = s.seqBase := by
  unfold State.drain
  split <;> exact ⟨rfl, rfl, rfl, rfl⟩

/-- A record sent, or dropped, changes what records change and nothing else. -/
theorem emit_logged (s : State) (e code : Nat) (ctx : Option (BitVec 16)) (p : BitVec 96) :
    logged s (s.emit e code ctx p) = s.emit e code ctx p := by
  have h := drain_logged s (engDie e)
  have hs : ∀ x : State, logged s x = x → logged s ((x.advance e).stampOn (engDie e)) = (x.advance e).stampOn (engDie e) := by
    intro x hx
    rw [← hx]
    rfl
  have hx : logged s (if s.jetFull (engDie e) then s.drain (engDie e) else s) = if s.jetFull (engDie e) then s.drain (engDie e) else s := by
    split
    · exact h
    · rfl
  simp only [State.emit]
  split
  · rfl
  · rw [← hs _ hx]
    rfl

/-- What a record leaves of every field that records do not change. -/
theorem emit_frame (s : State) (e code : Nat) (ctx : Option (BitVec 16)) (p : BitVec 96) :
    ∃ j d c q st fc n, s.emit e code ctx p =
      { s with jet := j, drops := d, contrail := c, seqs := q, stamps := st, freeCtr := fc, counts := n } :=
  ⟨_, _, _, _, _, _, _, (emit_logged s e code ctx p).symm⟩

@[simp] theorem emit_cur (s : State) (e code : Nat) (ctx : Option (BitVec 16)) (p : BitVec 96) : (s.emit e code ctx p).cur = s.cur := by
  rw [← emit_logged]; rfl
@[simp] theorem emit_groups (s : State) (e code : Nat) (ctx : Option (BitVec 16)) (p : BitVec 96) :
    (s.emit e code ctx p).groups = s.groups := by
  rw [← emit_logged]; rfl
@[simp] theorem emit_hbm (s : State) (e code : Nat) (ctx : Option (BitVec 16)) (p : BitVec 96) : (s.emit e code ctx p).hbm = s.hbm := by
  rw [← emit_logged]; rfl

/-! ### Interrupts (R418) -/

/-- An interrupt is appended to the list, none on a failed port; nothing else changes. -/
theorem irq_eq (s : State) (port vec : Nat) :
    s.irq port vec = { s with irqs := s.irqs ++ if s.hostDown.contains port then [] else [(port, vec)] } := by
  unfold State.irq
  split
  · rw [List.append_nil]
  · rfl

/-- The device interrupt is raised on every host port that is up. -/
theorem deviceIrq_eq (s : State) : s.deviceIrq =
    { s with irqs := s.irqs ++ (([0, 1] : List Nat).filter fun p => !s.hostDown.contains p).map fun p => (p, 63) } := by
  have h : s.deviceIrq = { s with irqs :=
      s.irqs ++ (if s.hostDown.contains 0 then [] else [(0, 63)]) ++ if s.hostDown.contains 1 then [] else [(1, 63)] } :=
    (congrArg (fun t : State => t.irq 1 63) (irq_eq s 0 63)).trans (irq_eq _ 1 63)
  rw [h, List.append_assoc]
  congr 2
  cases h0 : s.hostDown.contains 0 <;> cases h1 : s.hostDown.contains 1 <;> simp only [List.filter, List.map, h0, h1, Bool.not_false, Bool.not_true] <;> rfl

/-! ### Waits that end -/

/-- A wait that is over frees its group, and leaves every other group. -/
theorem expire_eq (s : State) (k : Nat) (w : Waiting) : s.expire k w =
    if (s.group k).waiting = w then s.putGroup k { s.group k with waiting := .no, stall := 0 } else s := by
  unfold State.expire
  by_cases h : (s.group k).waiting = w <;> simp [h]

theorem expire_other (s : State) (k j : Nat) (w : Waiting) (h : j ≠ k) : (s.expire k w).group j = s.group j := by
  rw [expire_eq]
  split
  · exact State.group_putGroup_other s _ h
  · rfl

/-! ### Steps of the launcher (R234, R271) -/

/-- A step of the launcher waits as a whole, a wait for an owned line being noted, or does what it does with no line owned and no window
open; that it no longer waits is noted too. -/
theorem lxStep_cases (s : State) (id : Nat) (f : State → State) (die : Nat) :
    s.lxStep id f die = s ∨ s.lxStep id f die = s.noteWait die 2 id ∨
    (s.lxStep id f die = (f s).waitOver 2 id ∧
      { f s with owned := [], refresh := [] } = { f { s with owned := [], refresh := [] } with owned := [], refresh := [] }) := by
  unfold State.lxStep
  split
  · rename_i h
    simp only [Bool.and_eq_true, beq_iff_eq] at h
    obtain ⟨h1, h2⟩ := h
    have e : ({ s with owned := [], refresh := [] } : State) = s := by cases s; simp_all
    exact .inr (.inr ⟨rfl, by rw [e]⟩)
  · dsimp only
    split
    · rename_i h
      rw [beq_iff_eq] at h
      exact .inr (.inr ⟨rfl, by rw [← h]⟩)
    · split
      · exact .inl rfl
      · exact .inr (.inl rfl)

/-- With no line owned and no window open, a step of the launcher never waits. -/
theorem lxStep_free (s : State) (id : Nat) (f : State → State) (die : Nat) (h1 : s.owned = []) (h2 : s.refresh = []) :
    s.lxStep id f die = (f s).waitOver 2 id := by
  simp [State.lxStep, h1, h2]

/-! ### What a wait, a note and a hit change (R202, R224, R243) -/

/-- A wait that is noted, and the end of one, change the counter of waits and the list of those counted only. -/
theorem noteWait_eq (s : State) (die kind id : Nat) :
    s.noteWait die kind id = { s with counts := (s.noteWait die kind id).counts, waited := (s.noteWait die kind id).waited } := by
  unfold State.noteWait
  split <;> rfl

/-- A wait is counted once: a noted one is not noted again. -/
theorem noteWait_again (s : State) (die kind id : Nat) : (s.noteWait die kind id).noteWait die kind id = s.noteWait die kind id := by
  have h : (s.noteWait die kind id).waited.contains (kind, id) = true := by
    by_cases c : s.waited.contains (kind, id) = true
    · unfold State.noteWait; rw [if_pos c]; exact c
    · unfold State.noteWait; rw [if_neg c]; simp
  exact if_pos h

/-- An address whose translation the copy engine's core has cached goes where it went, whatever the memories hold. -/
theorem tcSteer_of_hit {s u : State} {c : CopyCmd} {n : Nat} {va : DWord} (hit : (s.tlbFind c.core c.asid va).isSome = true)
    (h : u = { s with hbm := u.hbm, stratus := u.stratus, host := u.host, peer := u.peer }) : u.tcSteer c n va = s.tcSteer c n va := by
  obtain ⟨e, he⟩ := Option.isSome_iff_exists.mp hit
  have hu : u.tlbFind c.core c.asid va = some e := by rw [h]; exact he
  have hc : u.ctxCore c.core c.asid = s.ctxCore c.core c.asid := by rw [h]; rfl
  simp only [State.tcSteer, State.resolveGlobal, State.leafOf, hu, he, hc]

/-- A packet whose signature agrees, or whose sequence is not in progress here, goes on. -/
theorem compared_next (s : State) (comm : Nat) (seq : Word) (src : Sender) (tag : DWord) (next : State)
    (h : ∀ c, s.coll comm seq = some c → c.status = 0 → c.clashWith src = none) : s.compared comm seq src tag next = next := by
  unfold State.compared
  split
  · rename_i c hc
    split
    · rename_i w hw
      split at hw
      · rename_i h0; rw [h c hc h0] at hw; cases hw
      · cases hw
    · rfl
  · rfl

/-- With nothing held back and nothing owned for which a wait was counted, no input is served. -/
theorem serveWaiting_idle (s : State) (h1 : s.inbox = []) (h2 : s.waited = []) : s.serveWaiting = s := by
  simp [State.serveWaiting, h1, h2]

end Sys2Proof.Laws
end

