-- ==== Sys2Proof/Tests/Slice0.lean ====
section
/-! SUPPORT. Tests: words of the manual's worked cases, ill-formed terms, one step of each family, and a witness for the
hypotheses of every statement. -/

namespace Sys2Proof.Tests

set_option Elab.async false -- one test after another: each evaluates on a stack of its own

open Sys2Proof.Machine Sys2Proof.Safety

/-! ### Small states and short forms -/

def always : Guard := ⟨false, 0⟩
def never : Guard := ⟨true, 0⟩
def onP1 : Guard := ⟨false, 1⟩

/-- A form of Format V. -/
def vf (d : Dst := .unused) (a b c : Src := .unused) (ty : Ty := .i32) (fn : BitVec 4 := 0) (g : Guard := always) (ct : Combine := .set)
    (m : Option Mods := none) : VForm := ⟨g, ty, fn, ct, d, a, b, c, m⟩
/-- A form of Format M at device scope. -/
def mf (d : Dst := .unused) (a b : Src := .unused) (ty : Ty := .n32) (fn : BitVec 4 := 0) (off : BitVec 16 := 0) (order : MemOrder := .plain)
    (scope : Scope := .device) (g : Guard := always) : MForm := ⟨g, ty, fn, .normal, d, a, b, scope, order, off, none⟩
/-- A form of Format B. -/
def bf (disp : BitVec 40) (g : Guard := always) (d : Dst := .unused) (a : Src := .unused) (uni : Bool := false) : BForm := ⟨g, uni, d, a, disp⟩
/-- Vector register n. -/
def vr (n : Nat) (p : Pattern := .ident) : Src := .vec (BitVec.ofNat 8 n) p
/-- Modifiers of which all are off. -/
def noMods : Mods := ⟨false, false, false, false, false, false, false, false, 0, 0, 0, 0, 0⟩

/-- A group in its launch state on core 0, in user mode, whose code page lies at virtual address 0 (physical 0x6000). -/
def base : State := State.reset.withFetchWord 96 0
/-- The group in supervisor mode. -/
def sup : State := base.setG { base.g with mode := true }
/-- Scalars set. -/
def scals (s : State) (l : List (Nat × Nat)) : State := l.foldl (fun t p => t.setS p.1 ⟨BitVec.ofNat 64 p.2, 0⟩) s
/-- A predicate set. -/
def preds (s : State) (n : Nat) (m : Lanes) : State := s.setG (s.g.setPred n allLanes m)
/-- The mask set. -/
def lanes (s : State) (m : Lanes) : State := s.setG { s.g with mask := m, full := m }
/-- A vector register set in some lanes. -/
def vecs (s : State) (n : Nat) (l : List (Nat × Nat)) (wide : Bool := false) : State :=
  s.setLanes n wide (l.map fun p => (p.1, ⟨BitVec.ofNat 64 p.2, 0⟩))
/-- A handler for the group. -/
def handled (s : State) : State := s.setG { s.g with trapBase := 0x800 }
/-- A join entry. -/
def entry (pend : Bool) : JoinEntry := { lpc := 0x100, ppc := 0x200, smask := allLanes, pmask := 3, pend := pend }

/-! ### Checks -/

/-- The instruction answers a next state of which `p` holds. -/
def runs (i : Instr) (s : State) (p : State → Bool) : Bool := match exec i s with | .next t => p t | _ => false
/-- The instruction traps with a code. -/
def trapsWith (i : Instr) (s : State) (code : FCode) : Bool :=
  runs i (handled s) fun t => t.g.inHandler && t.g.cause.extractLsb' 0 6 == BitVec.ofNat 6 code.num

/-- `Quiet` as a test. -/
def quietB (s : State) : Bool := (s.g.dbg || (List.range 16).all fun n => !(s.antenna s.g.core n).ctl.getLsbD 0) && s.g.held == 0
theorem quiet_of {s : State} (h : quietB s = true) : Quiet s := by
  simp only [quietB, Bool.and_eq_true, Bool.or_eq_true, List.all_eq_true, List.mem_range, beq_iff_eq, Bool.not_eq_true'] at h
  exact ⟨h.1, h.2⟩

/-- `Ready` as a test. -/
def readyB (s : State) (gd : Guard) (ops : List VecOp) : Bool :=
  quietB s && ops.all (fun o => s.g.vecOk o) && ops.all fun o => s.g.windowLanes (s.g.execLanes gd) o == 0
theorem ready_of {s : State} {gd : Guard} {ops : List VecOp} (h : readyB s gd ops = true) : Ready s gd ops := by
  simp only [readyB, Bool.and_eq_true, List.all_eq_true, beq_iff_eq] at h
  exact ⟨quiet_of h.1.1, h.1.2, .inl h.2⟩
theorem readable_of {s : State} {gd : Guard} {ops : List VecOp} (h : readyB s gd ops = true) : Readable s (s.g.execLanes gd) ops :=
  (ready_of h).2

/-- A result is `ok` with a value that meets a test. -/
def okIs {ε α : Type} (r : Except ε α) (p : α → Bool) : Bool := match r with | .ok a => p a | .error _ => false
theorem ok_of {ε α : Type} {r : Except ε α} {p : α → Bool} (h : okIs r p = true) : ∃ a, r = .ok a ∧ p a = true := by
  cases r with
  | ok a => exact ⟨a, rfl, h⟩
  | error e => exact absurd h (by simp [okIs])

theorem unit_of {ε : Type} {r : Except ε Unit} (h : okIs r (fun _ => true) = true) : r = .ok () := by
  obtain ⟨a, h1, -⟩ := ok_of h
  exact h1

theorem groups_of {s : State} (h : (s.groups.map Prod.fst).Pairwise (· < ·)) : GroupsWf s := List.pairwise_map.mp h

/-- The base state is quiet, and so is what differs from it in registers only. -/
theorem quiet_base : Quiet base := quiet_of (by decide +kernel)
theorem groups_base : GroupsWf base := groups_of (by decide +kernel)

/-! ### Words written out in the manual -/

/-- A word, with its modifier word, decodes to an instruction, which is well formed and encoded again as it was. -/
def word (w : BitVec 96) (i : Instr) (m : BitVec 96 := 0) : Bool :=
  decode w m == .ok i && i.wf && encode i == some (w, if wordMw w then some m else none)

/-- Chapters 04 and 16: `mark`, `bra`, `bra uni`, and a branch on p3. -/
theorem test_words_control :
    word 0x070000000000000000000048 (.mark (bf 0x48)) ∧ word 0x02000400000000FFFFFFFFDC (.bra (bf 0xFFFFFFFFDC onP1)) ∧
    word 0x02000500000000FFFFFFFFDC (.bra (bf 0xFFFFFFFFDC onP1 .unused .unused true)) ∧
    word 0x02000C000000000000000030 (.bra (bf 0x30 ⟨false, 3⟩)) := by decide +kernel
/-- Chapter 05: `iadd.i32 v2, v3, 7 sat`. -/
theorem test_words_integer :
    word 0x20000200200C008000700000 (.iadd (vf (.vec 2) (vr 3) (.imm 7) (m := some { noMods with sat := true }))) 0xFE0100000000000000000000 := by
  decide +kernel
/-- Chapters 06 and 17: `fcvt.bf16.f32 v2, v3`, and `[p4] fcvt.bf16.f32 v36, v35`. -/
theorem test_words_convert :
    word 0x408B0000200C000000000000 (.fcvt (vf (.vec 2) (vr 3) (ty := .bf16) (fn := 8))) ∧
    word 0x408B1002408C000000000000 (.fcvt (vf (.vec 36) (vr 35) (ty := .bf16) (fn := 8) (g := ⟨false, 4⟩))) := by decide +kernel
/-- Chapters 03 and 07: `fadd.f32 v3, v4, v5:rot(5)`, `[!p3] fma.f32 v6, -v2, s7, 0.5 rm(rtz)`, `fcmp.lt.f32.and p2, v1, v3`. -/
theorem test_words_float :
    word 0x500800003010000148500000 (.fadd (vf (.vec 3) (vr 4) (vr 5 (.rot 5)) (ty := .f32))) ∧
    word 0x53088E0060080041C008FC00 (.fma (vf (.vec 6) (vr 2) (.scal 7) (.imm 0xFC00) .f32 0 ⟨true, 3⟩ .set
      (some { noMods with negA := true, rmo := 2 }))) 0xFE8000000200000000000000 ∧
    word 0x5828006020040000C0000000 (.fcmp (vf (.pred 2) (vr 1) (vr 3) (ty := .f32) (fn := 2) (ct := .and))) := by decide +kernel
/-- Chapter 08: `rdc.add.f32 s5, v8`. -/
theorem test_words_lanes : word 0x710800105020000000000000 (.rdc (vf (.scal 5) (vr 8) (ty := .f32))) := by decide +kernel
/-- Chapters 09 and 16: `ld.f16 v8, [v2+0x40] nol1`, `st.n64 [s7], s12 dev rel`. -/
theorem test_words_memory :
    word 0x800A00C08008000000000040 (.ld ⟨always, .f16, 0, .nol1, .vec 8, vr 2, .unused, .team, .plain, 0x40, none⟩) ∧
    word 0x81030000041C0043000A0000 (.st (mf .unused (.scal 7) (.scal 12) .n64 0 0 .release)) := by decide +kernel
/-- Chapter 10: `fence dev acqrel`, `stsig.add.n32 [v4], v9, s10 sys rel`. -/
theorem test_words_order :
    word 0xA000000000000000000B0000 (.fence (mf .unused .unused .unused .i32 0 0 .acqrel)) ∧
    word 0xA2110010A0100002400E0000 (.stsig (mf (.scal 10) (vr 4) (vr 9) .n32 1 0 .release .system)) := by decide +kernel
/-- Chapters 11 and 18: `tc.ld s4, s8, s12`, `wait.path path.copy, 0`, `[p3] ab.arrive s13, s3, 1`. -/
theorem test_words_async :
    word 0xA80000000410004200043000 (.tcLd (vf .unused (.scal 4) (.scal 8) (.scal 12))) ∧
    word 0xAE0000000800028000000000 (.waitPath (vf .unused (.imm 2) (.imm 0))) ∧
    word 0xB1000C10D40C008000100000 (.abArrive (vf (.scal 13) (.scal 3) (.imm 1) (g := ⟨false, 3⟩))) := by decide +kernel
/-- Chapters 12 and 17: `mx.mma s4, t2, s6`, `mx.st s15, a0, s20`. -/
theorem test_words_matrix :
    word 0xC2000000041000C080041800 (.mxMma (vf .unused (.scal 4) (.special 2 0) (.scal 6))) ∧
    word 0xC4000000043C00C000045000 (.mxSt (vf .unused (.scal 15) (.special 0 0) (.scal 20))) := by decide +kernel
/-- Chapters 13 and 16: `rgn v4..v7, v20..v21`, `poll.ge.n64 p2, [s5+8], s6 dev acq`, `poll.eq.n64 p2, [s10], 3 dev acq`. -/
theorem test_words_tasks :
    word 0xD00000000C1004C500200000 (.rgn (vf .unused (.special 4 4) (.special 20 2) .unused)) ∧
    word 0xD42300202414004180090008 (.poll (mf (.pred 2) (.scal 5) (.scal 6) .n64 2 8 .acquire)) ∧
    word 0xD40300202428008000390000 (.poll (mf (.pred 2) (.scal 10) (.imm 3) .n64 0 0 .acquire)) := by decide +kernel
/-- Chapters 14 and 18: `cl.go s8, s20`, `awr s16, s5, 2, s6`, `cl.abort s5`. -/
theorem test_words_collectives :
    word 0xE00000108450000000000000 (.clGo (vf (.scal 8) (.scal 20))) ∧
    word 0xE30000110414008000241800 (.awr (vf (.scal 16) (.scal 5) (.imm 2) (.scal 6))) ∧
    word 0xE20000000414000000000000 (.clAbort (vf .unused (.scal 5))) := by decide +kernel
/-- Chapters 15 and 18: `srd s5, RETIRED`, `insp.rd s8, s4, s6`, `rfe`, `step s16, s5, s14`. -/
theorem test_words_system :
    word 0xEA0000105C40000000000000 (.srd (vf (.scal 5) (.special 0x10 0))) ∧
    word 0xEE0000108410004180000000 (.inspRd (vf (.scal 8) (.scal 4) (.scal 6))) ∧
    word 0xE90000000000000000000000 (.rfe vf) ∧ word 0xEF0000110414004380000000 (.step (vf (.scal 16) (.scal 5) (.scal 14))) := by decide +kernel
/-- A word whose OP no row has is an instruction of its own; the table's numbering puts the modifier word above bit 95 (R52, R77). -/
theorem test_words_table :
    decode 0xFF0000000000000000000000 0 = .ok (.unassignedOpcode 0xFF0000000000000000000000) ∧
    decodeTableWord 192 0xFE010000000000000000000020000200200C008000700000 =
      some (.iadd (vf (.vec 2) (vr 3) (.imm 7) (m := some { noMods with sat := true }))) := by decide +kernel

/-! ### Ill-formed terms: one for each check -/

/-- Type not of the row, reserved type field, destination kind, unused destination, source kind, unused source, scalar destination
beside a vector source, CT outside a compare. -/
theorem test_wf_kinds :
    (Instr.iadd (vf (.vec 2) (vr 3) (vr 4) (ty := .f32))).wf = false ∧ (Instr.clz (vf (.vec 2) (vr 3) (ty := .i16))).wf = false ∧
    (Instr.rfe (vf (ty := .i64))).wf = false ∧ (Instr.iadd (vf (.pred 2) (vr 3) (vr 4))).wf = false ∧ (Instr.nop (vf (.vec 1))).wf = false ∧
    (Instr.iadd (vf (.vec 2) (.special 3 0) (vr 4))).wf = false ∧ (Instr.not (vf (.vec 2) (vr 3) (vr 4))).wf = false ∧
    (Instr.iadd (vf (.scal 2) (vr 3) (vr 4))).wf = false ∧ (Instr.iadd (vf (.vec 2) (vr 3) (vr 4) (ct := .or))).wf = false ∧
    (Instr.iadd (vf (.vec 2) (vr 3) (vr 4))).wf = true := by decide +kernel
/-- Modifiers: none accepted, NEG, SAT, CLP, SCL, RMO and EXT where the row has none of them, RMO of an integer reduction. -/
theorem test_wf_modifiers :
    (Instr.nop (vf (m := some noMods))).wf = false ∧
    (Instr.iadd (vf (.vec 2) (vr 3) (vr 4) (m := some { noMods with negA := true }))).wf = false ∧
    (Instr.fmin (vf (.vec 2) (vr 3) (vr 4) (ty := .f32) (m := some { noMods with sat := true }))).wf = false ∧
    (Instr.fdot2 (vf (.vec 2) (vr 4) (vr 6) (vr 8) (ty := .f16) (m := some { noMods with ext := 1 }))).wf = false ∧
    (Instr.fmin (vf (.vec 2) (vr 3) (vr 4) (ty := .f32) (m := some { noMods with scl := 1 }))).wf = false ∧
    (Instr.fmin (vf (.vec 2) (vr 3) (vr 4) (ty := .f32) (m := some { noMods with rmo := 1 }))).wf = false ∧
    (Instr.iadd (vf (.vec 2) (vr 3) (vr 4) (m := some { noMods with scl := 1 }))).wf = false ∧
    (Instr.rdc (vf (.vec 2) (vr 3) (m := some { noMods with rmo := 1 }))).wf = false := by decide +kernel
/-- Items out of range: predicates, tiles, immediates, operand blocks, system registers, ranges, displacements. -/
theorem test_wf_ranges :
    (Instr.plog (vf (.pred 1) (.special 32 0) (.special 1 0))).wf = false ∧ (Instr.lea (vf (.vec 2) (vr 4) (vr 6) (.imm 8) (ty := .i64))).wf = false ∧
    (Instr.fdot2 (vf (.vec 2) (vr 3) (vr 4) (vr 5) (ty := .f16))).wf = false ∧ (Instr.tcLd (vf .unused (.scal 3) (.scal 8) (.scal 12))).wf = false ∧
    (Instr.mxSt (vf .unused (.scal 15) (.special 8 0) (.scal 20))).wf = false ∧ (Instr.mxSt (vf .unused (.scal 15) (.special 0 0) (.scal 21))).wf = false ∧
    (Instr.rgn (vf .unused (.special 4 0) .unused .unused)).wf = false ∧ (Instr.srd (vf (.scal 5) (.special 0x13 0))).wf = false ∧
    (Instr.awr (vf (.scal 12) (.scal 5) (.imm 2) (.scal 6))).wf = false ∧ (Instr.awr (vf (.scal 16) (.scal 5) (.imm 3) (.scal 6))).wf = false ∧
    (Instr.waitPath (vf .unused (.imm 6) (.imm 0))).wf = false ∧ (Instr.cwait (vf .unused (.imm 1))).wf = false ∧
    (Instr.bra (bf 2)).wf = false ∧ (Instr.brx (bf 4 always .unused (.scal 3))).wf = false ∧ (Instr.loop (bf 8 always (.scal 61))).wf = false ∧
    (Instr.mark (bf 8 onP1)).wf = false ∧ (Instr.join (vf (g := onP1))).wf = false ∧
    (Instr.antSet (vf .unused (.imm 1) (.scal 57))).wf = false ∧ (Instr.step (vf (.scal 16) (.scal 5) (.scal 60))).wf = false := by decide +kernel
/-- Format I and M: an f64 immediate without a modifier word, a sleep above its bound, an order, a scope, a hint of a fence, a signal's
scalar pair. -/
theorem test_wf_formats :
    (Instr.movi ⟨always, .f64, .vec 2, .unused, 1, none⟩).wf = false ∧ (Instr.movi ⟨always, .f32, .vec 2, .unused, 0x100000000, none⟩).wf = false ∧
    (Instr.sleep ⟨always, .i32, .unused, .unused, 1048576, none⟩).wf = false ∧
    (Instr.ld (mf (.vec 2) (vr 4) .unused .n32 0 0 .release)).wf = false ∧ (Instr.fence (mf (ty := .i32))).wf = false ∧
    (Instr.prf (mf .unused (vr 4) .unused .i32)).wf = false ∧
    (Instr.fence { mf .unused .unused .unused .i32 0 0 .acqrel with hint := .keep }).wf = false ∧
    (Instr.stsig (mf (.scal 11) (vr 4) (vr 9) .n32 1 0 .release)).wf = false := by decide +kernel
/-- An autonomous step has no words. -/
theorem test_wf_events : (Instr.loadDataReturn 0).wf = false ∧ encode (.loadDataReturn 0) = none := by decide +kernel

/-! ### Witnesses and steps: control flow -/

/-- A ready group of the pending set of the quadrant. -/
def pendingMate : Group := { base.g with slot := 1, active := false }
def yielding : State := base.putGroup 1 pendingMate
/-- Expected results by hand: chapter 04. -/
theorem witness_IdleInstructions : Quiet base ∧ base.g.groupExec always = true ∧ base.g.groupExec never = false ∧
    runs (.nop vf) base (fun t => t.g.pc == 12 && t.g.retired == 1) ∧
    runs (.yield vf) base (fun t => t.g.pc == 12 && t.g.active) ∧ yielding.oldestPending 0 0 = some (1, pendingMate) ∧
    runs (.yield vf) yielding (fun t => t.g.pc == 12 && !t.g.active && (t.group 1).active) ∧
    runs (.sleep ⟨always, .i32, .unused, .unused, 10, none⟩) base (fun t => t.g.waiting == .sleep false && t.g.pc == 12) ∧
    runs (.sleep ⟨always, .i32, .unused, .unused, 64, none⟩) base (fun t => t.g.waiting == .sleep true && t.waitsLong 0) ∧
    runs (.sleep ⟨always, .i32, .unused, .scal 3, 64, none⟩) (scals base [(3, 2000000)]) (fun t => t.g.waiting == .sleep true && t.waitsLong 0) ∧
    runs (.sleep ⟨always, .i32, .unused, .unused, 0, none⟩) base (fun t => t.g.waiting == .no) :=
  ⟨quiet_base, by decide +kernel⟩

/-- A divergent branch with a free top entry: lanes 0 and 1 are taken. -/
def fork : State := let s := preds base 1 3; s.setG { s.g with stack := [entry false] }
theorem witness_BranchesAndLoops :
    Quiet fork ∧ Quiet (preds base 1 3) ∧ Quiet (preds base 1 0) ∧ Quiet (scals base [(5, 0x40), (6, 0x42), (7, 1)]) ∧
    (fork.g.mask &&& fork.g.guardLanes onP1 ≠ 0 ∧ fork.g.mask &&& fork.g.guardLanes onP1 ≠ fork.g.mask) ∧
    runs (.bra (bf 0x30)) base (fun t => t.g.pc == 0x30) ∧ runs (.bra (bf 0x30 onP1)) (preds base 1 0) (fun t => t.g.pc == 12) ∧
    runs (.bra (bf 0x30 onP1)) (preds base 1 allLanes) (fun t => t.g.pc == 0x30) ∧
    runs (.bra (bf 0x30 onP1)) fork (fun t => t.g.pc == 12 && t.g.mask == allLanes &&& ~~~3 &&
      t.g.stack == [{ entry false with ppc := 0x30, pmask := 3, pend := true }]) ∧
    trapsWith (.bra (bf 0x30 onP1 .unused .unused true)) fork .joinMismatch ∧ trapsWith (.bra (bf 0x30 onP1)) (preds base 1 3) .joinMismatch ∧
    trapsWith (.bra (bf 0x30 onP1)) (fork.setG { fork.g with stack := [entry true] }) .joinMismatch := by
  refine ⟨quiet_of ?_, quiet_of ?_, quiet_of ?_, quiet_of ?_, ?_⟩ <;> decide +kernel
/-- Calls: taken, not taken, split, misaligned; `loop` counts down. -/
theorem test_calls :
    let s := scals base [(5, 0x40), (6, 0x42), (7, 1), (8, 5)]
    let c := fun (g : Guard) (a : Src) => bf 0x24 g (.scal 9) a
    runs (.brx (c always (.scal 5))) s (fun t => t.g.pc == 0x40) ∧ runs (.ret (c always (.scal 5))) s (fun t => t.g.pc == 0x40) ∧
    runs (.callx (c always (.scal 5))) s (fun t => t.g.pc == 0x40 && t.g.sval 9 == 12) ∧
    runs (.call (c always .unused)) s (fun t => t.g.pc == 0x24 && t.g.sval 9 == 12) ∧
    runs (.call (c onP1 .unused)) s (fun t => t.g.pc == 12 && t.g.sval 9 == 0) ∧
    trapsWith (.call (c onP1 .unused)) (preds s 1 3) .joinMismatch ∧ trapsWith (.brx (c always (.scal 6))) s .align ∧
    runs (.loop (bf 0x60 always (.scal 7))) s (fun t => t.g.pc == 12 && t.g.sval 7 == 0) ∧
    runs (.loop (bf 0x60 always (.scal 8))) s (fun t => t.g.pc == 0x60 && t.g.sval 8 == 4) := by decide +kernel

/-- A stack of 16 held entries in an area of 768 bytes at 0x200000. -/
def deep : State := base.setG { base.g with stack := List.replicate 16 (entry false) }
theorem witness_MarkPushes : Quiet base ∧ Quiet deep ∧ deep.g.depth ≠ 65535 ∧ deep.g.stack.length = 16 ∧
    48 * (deep.g.spilled + 1) ≤ deep.g.jlim.toNat ∧ deep.g.jbase.toNat + 48 ≤ Config.hbmBytes ∧
    runs (.mark (bf 0x48)) base (fun t => t.g.pc == 12 && t.g.stack == [{ lpc := 0x48, ppc := 0, smask := allLanes, pmask := 0, pend := false }]) ∧
    runs (.mark (bf 0x48)) deep (fun t => t.g.waiting == .spill && t.g.spilled == 1 && t.hbm.read 0x200000 8 == 0x100) ∧
    trapsWith (.mark (bf 0x48)) (deep.setG { deep.g with jlim := 40 }) .spillLimit ∧
    State.pushOwned { deep with owned := [⟨1, false, none, 0x200000, 0x200080⟩] } = true ∧
    runs (.mark (bf 0x48)) { deep with owned := [⟨1, false, none, 0x200000, 0x200080⟩] } (fun t => t.g.stall == 17 && t.g.pc == 0) ∧
    trapsWith (.mark (bf 0x48)) (base.setG { base.g with spilled := 65535 }) .spillLimit :=
  ⟨quiet_base, quiet_of (by decide +kernel), by decide +kernel⟩

/-- An entry on the stack, with lane 1 exited. -/
def joining (pend : Bool) : State := base.setG { base.g with stack := [entry pend], exited := 2, full := 1, mask := 1 }
theorem witness_JoinsAndExits : Quiet base ∧ Quiet (joining true) ∧ Quiet (joining false) ∧ Quiet (lanes base 1) ∧ GroupsWf base ∧
    (joining false).g.exited ≠ allLanes ∧
    runs (.join vf) (joining true) (fun t => t.g.pc == 0x200 && t.g.mask == 1 && t.g.stack == [{ entry true with pend := false }]) ∧
    runs (.join vf) (joining false) (fun t => t.g.pc == 0x100 && t.g.mask == allLanes &&& ~~~2 && t.g.stack == []) ∧
    trapsWith (.join vf) base .joinMismatch ∧
    runs (.join vf) ((joining false).setG { (joining false).g with spilled := 2 }) (fun t => t.g.waiting == .fill && t.g.pc == 0x100) ∧
    runs (.exit (vf (g := onP1))) (preds base 1 1) (fun t => t.g.exited == 1 && t.g.mask == allLanes &&& ~~~1 && t.g.pc == 12) ∧
    runs (.exit vf) (lanes base 1) (fun t => t.g.mask == 0 && t.g.pc == 12) ∧
    runs (.exit vf) (joining true) (fun t => t.g.pc == 0x200 && t.g.mask == 2 &&& ~~~3) ∧
    runs (.exit vf) (joining false) (fun t => t.g.pc == 0x100 && t.g.mask == allLanes &&& ~~~3) ∧
    runs (.exit vf) base (fun t => t.g.ended && t.g.exited == allLanes) := by
  refine ⟨quiet_base, quiet_of ?_, quiet_of ?_, quiet_of ?_, groups_base, ?_⟩ <;> decide +kernel

/-- Lanes 1 and 2 hold in p1, lane 0 is not in the mask. -/
def voting : State := preds (lanes base (allLanes &&& ~~~1)) 1 6
theorem witness_VotesAndPredicates : Quiet voting ∧ Ready voting always ((vr 4).vecOp false) ∧
    Ready voting always ((Dst.vec 4).vecOp false) ∧
    runs (.elect (vf (.pred 2))) voting (fun t => t.g.pred 2 == 2) ∧ runs (.elect (vf (.scal 5))) voting (fun t => t.g.sval 5 == 1) ∧
    runs (.elect (vf (.scal 5))) (lanes base 0) (fun t => t.g.sval 5 == 0xFFFFFFFFFFFFFFFF) ∧
    runs (.vote (vf (.scal 5) (.special 1 0) (fn := 0))) voting (fun t => t.g.sval 5 == 0) ∧
    runs (.vote (vf (.pred 2) (.special 1 0) (fn := 1))) voting (fun t => t.g.pred 2 == allLanes &&& ~~~1) ∧
    runs (.vote (vf (.scal 5) (.special 1 0) (fn := 2))) voting (fun t => t.g.sval 5 == 0) ∧
    runs (.plog (vf (.pred 3) (.special 1 0) (.special 0 0) (fn := 3))) voting (fun t => t.g.pred 3 == 0) ∧
    runs (.pmovPv (vf (.pred 3) (vr 4))) (vecs voting 4 [(1, 7)]) (fun t => t.g.pred 3 == 2) ∧
    runs (.pmovVp (vf (.vec 4) (.special 1 0) (fn := 1))) voting (fun t => (t.vval 4 false 2).val == 1 && (t.vval 4 false 3).val == 0) ∧
    runs (.pmovPm (vf (.pred 3) (fn := 2))) voting (fun t => t.g.pred 3 == allLanes &&& ~~~1) ∧
    runs (.pmovMp (vf .unused (.special 1 0) (fn := 3))) voting (fun t => t.g.mask == 6) := by
  refine ⟨quiet_of ?_, ready_of ?_, ready_of ?_, ?_⟩ <;> decide +kernel

/-- A team of two groups in handlers, where no checkpoint is taken: the other one, at key 1, waits at the barrier. -/
def twoGroups (arrived : Bool) : State :=
  let s := base.setG { base.g with inHandler := true }
  { s.putGroup 1 { s.g with index := 1, slot := 1, pc := 0x30, waiting := if arrived then .barrier else .no } with
    teams := Store.put 1 { placedTeam with groups := 2, bar := ⟨4, if arrived then 2 else 0, []⟩ } base.teams }
theorem witness_TeamBarrier : Quiet (twoGroups true) ∧ GroupsWf (twoGroups true) ∧ Quiet (twoGroups false) ∧ GroupsWf (twoGroups false) ∧
    ((twoGroups true).g.resident = true ∧ (twoGroups true).g.ended = false ∧ (twoGroups true).g.index < 64) ∧
    runs (.tbar vf) (twoGroups false) (fun t => t.g.waiting == .barrier && t.g.pc == 0 && (t.team 1).bar.arrived == 1) ∧
    runs (.tbar vf) (twoGroups true) (fun t => t.g.waiting == .no && t.g.pc == 12 && (t.group 1).pc == 0x3C && (t.team 1).bar.gen == 5) ∧
    base.g.slotSize = 2688 ∧ trapsWith (.tbar vf) (base.setG { base.g with clim := 0 }) .spillLimit ∧
    State.slotOwned { base with owned := [⟨1, false, none, 0x300000, 0x300080⟩] } 0 [] = true ∧
    runs (.tbar vf) { base with owned := [⟨1, false, none, 0x300000, 0x300080⟩] } (fun t => t.g.stall == 17 && t.g.pc == 0) ∧
    runs (.tbar (vf (g := never))) (twoGroups true) (fun t => t.g.pc == 12 && (t.team 1).bar.gen == 4) := by
  refine ⟨quiet_of ?_, groups_of ?_, quiet_of ?_, groups_of ?_, ?_⟩ <;> decide +kernel

/-! ### Witnesses and steps: integers, floats, lanes -/

/-- One lane, with values in v3, v4 and v5 and in the pairs v6, v8 and v10. -/
def one : State := vecs (vecs (vecs (lanes base 1) 3 [(0, 0x7FFFFFF0)]) 4 [(0, 0xFFFFFFFD)]) 5 [(0, 1000)]
/-- One lane with given words in v3, v4, v5. -/
def abc (a b c : Nat) : State := vecs (vecs (vecs (lanes base 1) 3 [(0, a)]) 4 [(0, b)]) 5 [(0, c)]
/-- The destination v2 of one lane. -/
def gets (i : Instr) (s : State) (v : Nat) (tail : Tail := 0) (wide : Bool := false) : Bool :=
  runs i s fun t => t.g.pc == BitVec.ofNat 64 i.len && t.vval 2 wide 0 == ⟨BitVec.ofNat 64 v, tail⟩
/-- Three vector sources. -/
def v345 (ty : Ty) (fn : BitVec 4 := 0) (m : Option Mods := none) : VForm := vf (.vec 2) (vr 3) (vr 4) (vr 5) ty fn always .set m
def v34 (ty : Ty) (fn : BitVec 4 := 0) (m : Option Mods := none) : VForm := vf (.vec 2) (vr 3) (vr 4) .unused ty fn always .set m
def v3 (ty : Ty) (fn : BitVec 4 := 0) (m : Option Mods := none) : VForm := vf (.vec 2) (vr 3) .unused .unused ty fn always .set m

/-- The hypotheses of the statements on per-lane instructions, narrow and wide, and on the scalar unit. -/
theorem witness_per_lane : Ready one always ((v345 .i32).ops3 .i32) ∧ Ready one always ((v345 .f32).ops3 .f32) ∧
    Ready one always ((vf (.vec 6) (vr 8) (vr 10) (vr 12) .i64).ops3 .i64) ∧
    Ready one always ((vf (.scal 6) (.scal 7) (.scal 8) (.scal 9) .i64).ops3 .i64) := by
  refine ⟨ready_of ?_, ready_of ?_, ready_of ?_, ready_of ?_⟩ <;> decide +kernel
/-- Chapter 05: the worked case of `iadd`, with and without `sat`; a product, its high half, a multiply-add. -/
theorem witness_IntegerArithmetic : Ready one always ((v345 .i32).ops3 .i32) ∧
    gets (.iadd (vf (.vec 2) (vr 3) (.imm 0x20) (m := some { noMods with sat := true }))) one 0x7FFFFFFF ∧
    gets (.iadd (vf (.vec 2) (vr 3) (.imm 0x20))) one 0x80000010 ∧
    gets (.isub (v34 .i32)) (abc 5 7 0) 0xFFFFFFFE ∧ gets (.imul (v34 .i32)) (abc 0x10000 0x10001 0) 0x10000 ∧
    gets (.imulh (v34 .n32)) (abc 0xFFFFFFFF 2 0) 1 ∧ gets (.imulh (v34 .i32)) (abc 0xFFFFFFFF 2 0) 0xFFFFFFFF ∧
    gets (.imin (v34 .i32)) (abc 0xFFFFFFFF 2 0) 0xFFFFFFFF ∧ gets (.imax (v34 .n32)) (abc 0xFFFFFFFF 2 0) 0xFFFFFFFF ∧
    gets (.imad (v345 .i32)) (abc 3 4 5) 17 := ⟨witness_per_lane.1, by decide +kernel⟩
/-- An 8-bit value saturated and clamped (R110): 300 clamps to 100 with s6 = 100. -/
theorem witness_IntegerForm : Ty.isInt .i8 = true ∧
    base.intForm .i8 none 300 = Ty.ofInt .i8 44 ∧ base.intForm .i8 (some { noMods with sat := true }) 300 = Ty.ofInt .i8 127 ∧
    (scals base [(6, 100)]).intForm .i8 (some { noMods with clp := true, chi := 6 }) 300 = Ty.ofInt .i8 100 := by decide +kernel
/-- The borderline cases of R114. -/
theorem witness_Division : Ready one always ((v34 .i32).ops2 .i32) ∧
    gets (.idiv (v34 .i32)) (abc 7 0 0) 0xFFFFFFFF ∧ gets (.irem (v34 .i32)) (abc 7 0 0) 7 ∧
    gets (.idiv (v34 .i32)) (abc 0x80000000 0xFFFFFFFF 0) 0x80000000 ∧ gets (.irem (v34 .i32)) (abc 0x80000000 0xFFFFFFFF 0) 0 ∧
    gets (.idiv (v34 .i32)) (abc 0xFFFFFFF9 2 0) 0xFFFFFFFD ∧ gets (.irem (v34 .i32)) (abc 0xFFFFFFF9 2 0) 0xFFFFFFFF := by
  refine ⟨ready_of ?_, ?_⟩ <;> decide +kernel
/-- R117: `shl.i8` by 9 shifts by 1, `rot.n16` by 20 rotates by 4, `sar` copies the sign. -/
theorem witness_LogicAndShifts : Ready one always ((v34 .i32).ops2 .i32) ∧ Ready one always ((v3 .i32).ops1 .i32) ∧
    gets (.and (v34 .n32)) (abc 12 10 0) 8 ∧ gets (.or (v34 .n32)) (abc 12 10 0) 14 ∧ gets (.xor (v34 .n32)) (abc 12 10 0) 6 ∧
    gets (.not (v3 .i8)) (abc 0x7F 0 0) 0xFFFFFF80 ∧ gets (.shl (v34 .i8)) (abc 0x41 9 0) 0xFFFFFF82 ∧
    gets (.shr (v34 .n32)) (abc 0x80000000 31 0) 1 ∧ gets (.sar (v34 .i32)) (abc 0x80000000 31 0) 0xFFFFFFFF ∧
    gets (.rot (v34 .n16)) (abc 0x1234 20 0) 0x2341 := by
  refine ⟨ready_of ?_, ready_of ?_, ?_⟩ <;> decide +kernel
/-- R118: counts, reversal, fields at the top of the word. -/
theorem witness_BitFields : Ready one always ((v3 .i32).ops1 .i32) ∧ Ready one always ((v345 .i32).ops3 .i32) ∧
    gets (.clz (v3 .n32)) (abc 0 0 0) 32 ∧ gets (.clz (v3 .n32)) (abc 0xFFFF 0 0) 16 ∧ gets (.popc (v3 .n32)) (abc 0xF0F 0 0) 8 ∧
    gets (.brev (v3 .n32)) (abc 1 0 0) 0x80000000 ∧ gets (.bfx (v345 .i32)) (abc 0x80000000 31 5) 0xFFFFFFFF ∧
    gets (.bfx (v345 .n32)) (abc 0x80000000 32 5) 0 ∧ gets (.bfi (v345 .n32)) (abc 0 0xFFFF 0x0410) 0xF0000 := by
  refine ⟨ready_of ?_, ready_of ?_, ?_⟩ <;> decide +kernel
/-- R115, R119 to R123: the worked cases of `icvt` and `dp4`, and an address. -/
theorem witness_ComparesAndMoves : Ready one always ((vr 3).vecOp false ++ (vr 4).vecOp false) ∧
    Ready one always ((Dst.vec 6).vecOp true ++ (vr 8).vecOp true ++ (vr 5).vecOp false) ∧ Ready one always ((Dst.vec 6).vecOp true) ∧
    runs (.icmp (vf (.pred 2) (vr 3) (vr 4) (ty := .i32) (fn := 2))) (abc 0xFFFFFFFF 2 0) (fun t => t.g.pred 2 == 1) ∧
    runs (.icmp (vf (.pred 2) (vr 3) (vr 4) (ty := .n32) (fn := 2))) (abc 0xFFFFFFFF 2 0) (fun t => t.g.pred 2 == 0) ∧
    gets (.icvt (v3 .i8 1)) (abc 300 0 0) 44 ∧ gets (.icvt (v3 .i8 1 (some { noMods with sat := true }))) (abc 300 0 0) 127 ∧
    gets (.dp4 (v345 .i32 1)) (abc 0x027F80FF 0x0301FFFF 1000) 0xFFFF83EE ∧
    runs (.lea (vf (.vec 6) (vr 8) (vr 5) (.imm 3) .i64)) (vecs (vecs one 5 [(0, 0xFFFFFFFF)]) 8 [(0, 0x1000)] true)
      (fun t => (t.vval 6 true 0).val == 0xFF8) ∧
    gets (.mov (v3 .f32)) ((lanes base 1).setLanes 3 false [(0, ⟨0x3F800000, 5⟩)]) 0x3F800000 5 ∧
    gets (.movi ⟨always, .i32, .vec 2, .unused, 0xFFFFFFFFFF, none⟩) one 0xFFFFFFFF ∧
    gets (.isel (vf (.vec 2) (vr 3) (vr 4) (.special 1 0))) (preds (abc 5 7 0) 1 1) 5 ∧
    gets (.isel (vf (.vec 2) (vr 3) (vr 4) (.special 1 0))) (abc 5 7 0) 7 := by
  refine ⟨ready_of ?_, ready_of ?_, ready_of ?_, ?_⟩ <;> decide +kernel
/-- The worked cases of R125 to R127, and an invalid container. -/
theorem witness_ResidueArithmetic : Ready one always ((v345 .rns).ops3 .rns) ∧
    (rnsValid ((abc 0x646464 0xFEFDFC 0).rdSrc .rns (vr 3) 0).val = true ∧ rnsValid ((abc 0x646464 0xFEFDFC 0).rdSrc .rns (vr 4) 0).val = true) ∧
    rnsValid ((abc 0xFF 0 0).rdSrc .rns (vr 3) 0).val = false ∧
    gets (.rnsEnc (v3 .rns 0)) (abc 100 0 0) 0x646464 ∧ gets (.rnsEnc (v3 .rns 0)) (abc 0xFFFFFFFD 0 0) 0xFEFDFC ∧
    gets (.rns (v34 .rns 2)) (abc 0x646464 0xFEFDFC 0) 0xD6D4D2 ∧ gets (.rnsDec (v3 .i32)) (abc 0xFCFBFA 0 0) 0xFFFFFFFB ∧
    trapsWith (.rns (v34 .rns 0)) (abc 0xFF 0 0) .reserved := by
  refine ⟨ready_of ?_, ?_⟩ <;> decide +kernel
/-- A magnitude with a sticky remainder between two points of the grid (R137). -/
theorem witness_RoundToOdd : (3 : Nat) < 5 ∧ ((-5 : Int) ≤ -4 - 1) ∧ (FNum.at ⟨false, 37, -5, true⟩ (-4)).2 = true := by decide
/-- 1 + 2^-8 + 2^-30 formed for bf16 and settled by each mode (R137's worked case): 1 + 2^-7 to nearest, 1 toward zero. -/
theorem witness_FormThenSettle :
    let x : FNum := ⟨false, 2 ^ 30 + 2 ^ 22 + 1, -30, false⟩
    Ty.isFlt .bf16 = true ∧ x.st = false ∧ x.m ≠ 0 ∧ valBits .bf16 (roundTo .bf16 0 x).v = 0x3F810000 ∧
    valBits .bf16 (roundTo .bf16 1 x).v = 0x3F800000 ∧ (formNum .bf16 x).2.1 = 7 := by decide +kernel
/-- A NaN code and a number of each type (R130, R131). -/
theorem witness_FloatEncodings : (decodeMem .f16 0x7E01).isNan = true ∧ (decodeMem .f16 0x3C00).isNan = false ∧
    encodeMem .f16 (decodeMem .f16 0xFE01) = 0x7E00 ∧ encodeMem .f8e4 (decodeMem .f8e4 0x38) = 0x38 := by decide +kernel
/-- Chapter 06: the chained narrowing of R137, `f2i`, `i2f`, `fpack` of the overflow pattern, and instructions on tails and FPC. -/
theorem witness_ConversionsAndTails : Ready one always ((Dst.vec 2).vecOp false ++ (vr 8).vecOp true) ∧ Ready one always ((v34 .n32).ops2 .n32) ∧
    runs (.fcvt (vf (.vec 2) (vr 8) (ty := .f32) (fn := 9))) (vecs one 8 [(0, 0x3FF0100000400000)] true)
      (fun t => t.vval 2 false 0 == ⟨0x3F808000, 3⟩) ∧
    gets (.fcvt (v3 .bf16 8)) (one.setLanes 3 false [(0, ⟨0x3F808000, 3⟩)]) 0x3F800000 7 ∧
    gets (.f2i (v3 .i32 8)) (abc 0xC0200000 0 0) 0xFFFFFFFE ∧ gets (.i2f (v3 .f32 0)) (abc 0xFFFFFFFF 0 0) 0xBF800000 ∧
    gets (.fpack (vf (.vec 2) (vr 3) (vr 4) (.imm 1) .f16)) ((abc 0 0x1234 0).setLanes 3 false [(0, ⟨0x477FE000, 7⟩)]) 0x7C001234 ∧
    gets (.fclass (v3 .f32)) (abc 0x80000000 0 0) 0x20 ∧ gets (.tget (v3 .n32)) (one.setLanes 3 false [(0, ⟨7, 5⟩)]) 5 ∧
    gets (.tset (v34 .n32)) (abc 9 6 0) 9 6 ∧ gets (.funpk (vf (.vec 2) (vr 3) (.imm 1) (ty := .f16))) (abc 0x3C000000 0 0) 0x3F800000 ∧
    runs (.fpcw (vf .unused (vr 3) (fn := 0))) (abc 2 0 0) (fun t => t.g.fpcOf 0 == 2 && t.g.fpcOf 1 == 0) ∧
    trapsWith (.fpcw (vf .unused (vr 3) (fn := 0))) (abc 6 0 0) .reserved := by
  refine ⟨ready_of ?_, ready_of ?_, ?_⟩ <;> decide +kernel
/-- Numbers without a sticky bit, a divisor, and a non-zero value (R159, R163 to R165). -/
theorem witness_ExactAndSpecialValues :
    let a : FNum := ⟨false, 3, 2, false⟩
    let b : FNum := ⟨true, 5, -1, false⟩
    a.st = false ∧ b.st = false ∧ (-1 : Int) ≤ a.e ∧ (-1 : Int) ≤ b.e ∧ a.m ≠ 0 ∧ b.m ≠ 0 ∧ divRes ≤ a.e - b.e ∧ a.isZero = false ∧
      (⟨false, 0, 0, false⟩ : FNum).isZero = true ∧ divRes ≤ a.e ∧ cmpVal (.num b) (.num a) = .lt ∧ (sqrtNum ⟨false, 9, 0, false⟩).scaled (-1100) = 3 * 2 ^ 1100 ∧
      (addNum a b false).scaled (-1) = 19 := by decide +kernel
/-- Chapter 07: the worked case of `fmul`, a division by zero, and a trap when it is enabled. -/
theorem witness_FloatAndSpecialFunctions : Ready one always ((v345 .f32).ops3 .f32) ∧
    gets (.fadd (v34 .f32)) (abc 0x3F800000 0x40000000 0) 0x40400000 ∧ gets (.fsub (v34 .f32)) (abc 0x3F800000 0x3F800000 0) 0 ∧
    gets (.fmul (v34 .f32)) (abc 0x3FC00000 1 0) 1 4 ∧ gets (.fma (v345 .f32)) (abc 0x40000000 0x40400000 0x3F800000) 0x40E00000 ∧
    gets (.fdiv (v34 .f32)) (abc 0x3F800000 0 0) 0x7F800000 ∧ gets (.fsqrt (v3 .f32)) (abc 0x40800000 0 0) 0x40000000 ∧
    gets (.fmin (v34 .f32)) (abc 0x3F800000 0x40000000 0) 0x3F800000 ∧
    trapsWith (.fmul (v34 .f32)) ((abc 0x3FC00000 1 0).setG ((abc 0x3FC00000 1 0).g.setFpc 0 0x800)) .fp ∧
    gets (.frcp (v3 .f32)) (abc 0x40000000 0 0) 0x3F000000 := by
  refine ⟨ready_of ?_, ?_⟩ <;> decide +kernel
/-- Chapter 07: the worked case of `fcmp` and `fcmp.raw`; `rnd` advances DIX. -/
def tailed : State := (abc 0 0x3F800000 0).setLanes 3 false [(0, ⟨0x3F800000, 4⟩)]
theorem witness_FloatComparesAndDraws : Ready tailed always ((vr 3).vecOp false ++ (vr 4).vecOp false) ∧
    Ready tailed always ((v3 .n32).ops1 .n32) ∧ (tailed.cmpLanes (vf (.pred 1) (vr 3) (vr 4) (ty := .bf16))) = [0] ∧
    runs (.fcmp (vf (.pred 1) (vr 3) (vr 4) (ty := .bf16) (fn := 0))) tailed (fun t => t.g.pred 1 == 1) ∧
    runs (.fcmpRaw (vf (.pred 1) (vr 3) (vr 4) (ty := .bf16) (fn := 8))) tailed (fun t => t.g.pred 1 == 0) ∧
    runs (.fcmpRaw (vf (.pred 1) (vr 3) (vr 4) (ty := .bf16) (fn := 12))) tailed (fun t => t.g.pred 1 == 1) ∧
    runs (.rnd (v3 .n32)) tailed (fun t => t.g.dix == 1) := by
  refine ⟨ready_of ?_, ready_of ?_, ?_⟩ <;> decide +kernel

/-- Three lanes: 1.0, 2^-8, 2^-8 (the worked case of chapter 08). -/
def three : State := vecs (lanes base 7) 1 [(0, 0x3F800000), (1, 0x3B800000), (2, 0x3B800000)]
theorem witness_LaneReductions : Ready three always ((vf (.vec 2) (vr 1) (ty := .bf16)).ops1 .bf16) ∧ Ty.isInt .i32 = true ∧
    lanesOf (three.g.execLanes always) = [0, 1, 2] ∧
    runs (.rdc (vf (.vec 2) (vr 1) (ty := .bf16))) three (fun t => [0, 1, 2].all (fun i => t.vval 2 false i == ⟨0x3F810000, 0⟩)
      && t.vval 2 false 3 == ⟨0, 0⟩ && t.g.fpcOf 0 == 0) ∧
    runs (.scan (vf (.vec 2) (vr 1) (ty := .i32))) (vecs (lanes base 7) 1 [(0, 1), (1, 2), (2, 4)])
      (fun t => (List.range 3).map (fun i => (t.vval 2 false i).val.toNat) == [1, 3, 7]) := by
  refine ⟨ready_of ?_, ?_⟩ <;> decide +kernel
/-- The worked cases of R184 and R185: runs of keys, and lanes 2, 5 and 7 packed and spread. -/
def keys : State := scals (vecs (vecs base 0 [(0, 3), (1, 7), (2, 9), (3, 14), (4, 20)]) 1 [(0, 2), (1, 7), (2, 14), (3, 15)]) [(6, 0x405)]
def packing : State := vecs (vecs (lanes base 0xA4) 4 [(2, 42), (5, 45), (7, 47)]) 5 [(0, 42), (1, 45), (2, 47)]
theorem witness_LaneMovement :
    Usable packing ((Dst.vec 6).vecOp false ++ (vr 4).vecOp false) 0 ∧ Ready packing always ((vf (.vec 6) (vr 4)).ops1 .i32) ∧ Quiet keys ∧
    keys.isectCheck (vf (.vec 10) (vr 0) (vr 1) (.scal 6) .n32) ((Dst.vec 10).vecOp false) = .ok () ∧
    runs (.isectM (vf (.vec 10) (vr 0) (vr 1) (.scal 6) .n32)) keys (fun t =>
      [0, 1, 2, 3, 4, 95].map (fun i => (t.vval 10 false i).val.toNat) == [0xFFFFFFFF, 1, 0xFFFFFFFF, 2, 0xFFFFFFFF, 0xFFFFFFFF]) ∧
    runs (.isectAdv (vf (.vec 11) (vr 0) (vr 1) (.scal 6) .n32 1)) keys (fun t => (t.vval 11 false 95).val == 0x404) ∧
    runs (.cmpct (vf (.vec 8) (vr 4))) packing (fun t => (List.range 3).map (fun i => (t.vval 8 false i).val.toNat) == [42, 45, 47]) ∧
    runs (.cmpct (vf (.scal 9) (vr 4))) packing (fun t => t.g.sval 9 == 3) ∧
    runs (.expd (vf (.vec 6) (vr 5))) packing (fun t => [2, 5, 7, 0].map (fun i => (t.vval 6 false i).val.toNat) == [42, 45, 47, 0]) ∧
    runs (.lsort (vf (.vec 6) (vr 4) (fn := 1))) packing (fun t => [2, 5, 7].map (fun i => (t.vval 6 false i).val.toNat) == [47, 45, 42]) := by
  refine ⟨⟨quiet_of ?_, ?_, unit_of ?_⟩, ready_of ?_, quiet_of ?_, unit_of ?_, ?_⟩ <;> decide +kernel
/-- `shfl`, `match` and `ballot` over lanes 2, 5 and 7. -/
theorem test_exchange :
    runs (.shfl (vf (.vec 6) (vr 4) (.imm 5))) packing (fun t => (t.vval 6 false 2).val == 45) ∧
    runs (.shfl (vf (.vec 6) (vr 4) (.imm 5) .unused .i8)) (vecs packing 4 [(5, 0x1FF)]) (fun t => (t.vval 6 false 2).val == 0xFFFFFFFF) ∧
    runs (.shfl (vf (.vec 6) (vr 4) (.imm 96))) packing (fun t => (t.vval 6 false 2).val == 0) ∧
    runs (.matchAny (vf (.vec 6) (vr 4) (ty := .n32))) packing (fun t => [2, 5, 7].map (fun i => (t.vval 6 false i).val.toNat) == [2, 5, 7]) ∧
    runs (.matchAll (vf (.pred 3) (vr 4) (ty := .n32) (fn := 1))) packing (fun t => t.g.pred 3 == 0) ∧
    runs (.ballot (vf (.scal 9) (vr 4) (ty := .n32))) packing (fun t => t.g.sval 9 == 0xA4 && t.g.sval 10 == 0) := by decide +kernel

/-! ### Witnesses and steps: memory -/

/-- Scalar s5 = 0x400 in the page at physical 0x6000, s6 = 7, s7 = 0x401, and lane addresses 0x400 and 0x404 in v4 of two lanes. -/
def mem : State := vecs (scals (lanes base 3) [(5, 0x400), (6, 7), (7, 0x401), (8, 0x1000000000), (9, 0x4000000000)]) 4 [(0, 0x400), (1, 0x404)] true
/-- Accesses that pass their checks. -/
def passes (r : Except Stop (List LaneLoc)) (n : Nat) : Bool := okIs r fun l => l.length == n

/-- Access to HBM, to a stack and to scratchpad. -/
theorem witness_WriteThenRead : (0 : Nat) < 4 ∧ MemoriesWf mem ∧
    (mem.writeLoc 0 false (.hbm 0x6400) 4 0x11223344 0).readHome mem.g (.hbm 0x6400) 4 = 0x11223344 ∧
    (mem.writeLoc 0 false (.hbm 0x6400) 4 0x11223344 0).hbm.byte 0x6403 = 0x11 ∧
    (mem.writeLoc 0 false (.stack 0x100000 4 2) 4 0x11223344 0).hbm.byte 0x100188 = 0x44 := by
  refine ⟨by decide, ?_, by decide +kernel⟩
  unfold MemoriesWf
  decide +kernel
/-- The walk ends at a leaf at a level. -/
def leafIs {ε : Type} (x : Option (Except ε (DWord × Nat))) (p : DWord) (l : Nat) : Bool := match x with | some (.ok q) => q == (p, l) | _ => false
/-- One address for each check, at the ends of the ranges: bits [63:57], alignment, the allocation of 4,096 bytes, SLANE of 1,024, Stratus;
and a leaf that maps the page. -/
theorem witness_AddressesAndTranslation :
    let c := mem.ctxCore mem.g.core mem.g.asid
    (steer c 0x1000000FFC = (.scratch, 0xFFC) ∧ 0xFFC + 4 ≤ mem.t.scratch) ∧ (steer c 0x1000001000 = (.scratch, 0x1000) ∧ mem.t.pair = false) ∧
    (steer c 0x20000003FC = (.stack, 0x3FC) ∧ steer c 0x2000000400 = (.stack, 0x400) ∧ mem.g.slane = 1024) ∧
    steer c 0x4000000000 = (.stratus, 0) ∧ (∃ p l, leafIs (mem.leafOf 0 1 0x400) p l = true ∧ p.getLsbD 1 = true ∧ l = 0) := by
  refine ⟨by decide +kernel, by decide +kernel, by decide +kernel, by decide +kernel, ?_⟩
  exact ⟨0x6107, 0, by decide +kernel, by decide, rfl⟩
/-- The walk of R199 with no cached translation: the leaf, a missing entry at the last level, a malformed one, and a walk-cache entry. -/
def unwalked : State := { mem with l1tlb := [] }
/-- The walk ends in a fault at a level, with a reason. -/
def failsAt {α : Type} (x : Option (Except (Nat × Nat) α)) (l r : Nat) : Bool := match x with | some (.error q) => q == (l, r) | _ => false
theorem test_walk : unwalked.tlbFind 0 1 0x400 = none ∧ unwalked.walkHit 0 1 0x400 1 = none ∧
    leafIs (unwalked.leafOf 0 1 0x400) 0x6107 0 ∧ failsAt (unwalked.leafOf 0 1 0x1000) 0 0 ∧
    failsAt (State.leafOf { unwalked with hbm := unwalked.hbm.write 0x5000 8 0x6503 } 0 1 0x400) 0 1 ∧
    leafIs (State.leafOf { unwalked with walks := [⟨0, 1, 0, 1, 0, 0x7001⟩], hbm := unwalked.hbm.write 0x7000 8 0x9107 } 0 1 0x400) 0x9107 0 := by
  decide +kernel
/-- The codes of R193 to R201 at those addresses. -/
theorem test_address_faults :
    trapsWith (.ld (mf (.scal 10) (.scal 5))) (scals mem [(5, 0x200000000000400)]) .aperture ∧
    trapsWith (.ld (mf (.scal 10) (.scal 7))) mem .align ∧ trapsWith (.ld (mf (.scal 10) (.scal 5))) (scals mem [(5, 0x1000)]) .page ∧
    trapsWith (.st (mf .unused (.scal 9) (.scal 6))) mem .protect ∧ trapsWith (.ld (mf (.scal 10) (.scal 8) .unused .n32 0 0x1000)) mem .protect ∧
    trapsWith (.ld (mf (.scal 10) (.scal 5))) (scals mem [(5, 0x2000000400)]) .spillLimit := by decide +kernel

/-- Checked accesses that wait for nothing, so that the instruction completes. -/
def goes (s : State) (r : Except Stop (List LaneLoc)) (n : Nat) (write : Bool) (paths : List Path) (lanes : Nat) : Bool :=
  okIs r fun ls => ls.length == lanes && (s.lanesWait ls n write).isNone && !s.requestsFull && !s.g.counterFull paths
/-- The page's line is owned by an engine; a Stratus bank is refreshed; the quadrant has 64 requests; a counter is full. -/
def owned (s : State) : State := { s with owned := [⟨1, false, none, 0x6400, 0x6480⟩] }
def refreshing (s : State) : State := { s with refresh := [0] }
def manyLoads (s : State) : State := s.setG { s.g with loads := List.replicate 64 (mkLoad .none (some .ldg) [] none {} []) }
def fullCounters (s : State) : State := s.setG { s.g with inflight := ⟨1023, 1023, 1023, 1023, 1023, 1023⟩ }
/-- The instruction waits with a reason and stays where it is. -/
def waits (i : Instr) (s : State) (reason : Nat) : Bool := runs i s fun t => t.g.stall == BitVec.ofNat 5 reason && t.g.pc == s.g.pc

/-- A load of two lanes, a spill image and a translation; the data return to the destination, held back by nothing; the four waits. -/
def ldF : MForm := mf (.vec 2) (vr 4)
def lateAck : State := { mem with groups := Store.put 0 { mem.g with acks := [{ paths := [.stg], reqs := [], asid := 1, home := true }], inflight := ⟨0, 1, 0, 0, 0, 0⟩ } mem.groups }
theorem witness_LoadsAndCompletion : Quiet mem ∧ Readable mem (mem.g.execLanes always) ((Dst.vec 2).vecOp false ++ (vr 4).vecOp true) ∧
    goes mem (mem.memCheck ldF { acc := 0, size := 4, user := true, record := true } (mem.perLane ldF false true) noExtra) 4 false [.ldg] 2 ∧
    goes mem (mem.memCheck (mf (.scal 10) (.scal 5)) { acc := 4, size := 16, user := true } (mem.perLane (mf (.scal 10) (.scal 5)) false false) noExtra)
      16 false [.spl] 1 ∧
    Unwatched mem 0 ∧ mem.g.ended = false ∧ (mem.xlpValue 0 true 0x400).isSome = true ∧ mem.l1Hit mem.g 0x6400 = false ∧
    runs (.ld ldF) { mem with hbm := mem.hbm.write 0x6400 8 0x55667788_11223344 } (fun t => t.g.pc == 12 && t.g.loads.length == 1 &&
      t.g.inflight.ldg == 1 && t.count (ctrL1 0 1) == 1 && runs (.loadDataReturn 0) t fun u => u.g.inflight.ldg == 0 && u.vval 2 false 1 == ⟨0x55667788, 0⟩
        && u.vval 2 false 2 == ⟨0, 0⟩) ∧
    waits (.ld ldF) (owned mem) 17 ∧ waits (.ld ldF) (manyLoads mem) 17 ∧ waits (.ld ldF) (fullCounters mem) 15 ∧
    waits (.ld (mf (.scal 10) (.scal 9))) (refreshing mem) 16 ∧
    runs (.xlp (mf (.scal 10) (.scal 5))) mem (fun t => runs (.loadDataReturn 0) t fun u => u.g.loads.isEmpty) ∧
    (∃ a, lateAck.g.acks = [a] ∧ lateAck.ackFree 0 a = true) ∧ runs (.writeAcknowledge 0) lateAck (fun t => t.g.acks.isEmpty && t.g.inflight.stg == 0) := by
  refine ⟨quiet_of ?_, readable_of ?_, ?_, ?_, (quiet_of (s := mem) ?_).1, ?_, ?_, ?_, ?_, ?_, ?_, ?_, ?_, ?_, ⟨_, rfl, ?_⟩, ?_⟩
  all_goals decide +kernel
/-- Data whose byte the last check found bad leaves its loss at the destination (R207); the consumer faults. -/
theorem test_lost_load : runs (.ld ldF) { mem with poison := [.hbm 0x6400] } (fun t => runs (.loadDataReturn 0) t fun u =>
    u.g.lost.any (fun l => l.code == .dataLost && l.faddr == 0x400) && (u.lossOf (.mov (vf (.vec 6) (vr 2)))).isSome) := by decide +kernel

/-- Stores of two lanes: bytes of both, and their acknowledgement; a stochastic one draws. -/
def stF : MForm := mf .unused (vr 4) (vr 6)
theorem witness_StoresAndData : Quiet mem ∧ Readable mem (mem.g.execLanes always) ((vr 4).vecOp true ++ (vr 6).vecOp false) ∧
    goes mem (mem.memCheck stF { acc := 1, size := 4, write := true, user := true, record := true } (mem.perLane stF true false) (mem.storeExtra stF))
      4 true [.stg] 2 ∧ NoShare (.hbm 0x6400) (.hbm 0x6404) 4 ∧ InWords 0x100 4 ∧
    runs (.st stF) (vecs mem 6 [(0, 0x11223344), (1, 0x55667788)]) (fun t => t.hbm.read 0x6400 8 == 0x55667788_11223344 && t.g.inflight.stg == 1 &&
      t.hbm.byte 0x6408 == 0 && runs (.writeAcknowledge 0) t fun u => u.g.inflight.stg == 0 && u.g.acks.isEmpty) ∧
    runs (.st { stF with ty := .bf16 }) (mem.setLanes 6 false [(0, ⟨0x3F800000, 7⟩)]) (fun t => t.hbm.read 0x6400 2 == 0x3F81) ∧
    runs (.st { stF with ty := .bf16, m := some { noMods with rmo := 6 } }) mem (fun t => t.g.dix == 1) ∧
    waits (.st stF) (owned mem) 17 ∧ waits (.st stF) (fullCounters mem) 15 ∧
    runs (.spst (mf .unused (.scal 5) (.scal 6))) mem (fun t => t.hbm.read 0x6400 8 == 7 && t.g.inflight.spl == 1) := by
  refine ⟨quiet_of ?_, readable_of ?_, ?_, ⟨?_, trivial⟩, ?_⟩
  · decide +kernel
  · decide +kernel
  · decide +kernel
  · intro j k a hj hk h1 h2
    simp only [Loc.hbmByte, Option.some.injEq] at h1 h2
    omega
  · unfold InWords
    decide +kernel

/-- The page with AP = device in its leaf, as an atomic access needs, cached so. -/
def atomics : State := { mem with l1tlb := [⟨0, 1, 0, 12, 0, 0x6147, 0⟩] }
def atF : MForm := mf (.scal 10) (.scal 5) (.scal 6)
/-- Two lanes add 7 to one word: each sees the lower lanes' results. -/
def atV : MForm := mf (.vec 2) (.scal 5) (vr 6)
theorem witness_AtomicAccesses : Quiet atomics ∧ (Instr.atom atF).wf = true ∧ (Instr.atom atV).wf = true ∧ (Instr.red (mf .unused (.scal 5) (.scal 6))).wf = true ∧
    goes atomics (atomics.memCheck atF (atomics.atomAccess atF true) (atomics.perLane atF false false) (atomics.atomExtra atF true)) 4 true [.ldg] 1 ∧
    goes atomics (atomics.memCheck atV (atomics.atomAccess atV true) (atomics.perLane atV true true) (atomics.atomExtra atV true)) 4 true [.ldg] 2 ∧
    Ty.isInt .n32 = true ∧ HostUp atomics (.hbm 0x6400) 4 ∧
    runs (.atom atF) { atomics with hbm := atomics.hbm.write 0x6400 4 5 } (fun t => t.hbm.read 0x6400 4 == 12 &&
      runs (.loadDataReturn 0) t fun u => u.g.sval 10 == 5) ∧
    runs (.atom atV) (vecs { atomics with hbm := atomics.hbm.write 0x6400 4 5 } 6 [(0, 7), (1, 70)]) (fun t => t.hbm.read 0x6400 4 == 82 &&
      runs (.loadDataReturn 0) t fun u => u.vval 2 false 0 == ⟨5, 0⟩ && u.vval 2 false 1 == ⟨12, 0⟩) ∧
    runs (.red (mf .unused (.scal 5) (.scal 6) .n32 6)) atomics (fun t => t.hbm.read 0x6400 4 == 7) ∧
    waits (.atom atF) (owned atomics) 17 ∧ trapsWith (.atom atF) mem .atomicPath := by
  refine ⟨quiet_of (by decide +kernel), by decide +kernel, by decide +kernel, by decide +kernel, by decide +kernel, by decide +kernel,
    by decide +kernel, ?_, by decide +kernel⟩
  intro pa k h
  simp at h

/-- A fence with nothing outstanding, and one with a load. -/
def loading : State := mem.setG { mem.g with loads := [mkLoad .none (some .ldg) [] none {} []] }
theorem witness_CachesAndFences : Quiet mem ∧ Readable mem (mem.g.execLanes always) ((vr 4).vecOp true) ∧ mem.g.groupExec always = true ∧
    loading.g.loads ≠ [] ∧ waits (.fence (mf .unused .unused .unused .i32 0 0 .acquire)) loading 9 ∧
    runs (.fence (mf .unused .unused .unused .i32 0 0 .acqrel)) mem (fun t => t.g.pc == 12 && t.g.l1Floor == 1) ∧
    runs (.prf (mf .unused (.scal 5))) mem (fun t => t.g.pc == 12) ∧ runs (.cinvAll (mf (ty := .i32) (fn := 1))) mem (fun t => t.l1.isEmpty) ∧
    runs (.cinvLine (mf .unused (.scal 5))) mem (fun t => t.g.pc == 12) := by
  refine ⟨quiet_of ?_, readable_of ?_, ?_⟩ <;> decide +kernel

/-- Translation control in supervisor mode: a range and a generation, with their completion, which waits for an access that used an entry. -/
def ranged : State := scals sup [(5, 1), (6, 0), (7, 4096)]
def tlbiF : VForm := vf .unused (.scal 5) (.scal 6) (.scal 7)
theorem witness_TranslationInvalidation : Quiet sup ∧ Quiet base ∧ base.g.mode = false ∧ sup.g.mode = true ∧ sup.g.groupExec always = true ∧
    sup.g.counterFull [.stg] = false ∧ (sup.tlbis.filter fun c => c.die == sup.g.core / 64).length < 64 ∧
    trapsWith (.tlbiRange vf) base .privilege ∧ trapsWith (.ggen (vf (.scal 9) (.scal 5))) (scals sup [(5, 0x10000)]) .reserved ∧
    waits (.tlbiRange tlbiF) (fullCounters ranged) 15 ∧
    runs (.tlbiRange tlbiF) ranged (fun t =>
      t.tlbis.length == 1 && t.g.inflight.stg == 1 && runs (.tlbiComplete 0) t fun u => u.tlbis.isEmpty && u.g.inflight.stg == 0 && u.l1tlb.isEmpty) ∧
    runs (.ld (mf (.scal 10) (.scal 9))) (scals ranged [(9, 0x400)]) (fun t => runs (.tlbiRange tlbiF) t fun u => runs (.tlbiComplete 0) u fun v =>
      v.tlbis.length == 1 && v.l1tlb.isEmpty && v.g.inflight.stg == 1 && runs (.loadDataReturn 0) v fun x => runs (.tlbiComplete 0) x fun y =>
        y.tlbis.isEmpty && y.g.inflight.stg == 0) ∧
    runs (.ggen (vf (.scal 9) (.scal 5))) (scals sup [(5, 1)]) (fun t => t.g.waiting == .ggen &&
      runs (.ggenComplete 0) t fun u => u.g.sval 9 == 1 && (u.ctx 1).gen == 1) ∧
    leafIs (base.walkAt 0x400 5 0x1000) 0x6107 0 ∧
    runs (.translationWalk 1 0x400) base (fun t => t.tlb.length == 4 && t.tlb.contains ⟨3, 1, 0, 12, 0, 0x6107, 0⟩) := by
  refine ⟨quiet_of ?_, quiet_base, ?_⟩ <;> decide +kernel

/-- A signal: the payload of two lanes, and the flag at 0x500 with the amount 9; and the flag over lane 1's payload. -/
def signals : State := vecs (scals atomics [(10, 0x500), (11, 9), (12, 0x404), (13, 9)]) 6 [(0, 1), (1, 2)]
def sigF (d : Nat) : MForm := mf (.scal (Fin.ofNat 64 d)) (vr 4) (vr 6) .n32 1 0 .release
theorem witness_SignalStores : Quiet signals ∧ signals.g.groupExec always = true ∧ signals.det = false ∧
    Readable signals (signals.g.execLanes always) ((vr 4).vecOp true ++ (vr 6).vecOp false) ∧
    goes signals (signals.memCheck (sigF 10) { acc := 1, size := 4, write := true, user := true } true noExtra) 4 true [.stg] 2 ∧
    goes signals (signals.checkLanes signals.g { acc := 2, size := 4, write := true, atomic := true, user := true } true (firstLane 3) (some 3) noExtra [(96, 0x500)])
      4 true [.stg] 1 ∧
    runs (.stsig (sigF 10)) signals (fun t => t.hbm.read 0x6400 8 == 0x2_00000001 && t.hbm.read 0x6500 4 == 9 && t.g.inflight.stg == 1) ∧
    runs (.stsig (sigF 12)) signals (fun t => t.hbm.read 0x6400 8 == 0xB_00000001) ∧ waits (.stsig (sigF 10)) (owned signals) 17 := by
  refine ⟨quiet_of ?_, ?_, ?_, readable_of ?_, ?_⟩ <;> decide +kernel
/-! ### Witnesses and steps: barriers, copies, the matrix engine -/

/-- The answer of an event or an instruction, followed. -/
def next (i : Instr) (s : State) : State := match exec i s with | .next t => t | _ => s

/-- s5 names scratchpad byte 0x100, s6 the counts (2 arrivals), s7 parity 0. -/
def bars : State := scals base [(5, 0x1000000100), (6, 2), (7, 0)]
/-- The record armed with two arrivals expected, and with one arrival left. -/
def armedBar : State := next (.abInit (vf .unused (.scal 5) (.scal 6) (.imm 0))) bars
def oneLeft : State := next (.abArrive (vf (.scal 9) (.scal 5) (.imm 1))) armedBar
/-- Another group, at key 1, waits at the record. -/
def waiter : State := oneLeft.putGroup 1 { oneLeft.g with index := 1, slot := 1, waiting := .abar 0 0x100, stall := 11 }
def abF : VForm := vf (.scal 9) (.scal 5) (.imm 1)
theorem witness_Barriers :
    (Quiet bars ∧ okIs (bars.scratchRec abF 32 0x1000000100) (· == (0, 0x100)) ∧ bars.barOwned (0, 0x100) = false ∧ bars.armedAt 0 0x100 = none ∧
      bars.clobbers (.scratch 0 0x100) 32 = false) ∧
    (Quiet armedBar ∧ (armedBar.armedAt 0 0x100).isSome = true ∧ okIs (armedBar.barOperand abF 0x1000000100) (· == (0, 0x100)) ∧
      armedBar.g.waiting = .no ∧ armedBar.g.barDone = none ∧ armedBar.readBar 0 0x100 = ⟨true, false, 2, 2, false, false, 0, 0, 0, 1, 0⟩) ∧
    (Quiet waiter ∧ GroupsWf waiter ∧ (waiter.readBar 0 0x100).pending = 1) := by
  refine ⟨⟨quiet_of ?_, ?_⟩, ⟨quiet_of ?_, ?_⟩, quiet_of ?_, groups_of ?_, ?_⟩ <;> decide +kernel
/-- R265 to R269: the last arrival starts the next phase and frees the waiter; a wait for the current phase waits; a disarmed record answers 0;
other counts over an armed record fault. -/
theorem test_barriers :
    runs (.abArrive abF) waiter (fun t => (t.readBar 0 0x100).phase && (t.readBar 0 0x100).gen == 1 && (t.readBar 0 0x100).pending == 2 &&
      (t.group 1).waiting == .no && (t.group 1).barDone == some ⟨24, true, .team⟩) ∧
    runs (.abWait (vf (.scal 9) (.scal 5) (.scal 7))) armedBar (fun t => t.g.waiting == .abar 0 0x100 && t.g.pc == 12) ∧
    runs (.abTry (vf (.scal 9) (.scal 5) (.imm 1))) armedBar (fun t => t.g.sval 9 == 1) ∧
    runs (.abTry (vf (.pred 3) (.scal 5) (.imm 0))) armedBar (fun t => t.g.pred 3 == 0) ∧
    runs (.abTry (vf (.scal 9) (.scal 5) (.imm 0))) bars (fun t => t.g.sval 9 == 0) ∧
    runs (.abInval (vf .unused (.scal 5))) armedBar (fun t => (t.armedAt 0 0x100).isNone && !(t.readBar 0 0x100).arm) ∧
    waits (.abArrive abF) { armedBar with owned := [⟨1, false, some 0, 0x100, 0x120⟩] } 17 ∧
    trapsWith (.abInit (vf .unused (.scal 5) (.imm 3) (.imm 0))) armedBar .barrierClobber := by decide +kernel

/-- `wait.path` with nothing outstanding and with a copy, `pcnt`, `stw` of a Stratus address; a waiting group. -/
def copying : State := base.setG { base.g with inflight := base.g.inflight.raise [.copy] }
theorem witness_WaitsOnPathsAndEvents : Quiet base ∧ Quiet copying ∧ base.g.groupExec always = true ∧ base.g.lost = [] ∧ base.t.mxLost = false ∧
    min (copying.n32 (.imm 0)) 1023 < copying.g.inflight.get (pathOf 2) ∧ (waiter.group 1).waiting = .abar 0 0x100 ∧
    runs (.waitPath (vf .unused (.imm 2) (.imm 0))) base (fun t => t.g.pc == 12 && t.g.l1Floor == 1) ∧
    runs (.waitPath (vf .unused (.imm 2) (.imm 0))) copying (fun t => t.g.pc == 0 && t.g.stall == 9) ∧
    runs (.pcnt (vf (.scal 9) (.imm 2))) copying (fun t => t.g.sval 9 == 1) ∧
    runs (.stw (vf (.scal 9) (.scal 5))) (scals base [(5, 0x4080000000)]) (fun t => t.g.sval 9 == 0xFFFFFFFFFFFFFFFF) ∧
    runs (.abWaitRecord 1) waiter (fun t => (t.jetOf 0).length == (waiter.jetOf 0).length + 1 && runs (.abWaitRecord 1) t fun u => (u.jetOf 0).length == (t.jetOf 0).length) ∧
    runs (.stratusRefreshWindow 0 3 true) (refreshing base) (fun t => t.refresh == [3]) := by
  refine ⟨quiet_base, quiet_of ?_, ?_⟩ <;> decide +kernel

/-- A layout record of a bf16 tensor of 2 rows of 4 elements at a virtual address, in scratchpad at byte 0; s5 names the tile at 0x80. -/
def layoutRec (base : Nat) : Nat :=
  base + 2 ^ 64 * (8 + 2 ^ 48 * 2) + 2 ^ 320 * (4 + 2 ^ 32 * 2) + 2 ^ 448 * (2 ^ 32 * (0xB + 2 ^ 6 * 2 + 2 ^ 17 * 4))
def tilesAt (base : Nat) : State :=
  let s := scals Tests.base [(4, 0x1000000000), (5, 0x1000000080), (6, 0x1000000200), (12, 0x1000000800), (13, 0)]
  { s.writeScratch 0 0 64 (layoutRec base) 0 with hbm := s.hbm.write 0x6400 16 0x40A0_4080_3F81_3F80, ctxs := Store.put 1 { placedCtx with pool := [9] } s.ctxs }
def tiles : State := tilesAt 0x400
def tcF : VForm := vf .unused (.scal 4) (.scal 8) (.scal 0)
/-- The layout as the instruction reads it. -/
def tileLay : Except Stop Layout := tiles.layoutAt tcF (.scratch 0 0) false
/-- The command queued, accepted and done. -/
def queued : State := next (.tcLd tcF) tiles
def copied : State := next (.tcComplete 0) (next (.tcAccept 0) queued)
theorem witness_Tiles : okIs tileLay (fun l => 0 < l.rows && 3 < l.pitch && l.tileBytes ≤ 2 ^ 19) ∧
    okIs (tiles.tileAt tcF 0x1000000080 256) (· == (0, 0x80)) ∧
    queued.copies.any (fun c => !c.store && c.tbyte % 128 == 0 && c.tbyte + c.lay.tileBytes ≤ 2 ^ 19 && (queued.tcRun c).2.isNone) = true := by decide +kernel
/-- The CX containers of 1, 1 + 2^-7, 4 and 5 (R249 and its worked case). -/
theorem test_tile_load : (List.range 4).map (fun j => (copied.sword 0 (0x80 + 4 * j)).val.toNat) = [0xFF800, 0xFF810, 0x100800, 0x100A00] := by
  decide +kernel
/-- A ring record at byte 0x200 whose two slots lie at byte 0x800: one tile; the ring begun, and its tile moved. -/
def ringRec : Nat := 0x1000000000 + 2 ^ 64 * (0x800 + 2 ^ 32 * 2 + 2 ^ 48 * 2 + 2 ^ 55) + 2 ^ 128 * (2 + 2 ^ 32)
def ringF : VForm := vf .unused (.scal 6) (.scal 8) (.scal 0)
def ringed : State := next (.tcRingFill ringF) (tiles.writeScratch 0 0x200 64 ringRec 0)
/-- The ring with no tile in flight: its only slot is held back. -/
def idleRing : State := { ringed with rings := ringed.rings.map fun r => { r with tile := 0 }, owned := [] }
/-- The tile at an unmapped page: the command stopped, its page found for it, and the other way it ends. -/
def faulty : State := next (.tcReplayableFault 0) (next (.tcAccept 0) (next (.tcLd tcF) (tilesAt 0x2400)))
def poolless (s : State) : State := { s with ctxs := Store.put 1 placedCtx s.ctxs }
/-- A free engine, a command that waits to be accepted, one that is done, rings, and a ring record that names no ring. -/
theorem witness_CopiesAndRings : Quiet tiles ∧ tiles.g.groupExec always = true ∧
    okIs (tiles.layoutLoc tcF 0x1000000000) (· == .scratch 0 0) ∧ tiles.isOwned (.scratch 0 0) 64 false = false ∧
    okIs (tiles.recordLost tcF 64 0x1000000000 (.scratch 0 0)) (fun _ => true) ∧
    okIs (tiles.cmdBar tcF) (· == none) ∧ (tiles.copies.filter fun c => c.core == tiles.g.core).length < Config.copyQueue ∧
    tiles.g.counterFull [.copy] = false ∧ (queued.group 0).waiting = .accept ∧ GroupsWf queued ∧
    (match (next (.tcAccept 0) queued).nextCopy 0 with | some (_, .done _) => true | _ => false) = true ∧
    queued.g.inflight.copy = 1 ∧ queued.g.pc = 12 ∧ (next (.tcAccept 0) queued).g.waiting = .no ∧ copied.copies = [] ∧ copied.g.inflight.copy = 0 ∧
    waits (.tcLd tcF) (fullCounters tiles) 15 ∧
    waits (.tcLd tcF) { tiles with owned := [⟨1, false, some 0, 0, 64⟩] } 17 ∧
    runs (.tcStop (vf .unused (.scal 5))) (scals base [(5, 0x1000000100)]) (fun t => t.g.pc == 12) ∧
    runs (.slTake (vf (.scal 9) (.scal 5) (.imm 0))) (scals base [(5, 0x1000000100)]) (fun t => t.g.pc == 12 && t.g.sval 9 == 0) ∧
    runs (.slGive (vf .unused (.scal 5) (.imm 0))) (scals base [(5, 0x1000000100)]) (fun t => t.ringGiven (0, 0x100) == 1) := by
  refine ⟨quiet_of ?_, ?_, ?_, ?_, ?_, ?_, ?_, ?_, ?_, groups_of ?_, ?_⟩ <;> decide +kernel
/-- R257 to R260: the ring owns its slot, moves its tile, ends with it; a slot not yet filled waits, one filled is named; `tc.stop` ends it. -/
theorem witness_Rings : ringed.rings.length = 1 ∧ ringed.g.inflight.copy = 1 ∧ ringed.ringNum 0 0x200 = ringed.rings.head? ∧
    ringed.rings.all (fun r => ringed.ringReady r && (ringed.ringCmd r).isSome && r.cmd.stopped.isNone && r.rbyte % 64 == 0) = true ∧
    ringed.isOwned (.scratch 0 0x800) 4 false = true ∧
    waits (.slTake (vf (.scal 9) (.scal 6) (.imm 0))) ringed 11 ∧
    runs (.ringTile 0 0x200) ringed (fun t => t.ringDone (0, 0x200) == 1 && t.rings.isEmpty && t.g.inflight.copy == 0 && (t.ringWord (0, 0x200) 4) == 0 &&
      (t.sword 0 0x804).val == 0xFF810 && runs (.slTake (vf (.scal 9) (.scal 6) (.imm 0))) t fun u => u.g.sval 9 == 0x1000000800) ∧
    runs (.tcStop (vf .unused (.scal 6))) ringed (fun t => t.rings.length == 1 && t.rings.all (fun r => r.stopping) &&
      runs (.ringTile 0 0x200) t fun u => u.rings.isEmpty && u.ringDone (0, 0x200) == 1 && (u.ringWord (0, 0x200) 4) == 4 && u.g.inflight.copy == 0) ∧
    (match idleRing.ringAt (0, 0x200) with | some y => y.tile == 0 && !idleRing.isOwned (.scratch 0 0x200) 64 true | none => false) = true ∧
    runs (.tcStop (vf .unused (.scal 6))) idleRing (fun t => t.rings.isEmpty && (t.ringWord (0, 0x200) 4) == 4 && t.g.inflight.copy == 0) ∧
    trapsWith (.tcRingFill ringF) ringed .barrierClobber := by decide +kernel
/-- R206, R256: a fault stops the command and its group; it is replayed when a page can be found and abandoned else. -/
theorem witness_CopyFaults : faulty.g.parked = true ∧ faulty.copies.all (fun c => c.stopped.isSome) = true ∧ faulty.copies.length = 1 ∧
    runs (.tcReplay 0) faulty (fun t => !t.g.parked && t.hbm.read 0x5010 8 == 0x9183 && runs (.tcComplete 0) t fun u => u.copies.isEmpty && u.g.inflight.copy == 0) ∧
    runs (.tcAbandon 0) (poolless faulty) (fun t => t.copies.isEmpty && t.g.asyncTraps.length == 1 && !t.g.parked && t.g.inflight.copy == 0) := by
  decide +kernel

/-- The group in a pair team; the engine taken; an operation queued. -/
def pairTeam : State := { base with teams := Store.put 1 { placedTeam with pair := true } base.teams }
def holding : State := next (.mxAcq (vf (.pred 3))) pairTeam
def zeroing : State := next (.mxZero (vf (.special 2))) holding
theorem witness_MatrixUse : Quiet pairTeam ∧ Quiet holding ∧ pairTeam.g.groupExec always = true ∧ (pairTeam.t.pair = true ∧ pairTeam.g.core = pairTeam.t.core) ∧
    (pairTeam.mxPair 0).reset = false ∧ (pairTeam.mxPair 0).holder = none ∧ (holding.mxPair 0).holder = some 1 ∧ (holding.mxPair 0).ops = [] ∧
    holding.t.mxHolds = true ∧ holding.t.mxLost = false ∧ (holding.mxPair 0).queued < Config.matrixQueue ∧ holding.g.counterFull [.mtx] = false ∧
    holding.g.pred 3 = allLanes ∧ zeroing.g.inflight.mtx = 1 ∧ (zeroing.mxPair 0).ops.length = 1 ∧
    trapsWith (.mxAcq (vf (.pred 3))) base .matrixOwner ∧ trapsWith (.mxZero (vf (.special 2))) base .matrixOwner ∧
    runs (.mxRel vf) holding (fun t => (t.mxPair 0).holder.isNone && !t.t.mxHolds) ∧ runs (.mxRel vf) zeroing (fun t => t.g.stall == 13) ∧
    runs (.mxQ (vf (.scal 9))) zeroing (fun t => t.g.sval 9 == 0x10103) := by
  refine ⟨quiet_of ?_, quiet_of ?_, ?_⟩ <;> decide +kernel
/-- The operation begins, and then retires; a word of another tile stays. -/
def begun : State := next (.mxOpBegin 0) { zeroing with accum := [] }
theorem witness_MatrixWork : GroupsWf zeroing ∧
    (match (zeroing.mxPair 0).ops with | [o] => !o.begun && o.work == .zero && o.tile == 2 && !zeroing.mxHeld o false | _ => false) = true ∧
    (match (begun.mxPair 0).ops with | [o] => o.begun && !begun.mxHeld o true | _ => false) = true ∧
    runs (.mxOpRetire 0) begun (fun t => (t.mxPair 0).ops.isEmpty && t.g.inflight.mtx == 0) ∧
    runs (.matrixWatchdog 0) zeroing (fun t => (t.mxPair 0).reset && t.t.mxLost && (t.mxPair 0).ops.isEmpty && runs (.matrixResetEnd 0) t fun u => !(u.mxPair 0).reset) := by
  refine ⟨groups_of ?_, ?_⟩ <;> decide +kernel
/-- Images: a load and a store of tile 2 by a team with the whole scratchpad, queued and begun; what the engine reads of an owned region waits. -/
def imageTeam : State :=
  scals { holding with teams := Store.put 1 { placedTeam with pair := true, scratch := 0x40000, mxHolds := true } holding.teams }
    [(5, 0x1000000000), (6, 0), (12, 0), (13, 0), (14, 0), (15, 0)]
def imageLoad : State := next (.mxLd (vf (.special 2) (.scal 5) (.scal 6))) imageTeam
def imageStore : State := next (.mxSt (vf .unused (.scal 5) (.special 2 0) (.scal 12))) imageTeam
theorem witness_MatrixImages : Quiet imageTeam ∧ (imageTeam.t.pair = true ∧ imageTeam.t.mxHolds = true ∧ imageTeam.t.mxLost = false) ∧
    okIs (imageTeam.pairRegion (vf (.special 2) (.scal 5) (.scal 6)) (imgHalf false) 0x1000000000) (· == 0) ∧
    (match ((next (.mxOpBegin 0) imageLoad).mxPair 0).ops with | [o] => o.begun && o.work == .load false && o.tile == 2 | _ => false) = true ∧
    (match ((next (.mxOpBegin 0) imageStore).mxPair 0).ops with
      | [o] => o.begun && o.work == .store false false false false && !(next (.mxOpBegin 0) imageStore).mxHeld o true | _ => false) = true ∧
    waits (.mxLd (vf (.special 2) (.scal 5) (.scal 6))) (fullCounters imageTeam) 15 ∧
    imageLoad.isOwned (.scratch 0 0) 4 true = true ∧ imageStore.isOwned (.scratch 1 0) 4 false = true ∧
    runs (.mxOpBegin 0) { imageLoad with owned := ⟨0, false, some 0, 0, 128⟩ :: imageLoad.owned } (fun t => (t.mxPair 0).ops.any fun o => !o.begun) := by
  refine ⟨quiet_of ?_, ?_⟩ <;> decide +kernel
/-! ### Witnesses and steps: tasks, collectives, the fabric -/

/-- A region head without named registers: the slot of 2,688 bytes fits exactly. -/
theorem witness_RegionHeads : Quiet base ∧ (∀ r ∈ rgnRanges vf, r.2 = 0 ∨ r.1 + r.2 ≤ base.g.vCount) ∧ base.g.stack.length ≤ 16 ∧
    base.g.inHandler = false ∧ base.g.pendCk = none ∧ 2688 + 768 * (rangeRegs (rgnRanges vf)).length ≤ base.g.slotSize ∧
    base.g.slotBase (base.nextSlot base.g) + 2688 ≤ Config.hbmBytes ∧
    runs (.rgn vf) base (fun t => t.g.pc == 12 && t.g.ckSeq == 1 && t.g.pendCk == some 0) ∧
    trapsWith (.rgn vf) (base.setG { base.g with clim := 0 }) .spillLimit ∧
    base.slotOwned base.cur (rgnRanges vf) = false ∧ waits (.rgn vf) { base with owned := [⟨1, false, none, 0x300000, 0x300080⟩] } 17 ∧
    waits (.rgn vf) (base.setG { base.g with pendCk := some 0 }) 20 :=
  ⟨quiet_base, by decide +kernel⟩

/-- A task control block at 0x400 with PRED 1 and PRIO 3; a child that it registers; a count of 0. -/
def tcb (pred : Nat) : State := { scals base [(5, 0x400)] with hbm := base.hbm.write 0x6400 8 (pred + 3 * 65536) }
def child : State := next (.launch (vf .unused (.scal 5))) (tcb 1)
def tF : VForm := vf .unused (.scal 5)
theorem witness_ChildrenAndWaits : Quiet (tcb 1) ∧ Quiet child ∧ (tcb 1).g.groupExec always = true ∧
    okIs ((tcb 1).tcbLoc tF 0x400) (fun l => (tcb 1).isOwned l 128 true == false && (tcb 1).homeValue l 128 == 1 + 3 * 65536 &&
      okIs ((tcb 1).recordLost tF 128 0x400 l) fun _ => true) ∧
    (tcb 1).readyRoom ≠ 0 ∧ ((tcb 1).taskOf (tcb 1).t).depth < 10 ∧
    child.g.pc = 12 ∧ child.t.children = [taskKey 1 0x400] ∧ (child.task (taskKey 1 0x400)).state = 0 ∧
    runs (.launch tF) (tcb 0) (fun t => (t.task (taskKey 1 0x400)).state == 1 && t.ready.contains (3, taskKey 1 0x400)) ∧
    runs (.tcbd tF) child (fun t => (t.task (taskKey 1 0x400)).state == 1) ∧
    waits (.tcbd tF) (owned child) 17 ∧ waits (.launch tF) { tcb 0 with ready := List.replicate Config.readyMax (0, 0) } 17 ∧
    trapsWith (.tcbd tF) (tcb 0) .countUnder ∧ runs (.cwait (vf .unused (.scal 5))) child (fun t => t.g.stall == 25 && t.g.pc == 12) ∧
    runs (.cwait (vf .unused (.imm 0))) base (fun t => t.g.pc == 12) ∧ runs (.clk (vf (.scal 9))) child (fun t => t.g.sval 9 == 1) ∧
    runs (.dwait (vf .unused (.imm 0))) { base with teams := Store.put 1 { placedTeam with lin := 1 } base.teams
                                                    tasks := Store.put 1 { base.task 1 with gx := 2, retired := [0] } base.tasks } (fun t => t.g.pc == 12) := by
  refine ⟨quiet_of ?_, quiet_of ?_, ?_⟩ <;> decide +kernel

/-- Queue 3 of the context, with 16 records at address 0 of the page; a record at 0x400. -/
def pushing (tail : Word) (en : Bool) : State :=
  (scals base [(5, 3), (6, 0x400), (7, 5)]).putQueue 3 { Queue.empty with asid := 1, log2n := 4, en := en, tail := tail }
def pF : VForm := vf (.scal 9) (.scal 5) (.scal 6)
def pollF (fn : BitVec 4) : MForm := mf (.pred 2) (.scal 6) (.imm 5) .n32 fn
theorem witness_PushesAndPolls : Quiet (pushing 1 true) ∧ (pushing 1 true).g.groupExec always = true ∧
    passes ((pushing 1 true).checkLanes base.g { acc := 0, size := 64, user := true } true 0 (some allLanes) noExtra [(96, 0x400)]) 1 ∧
    (pushing 1 true).winOf 0x400 < 2 ∧ ((pushing 1 true).queue 3).asid = base.g.asid ∧ ((pushing 1 true).queue 3).en = true ∧
    okIs ((pushing 1 true).memCheck (pollF 0) { acc := 0, size := 4, user := true } false ((pushing 1 true).pollDet (pollF 0))) (fun ls =>
      ls.length == 1 && ls.all fun l => ((pushing 1 true).locWait l.loc 4 false).isNone && !l.loc.isPeer) ∧ (pushing 1 true).requestsFull = false ∧
    ((pushing 1 true).lxLoc 1 true (((pushing 1 true).queue 3).recAddr 1)).isSome = true ∧
    waits (.qpush pF) (owned (pushing 1 true)) 17 ∧ waits (.poll (pollF 1)) (owned (pushing 1 true)) 17 ∧
    waits (.poll (pollF 1)) (manyLoads (pushing 1 true)) 17 ∧
    trapsWith (.poll (pollF 1)) { pushing 1 true with tasks := Store.put 1 { base.task 1 with det := true } base.tasks } .determinism ∧
    runs (.qpush pF) (pushing 1 true) (fun t => t.g.sval 9 == 1 && (t.queue 3).tail == 2) ∧
    runs (.qpush pF) (pushing 16 true) (fun t => t.g.sval 9 == 0 && (t.queue 3).tail == 16) ∧
    runs (.qpush pF) (pushing 1 false) (fun t => t.g.sval 9 == 2) ∧
    runs (.poll (pollF 1)) (pushing 1 true) (fun t => t.g.pred 2 == allLanes && t.g.waiting == .no) ∧
    runs (.poll (pollF 0)) (pushing 1 true) (fun t => t.g.pred 2 == 0 && t.g.waiting == .poll && t.g.pollStep == 1 && t.g.pc == 12 &&
      runs (.pollBackoffExpiry 0) t fun u => u.g.waiting == .no) := by
  refine ⟨quiet_of ?_, ?_⟩ <;> decide +kernel

/-- A queue with a record of kind 0 at HEAD; a task at the head of the ready queue that has passed its checks; a team whose group has ended. -/
def taking : State := base.putQueue 2 { Queue.empty with asid := 1, log2n := 4, en := true, tail := 1 }
def placing : State :=
  { base with ready := [(0, 7)]
              tasks := Store.put 7 { Task.empty with live := true, asid := 1, state := 1, checked := true, gx := 1, gy := 1, gz := 1, groups := 1
                                                     kd := { KDesc.zero with regs := 1024 } } base.tasks
              ctxs := Store.put 1 { placedCtx with home := 0x1000000, homeSize := 0x10000, rnext := 0x2000000, rend := 0x4000000 } base.ctxs }
def teamOver : State := next (.exit vf) base
/-- The record at HEAD: a kind, an address (in global memory), a value. -/
def recorded (kind addr value : Nat) : State := { taking with hbm := taking.hbm.write 0x6000 32 (kind + 2 ^ 32 + 2 ^ 64 * addr + 2 ^ 128 * value) }
/-- A task of one team that has retired. -/
def retiring : State :=
  { base with tasks := Store.put 7 { Task.empty with live := true, asid := 1, state := 2, gx := 1, gy := 1, gz := 1, next := 1, retired := [0] } base.tasks }
theorem witness_LauncherEvents : taking.winner = some 2 ∧ okIs (taking.readRec (taking.queue 2)) (fun r => r.kind == 0 && r.index == 0) ∧
    placing.headTask = some 7 ∧ (placing.task 7).checked = true ∧ (placing.fitsOn 7 (placing.task 7) 3).isSome = true ∧
    (placing.task 7).nextLin = some 0 ∧ (teamOver.team 1).live = true ∧ (teamOver.team 1).allEnded = true ∧
    runs (.recordNop 2) taking (fun t => (t.queue 2).head == 1) ∧
    runs (.teamPlacement 3) placing (fun t => (t.task 7).state == 2 && (t.task 7).placed == 1) ∧
    runs (.teamEnd 1) teamOver (fun t => !(t.team 1).live) ∧
    runs .readyOverflowMove { base with overflow := [⟨2, 7, 0⟩] } (fun t => t.ready == [(2, 7)] && t.overflow.isEmpty) ∧
    base.owned = [] ∧ base.refresh = [] ∧ (recorded 3 0x400 5).winner = some 2 ∧ (recorded 3 0x400 5).waitingRec 2 3 = none ∧
    [1, 2, 3].all (fun k => okIs ((recorded k 0x400 5).readRec ((recorded k 0x400 5).queue 2)) fun r => r.kind == k && r.index == 0) = true ∧
    runs (.recordSignal 2) (recorded 3 0x400 5) (fun t => (t.queue 2).recs.isEmpty && t.hbm.read 0x6400 8 == 5) ∧
    runs (.recordWait 2) (recorded 2 0x400 5) (fun t => (t.queue 2).recs.length == 1 && runs (.waitRecordReread 2)
      { t with hbm := t.hbm.write 0x6400 8 5 } fun u => (u.queue 2).recs.isEmpty) ∧
    runs (.recordGraph 2) (recorded 1 0x400 0) (fun t => t.graphCtr == 1 && (t.graph 1).base == 0x400) ∧
    runs (.recordNop 2) (recorded 4 0x400 0) (fun t => (t.queue 2).err == 4) ∧
    runs (.recordSignal 2) (owned (recorded 3 0x400 5)) (fun t => (t.queue 2).head == 0) ∧
    retiring.retiringTask = none ∧ retiring.retireDue 7 = true ∧ retiring.retiresFirst 7 = true ∧
    runs (.taskRetire 7) retiring (fun t => (t.task 7).state == 3 && !(t.task 7).live) := by decide +kernel

/-- A communicator of one rank with its map at 0x500, a template of one COPY node, and a call record at 0x400. -/
def comms : State :=
  let s := scals base [(5, 0x400), (6, 0x600)]
  { s with
    comms := Store.put 2 { Comm.empty with nrank := 1, rmap := 0x500, asid := 1, en := true } s.comms
    hbm := s.hbm.write 0x6600 64 (1 + 2 ^ 16) }
theorem witness_CollectiveTables : Quiet comms ∧ comms.g.groupExec always = true ∧ comms.det = false ∧ comms.slotBusy 3 = false ∧
    okIs (comms.recordLoc (vf (.scal 9) (.scal 6)) 0x600) (fun q => q.2.isNone && bitsAt (comms.readHome comms.g q.1 64) 0 16 == 1) ∧
    comms.tplUsed 3 + 1 ≤ 6144 ∧ badNode [] = none ∧
    runs (.clTpl (vf (.scal 9) (.scal 6) (.imm 3))) comms (fun t => t.g.pc == 12 && (t.g.sval 9 == 0 || t.g.sval 9 == 2)) ∧
    runs (.clTpl (vf (.scal 9) (.scal 0) (.imm 3))) comms (fun t => t.g.sval 9 == 0) ∧
    runs (.awr (vf (.scal 16) (.scal 0) (.imm 0) (.imm 0))) (twoGroups true) (fun t => t.g.pc == 12 && t.g.sval 19 == 2) := by
  refine ⟨quiet_of ?_, ?_⟩ <;> decide +kernel


/-! ### Witnesses and steps: collectives and links -/

/-- A communicator of two ranks, whose other rank is device 5; its template in slot 3 copies chunk 0 of IN to OUT; a call record at 0x600
for four n32 elements. -/
def two : State :=
  let s := scals base [(5, 0x600), (6, 2)]
  { s with
    comms := Store.put 2 { Comm.empty with nrank := 2, rmap := 0x500, asid := 1, en := true, deadline := 9 } s.comms
    tpls := Store.put 3 ⟨1, 7, 1, [⟨2, 0, 1, false, 0, 0, 0, 0, []⟩]⟩ s.tpls
    hbm := ((s.hbm.write 0x6600 32 (0x700 + 2 ^ 64 * 0x740 + 2 ^ 192 * (4 + 2 ^ 32 + 2 ^ 40 * 3 + 2 ^ 48 * 2))).write 0x6500 4 0x50000).write
      0x6700 16 0x00000004_00000003_00000002_00000001 }
def clF : VForm := vf (.scal 9) (.scal 5)
def ckF : VForm := vf (.scal 9) (.scal 6)
/-- The collective issued, and its copy done. -/
def going : State := next (.clGo clF) two
def noded : State := next (.collectiveNode 2 0 0) going
theorem witness_Collectives : Quiet two ∧ Quiet going ∧ two.g.groupExec always = true ∧ two.det = false ∧
    okIs (two.recordLoc clF 0x600) (fun q => q.2.isNone &&
      okIs (two.checkCall clF (Call.ofBytes (two.readHome two.g q.1 64))) fun c => c.comm == 2 && c.gate.isNone && c.nodes.length == 1) ∧
    two.g.counterFull [.fab] = false ∧ two.notices = [] ∧ two.offers = [] ∧ going.g.sval 9 = 2 ∧ going.g.inflight.fab = 1 ∧
    okIs (going.ticket ckF true) (· == (2, 0)) ∧
    runs (.clCk ckF) going (fun t => t.g.sval 9 == 0) ∧
    runs (.clCk ckF) (next (.collectiveComplete 2 0) noded) (fun t => t.g.sval 9 == 1 && t.g.inflight.fab == 0) ∧
    runs (.clAbort ckF) going (fun t => (t.coll 2 0).any (·.status == 2)) ∧
    runs (.awr (vf (.scal 16) (.scal 6) (.imm 2))) going (fun t => t.g.pc == 24) := by
  refine ⟨quiet_of ?_, quiet_of ?_, ?_⟩ <;> decide +kernel
/-- The copy of a running collective, its end, a notice, the watchdog, a switch, and what comes before its `cl.go`. -/
theorem witness_CollectiveEvents :
    (match going.coll 2 0 with
      | some c => c.status == 0 && c.running && (c.state 0).pending && (c.node 0).kind == 2 && c.nrank != 1 && c.bar.isNone && c.flag == 0 &&
          c.walks.isEmpty && c.pending.contains 0 && c.tripped.isEmpty &&
          (match State.collMove c (c.node 0).red (c.node 0).src (c.chunk (c.node 0)).1 (c.node 0).dst (c.chunk (c.node 0)).1 (c.chunk (c.node 0)).2 going with
            | .ok x => x.hbm.read 0x6740 16 == 0x00000004_00000003_00000002_00000001 | .error _ => false)
      | none => false) = true ∧
    (going.comm 2).deadline ≠ 0 ∧ (noded.coll 2 0).any Coll.allDone = true ∧ two.coll 2 0 = none ∧ two.isIssued 2 0 = false ∧
    (two.comm 2).nrank ≠ 0 ∧ (two.comm 3).nrank = 0 ∧
    noded.hbm.read 0x6740 16 = 0x00000004_00000003_00000002_00000001 ∧
    runs (.collectiveComplete 2 0) noded (fun t => (t.coll 2 0).any (·.status == 1) && t.g.inflight.fab == 0 && (t.comm 2).doneseq == 1) ∧
    runs (.abortNotice 2 0 ⟨1, none⟩ none 4) going (fun t => (t.coll 2 0).any (·.status == 2)) ∧
    runs (.abortNotice 2 0 ⟨1, none⟩ none 4) two (fun t => t.notices.length == 1 && runs (.clGo clF) t fun u => (u.coll 2 0).any (·.status == 2)) ∧
    runs (.collectiveWatchdog 2 0 0) going (fun t => (t.coll 2 0).any (·.tripped == [0])) ∧
    runs (.probe 2 0 ⟨1, none⟩ 4) two (fun t => t.outbox.length == 1) := by decide +kernel
/-- Another template in the slot: its nodes, run by the collective of rank 0 of two. -/
def withNodes (nodes : List TplNode) : State := next (.clGo clF) { two with tpls := Store.put 3 ⟨1, 7, 1, nodes⟩ two.tpls }
/-- A SEND of IN to the peer and a RECV of its data into OUT; the same with itself. -/
def exchanging : State := withNodes [⟨0, 0, 0, false, 1, 0, 0, 0, []⟩, ⟨1, 0, 1, false, 1, 0, 0, 0, []⟩]
def selfing : State := withNodes [⟨0, 0, 0, false, 0, 0, 0, 0, []⟩, ⟨1, 0, 1, false, 0, 0, 0, 0, []⟩]
/-- The peer's chunk of four elements, as request 1 at a time, with a number of its bytes. -/
def chunkOf (bytes : Nat) (id now : DWord := 9) (sig : Sig := ⟨7, 4, 1, 0⟩) : ChunkFlit :=
  ⟨2, 0, 1, 0, 4, sig, (List.range bytes).map (BitVec.ofNat 8), 11, 5, id, ⟨0, now⟩⟩
def chunk (bytes : Nat) (id now : DWord := 9) (sig : Sig := ⟨7, 4, 1, 0⟩) : Instr := .chunkFlitReceive (chunkOf bytes id now sig)
/-- The node of the collective is done. -/
def nodeDone (s : State) (i : Nat) : Bool := (s.coll 2 0).any fun c => (c.state i).done
def statusIs (s : State) (n : Nat) : Bool := (s.coll 2 0).any fun c => c.status == n
/-- The ready RECV takes the data that arrives, whole or in two packets; else the data waits, and the RECV takes it in its own step. -/
def kept : State := next (chunk 16) two
theorem test_chunk_arrivals :
    (exchanging.coll 2 0).any (fun c => c.sig == ⟨7, 4, 1, 0⟩ && c.recvOf 1 0 == some 1 && c.running && (c.state 1).pending && (c.chunk (c.node 1)) == (0, 4)) ∧
    runs (chunk 16) exchanging (fun t => t.hbm.read 0x6740 16 == 0x0F0E0D0C0B0A09080706050403020100 && nodeDone t 1 &&
      t.outbox.any fun f => f.pkt == .response 9 0) ∧
    runs (chunk 8) exchanging (fun t => !nodeDone t 1 && runs (chunk 8 10) t fun u => nodeDone u 1 && u.hbm.read 0x6748 8 == 0x0706050403020100) ∧
    runs (chunk 16) (next (chunk 16) exchanging) (fun t => t.outbox.length == 2 + exchanging.outbox.length) ∧
    runs (chunk 16 9 1950001) exchanging (fun t => !nodeDone t 1 && t.outbox.length == exchanging.outbox.length) ∧
    runs (chunk 16 9 9 ⟨7, 4, 1, 1⟩) exchanging (fun t => statusIs t 3) ∧
    runs (chunk 16) (owned exchanging) (fun t => nodeDone t 1) ∧ kept.offers.length = 1 ∧ kept.coll 2 0 = none ∧
    runs (chunk 16) { exchanging with owned := [⟨0, false, none, 0x6700, 0x6780⟩] } (fun t => t.offers.length == 1 && !nodeDone t 1 &&
      runs (.collectiveNode 2 0 1) { t with owned := [] } fun u => nodeDone u 1 && u.offers.isEmpty && u.hbm.read 0x6740 2 == 0x100) ∧
    runs (chunk 16) { exchanging with recovery := true } (fun t => t.offers.isEmpty && !nodeDone t 1) := by decide +kernel
/-- A SEND waits for its credit and then leaves as a request; one to this member completes with its RECV. -/
theorem test_sends :
    runs (.collectiveNode 2 0 0) exchanging (fun t => t.outbox.length == exchanging.outbox.length && !nodeDone t 0) ∧
    runs (.collectiveNode 2 0 0) (next (.flitReceive 0 true 7 ⟨0, 5, 7, 1, 4, 0, 0, 0, 0⟩ (some ⟨2, 0, 1, 0, ⟨7, 4, 1, 0⟩⟩)) exchanging) (fun t =>
      t.outbox.any (fun f => (match f.pkt with | .chunk k => k.data.take 5 == [1, 0, 0, 0, 2] && k.ordinal == 0 && k.len == 4 | _ => false) && f.dev == 5) &&
      !nodeDone t 0 && (t.coll 2 0).any (fun c => (c.state 0).carry.reqs.length == 1)) ∧
    runs (.flitReceive 0 true 7 ⟨0, 5, 7, 1, 4, 0, 0, 0, 0⟩ (some ⟨2, 0, 1, 0, ⟨7, 4, 1, 1⟩⟩)) exchanging (fun t => statusIs t 3) ∧
    runs (.collectiveNode 2 0 0) selfing (fun t => nodeDone t 0 && nodeDone t 1 && t.hbm.read 0x6740 16 == 0x00000004_00000003_00000002_00000001) := by
  decide +kernel
/-- A walk that waits for rank 1: its answer, or the end of the time, ends the walk and names rank 1 in a record. -/
def walking : State := next (.collectiveWatchdog 2 0 1) exchanging
theorem test_walks :
    (walking.coll 2 0).any (fun c => c.walks.any fun w => w.node == 1 && w.waiting == 1 && w.seen == [1]) ∧
    runs (.probeTimeout 2 0 1 1) walking (fun t => (t.coll 2 0).any (fun c => c.walks.isEmpty) && (t.jetOf 0).length == (walking.jetOf 0).length + 1 &&
      ((t.jetOf 0).getLast?).any fun r => r.code == 9 && (r.payload.extractLsb' 64 16).toNat == 1) ∧
    runs (.probeAnswer 2 0 1 ⟨1, none⟩ .notIssued 5) walking (fun t => (t.coll 2 0).any (fun c => c.walks.isEmpty)) ∧
    runs (.probeTimeout 2 0 1 1) { walking with comms := Store.put 2 { walking.comm 2 with wdact := true } walking.comms } (fun t => statusIs t 3) ∧
    runs (.probe 2 0 ⟨1, none⟩ 4) exchanging (fun t => t.outbox.any fun f => f.pkt == .answer 2 0 (.blocked [1])) := by decide +kernel
/-- A collective of one member copies IN to OUT and ends; one stopped at a fault goes on when its page is found, and ends with it else. -/
def alone : State := next (.clGo clF) { two with comms := Store.put 2 { two.comm 2 with nrank := 1 } two.comms }
def stoppedAt (pool : List Nat) : State :=
  { going with colls := going.colls.map fun c => { c with stopped := some ⟨.page, 0x2400, 0, 0, true, false⟩ }
               ctxs := Store.put 1 { placedCtx with pool := pool } going.ctxs }
theorem test_collective_ends :
    (alone.coll 2 0).any (fun c => c.alone && c.stage == 0 && c.bar.isNone && c.flag == 0) ∧
    runs (.collectiveComplete 2 0) alone (fun t => statusIs t 1 && t.hbm.read 0x6740 16 == 0x00000004_00000003_00000002_00000001) ∧
    runs (.collectiveNode 2 0 0) (stoppedAt [9]) (fun t => (t.coll 2 0).any (fun c => c.stopped.isNone && c.status == 0) && t.hbm.read 0x5010 8 == 0x9183) ∧
    runs (.collectiveNode 2 0 0) (stoppedAt []) (fun t => statusIs t 3) := by decide +kernel
/-- R345, R347: the second of two chunks of 5 elements, and sums of 32-bit integers and of floats. -/
theorem test_combining :
    ((exchanging.coll 2 0).map fun c => Coll.chunk { c with nchunk := 2, count := 5 } ⟨2, 0, 1, false, 0, 1, 0, 0, []⟩) = some (2, 3) ∧
    combineElem 1 0 0xFFFFFFFF 3 = 2 ∧ combineElem 0 1 0xFFFFFFFF 3 = 0xFFFFFFFF ∧ combineElem 8 0 0x3F800000 0x40000000 = 0x40400000 ∧
    combineElem 11 2 0x3F80 0x7FC0 = 0x3F80 := by decide +kernel
/-- A collective with a gate that is open: the gate's parity is 1, and the record at 0x100, just armed, has phase 0. -/
def gated : State :=
  let s := scals base [(5, 0x1000000100), (6, 2)]
  { next (.abInit (vf .unused (.scal 5) (.scal 6) (.imm 0))) s with
    comms := going.comms, colls := going.colls.map fun c => { c with running := false, gate := some (0, 0x100), gph := true } }
theorem witness_CollectiveGate : (gated.coll 2 0).any (fun c => c.status == 0 && !c.running && gated.gateOpen c) = true ∧
    runs (.collectiveGateOpen 2 0) gated (fun t => (t.coll 2 0).any (·.running)) := by decide +kernel

/-- A peer's store and load, and the load again; a group with a peer store in flight on port 0 under request 4. -/
def asking (id now : DWord) (op : PeerOp) (pa : Nat) (data : BitVec 128) : Instr := .peerRequest 0 5 id ⟨0, now⟩ op pa 8 data 0 4
def stored : State := next (asking 1 9 .store 0x6400 0x1122334455667788) base
def flit : FlitHead := ⟨0, 5, 7, 0, 4, 0, 0, 0, 0⟩
def peerReq : Req := { port := 0, id := 4, ea := 0x700, acc := 1, tries := 0, dev := 5, pa := 0x700 }
def heldAck : PendingAck := { paths := [.stg], reqs := [peerReq] }
def heldLoad : PendingLoad := mkLoad .none (some .ldg) [] none {} [] [peerReq]
def requesting : State :=
  base.setG { base.g with acks := [heldAck], inflight := base.g.inflight.raise [.stg] }
theorem witness_LinkEvents : (0 : Nat) < 16 ∧ 0x6400 + 8 ≤ Config.hbmBytes ∧ base.filterOf 0 5 1 = none ∧ base.portsDown = [] ∧ base.lanesLost = [] ∧
    (base.filters.filter fun e => e.port == 0).length < 65536 ∧ base.isOwned (.hbm 0x6400) 8 false = false ∧ base.isOwned (.hbm 0x6400) 8 true = false ∧
    (stored.filterOf 0 5 1).isSome = true ∧ stored.hbm.read 0x6400 8 = 0x1122334455667788 ∧
    runs (asking 1 9 .store 0x6400 9) stored (fun t => t.hbm.read 0x6400 8 == 0x1122334455667788 && t.outbox.length == 2) ∧
    runs (asking 2 9 .load 0x6400 0) stored (fun t => (t.filterOf 0 5 2).any (·.value == 0x1122334455667788)) ∧
    runs (.filterEntryExpiry 0 5 1) stored (fun t => t.filters.isEmpty) ∧
    requesting.allReqs.any (Req.due 0 4) = true ∧
    ((requesting.groups.find? fun p => (p.2.acks.flatMap fun a => a.reqs).any fun r => r.named 0 4).any fun p =>
      p.1 == 0 && p.2.acks == [heldAck] && !p.2.ended) = true ∧
    requesting.ackFree 0 heldAck = true ∧ heldLoad.bad = none ∧
    runs (.outcomeUnknown 0 4) requesting (fun t => t.g.inflight.stg == 0 && t.g.lost.length == 1) ∧
    runs (.outcomeUnknown 0 4) (base.setG { base.g with loads := [heldLoad] }) (fun t => t.g.loads.all fun l => l.bad.isSome && l.reqs.isEmpty) ∧
    runs (.retransmitTimeout 0 4) { requesting with noCredit := [0] } (fun t => t.outbox.isEmpty) ∧
    (base.filterFull 0 = false ∧ inTime ⟨0, 9⟩ = true ∧ inTime ⟨0, 1950001⟩ = false) ∧
    runs (asking 1 1950001 .store 0x6400 9) base (fun t => t.hbm.read 0x6400 8 == 0 && t.outbox.isEmpty) ∧
    runs (asking 1 9 .load 0x6400 0) (owned base) (fun t => t.outbox.isEmpty && t.filters.isEmpty) ∧
    (base.peerLost .load 0x6400 8 = false ∧ State.peerLost { base with poison := [.hbm 0x6400] } .load 0x6400 8 = true) ∧
    runs (.portDown 0) base (fun t => t.portsDown == [0]) ∧ runs (.laneRetrain 0 3) base (fun t => t.lanesLost == [0]) ∧
    runs (.flitReceive 0 false 7 flit none) base (fun t => t.outbox.length == 1) ∧
    runs (.flitReceive 0 true 7 flit (some ⟨2, 0, 1, 0, ⟨7, 4, 1, 0⟩⟩)) base (fun t => t.credits.length == 1 && t.noCredit.contains 0) ∧
    runs (.linkReplay 0 1) stored (fun t => t.outbox.length == 2 && t.outbox.all fun f => f.linkSeq == 1) ∧
    runs (.retransmitTimeout 0 4) requesting (fun t => t.outbox.length == 1) := by decide +kernel

/-! ### Witnesses and steps: traps, system registers, debugging -/

def hand : State := handled base
/-- In the handler of a `trap` that stood at 0x30. -/
def inHandler : State :=
  hand.setG { hand.g with mode := true, inHandler := true, cause := 0x140, epc := 0x30, ema := 7, exited := 2, full := 7, mask := 7 }
theorem witness_TrapEntry : Handled hand .illegal ∧ Handled hand .swTrap ∧ GroupsWf hand ∧
    (hand.g.resident = true ∧ hand.g.ended = false ∧ (hand.ctx hand.g.asid).dump.getLsbD FCode.illegal.num = false) ∧
    (inHandler.g.cause.getLsbD 8 = true ∧ inHandler.g.resident = true) ∧ (base.g.cause.getLsbD 8 = false ∧ base.g.trapBase = 0) ∧
    runs (.unassignedOpcode 0x11) hand (fun t => t.g.pc == 0x800 && t.g.epc == 0 && t.g.cause == 0x100 + BitVec.ofNat 64 FCode.illegal.num && t.g.mode &&
      t.g.ema == 0xFFFFFFFF && t.g.emc == 0xFFFFFFFF) ∧
    runs (.unassignedOpcode 0x11) base (fun t => t.g.ended) ∧ runs (.unassignedOpcode 0x11) inHandler (fun t => t.g.ended && t.g.doubled && t.g.epc == 0x30) := by
  unfold Handled
  exact ⟨by decide +kernel, by decide +kernel, groups_of (by decide +kernel), by decide +kernel⟩
theorem witness_TrapAndReturn : Quiet hand ∧ Quiet inHandler ∧ hand.g.execLanes always ≠ 0 ∧ hand.g.mode = false ∧ inHandler.g.mode = true ∧
    inHandler.g.groupExec always = true ∧
    runs (.trap (vf .unused (.imm 9))) hand (fun t => t.g.pc == 0x800 && t.g.finfo == 9 && t.g.cause.extractLsb' 0 6 == BitVec.ofNat 6 FCode.swTrap.num) ∧
    runs (.trap (vf .unused (.imm 9) .unused .unused .i32 0 never)) hand (fun t => t.g.pc == 12) ∧
    runs (.rfe vf) inHandler (fun t => t.g.pc == 0x3C && !t.g.mode && !t.g.inHandler && t.g.full == 5 && t.g.mask == 5 && t.g.cause == 0x40) ∧
    trapsWith (.rfe vf) base .privilege := by
  refine ⟨quiet_of ?_, quiet_of ?_, ?_⟩ <;> decide +kernel

/-- System registers: those of user mode, of supervisor mode, and what each refuses. -/
def swr (n : BitVec 8) : VForm := vf (.special n) (.scal 5)
theorem witness_SystemRegisters : Quiet (scals base [(5, 7)]) ∧ Quiet (scals sup [(5, 7)]) ∧ base.g.mode = false ∧ sup.g.mode = true ∧
    sup.g.groupExec always = true ∧ Readable base (base.g.execLanes always) ((Dst.vec 2).vecOp false) ∧
    runs (.srd (vf (.scal 9) (.special 1 0))) (base.setG { base.g with index := 4 }) (fun t => t.g.sval 9 == 4) ∧
    runs (.srd (vf (.vec 2) (.special 0 0))) base (fun t => t.vval 2 false 5 == ⟨5, 0⟩ && t.vval 2 false 95 == ⟨95, 0⟩) ∧
    trapsWith (.srd (vf (.scal 9) (.special 0x19 0))) base .privilege ∧ trapsWith (.swr (swr 0x18)) base .privilege ∧
    runs (.swr (swr 0x31)) (scals base [(5, 1)]) (fun t => !t.g.mode && t.g.pc == 12) ∧
    runs (.swr (swr 0x11)) (scals base [(5, 7)]) (fun t => t.g.dix == 7) ∧ runs (.swr (swr 0x18)) (scals sup [(5, 0x900)]) (fun t => t.g.trapBase == 0x900) ∧
    runs (.swr (swr 0x31)) (scals sup [(5, 0)]) (fun t => !t.g.mode) ∧ trapsWith (.swr (swr 0x38)) (scals sup [(5, 0x10000)]) .reserved ∧
    runs (.swr (swr 0x28)) (scals sup [(5, 0x300000)]) (fun t => (t.ctxCore 0 1).apscr == 0x300000) ∧
    trapsWith (.swr (swr 0x28)) (scals sup [(5, 0x80000)]) .reserved ∧ viewVFields 0x280000 = true ∧ viewVFits 0x280000 base.g.size = true := by
  refine ⟨quiet_of ?_, quiet_of ?_, ?_, ?_, ?_, readable_of ?_, ?_⟩ <;> decide +kernel

/-- A debugger: its context attaches context 1; s5 is the handle of a second group of the team, which rests or not. -/
def debugger (rests : Bool) : State :=
  let s := scals base [(5, 0x4000001), (6, 0x51), (7, 0xFFFF), (8, 0)]
  let s := s.setG { s.g with dbg := true }
  { s.putGroup 1 { s.g with index := 1, slot := 1, dbg := false, chrysalis := rests, held := if rests then 1 else 0 } with
    teams := Store.put 1 { placedTeam with groups := 2 } base.teams
    ctxs := Store.put 1 { placedCtx with attach := [1] } base.ctxs }
def dF : VForm := vf (.scal 10) (.scal 5) (.scal 6) (.scal 7)
theorem witness_HaltsAndResumes : Quiet (debugger false) ∧ Quiet (debugger true) ∧ GroupsWf (debugger false) ∧ GroupsWf (debugger true) ∧
    Quiet base ∧ (srcScal (.scal 5) ≠ 0 ∧ base.g.dbg = false) ∧ (debugger false).g.groupExec always = true ∧
    okIs ((debugger false).haltWho dF) (· == 1) ∧ okIs ((debugger false).haltWho vf) (· == 0) ∧
    okIs ((debugger true).needTarget ((debugger true).sarg (.scal 5))) (fun _ => true) ∧
    okIs ((debugger true).targetOf ((debugger true).sarg (.scal 5)) allLanes) (· == 1) ∧
    ((debugger true).group 1).chrysalis = true ∧
    runs (.halt dF) (debugger false) (fun t => (t.group 1).chrysalis && (t.group 1).chCause == 2 && !t.g.chrysalis && t.g.pc == 12) ∧
    runs (.halt vf) base (fun t => t.g.chrysalis && t.g.pc == 12) ∧
    runs (.haltTeam dF) (debugger false) (fun t => (t.group 1).chrysalis && t.g.chrysalis) ∧
    runs (.resume (vf .unused (.scal 5) (.scal 8))) (debugger true) (fun t => !(t.group 1).chrysalis && (t.group 1).held == 0) ∧
    trapsWith (.resume dF) base .privilege := by
  refine ⟨quiet_of ?_, quiet_of ?_, groups_of ?_, groups_of ?_, quiet_base, ?_⟩ <;> decide +kernel

/-- Antenna 2 (s5) with the six words of s16 on. -/
def watching : State := scals sup [(5, 2), (6, 16), (16, 0x10000), (17, 0x11), (18, 0x22), (19, 1), (20, 0), (8, 0xAABBCCDD), (9, 0x1122334455667788)]
/-- The buffer of die 0 is full. -/
def jammed (s : State) : State := { s with jet := [(0, List.replicate Config.jetstreamRecords ⟨0, 0, 0, 0, false, 0⟩)] }
theorem witness_AntennaeAndEvents : Quiet watching ∧ Quiet base ∧ base.g.mode = false ∧ base.g.dbg = false ∧ watching.g.mode = true ∧
    watching.g.groupExec always = true ∧ (watching.sarg (.scal 5)).toNat = 2 ∧ ({ Antenna.zero with ctl := 0x10000, comp := 0x11, cmask := 0x22, lanea := 1 } : Antenna).fieldsOk 2 = true ∧
    watching.mayWatch 1 = true ∧ ({ Antenna.zero with ctl := 0xFFFFFFFFFFFFFFFF } : Antenna).fieldsOk 2 = false ∧
    watching.jetFull (engDie watching.g.engine) = false ∧
    runs (.antSet (vf .unused (.scal 5) (.scal 16))) watching (fun t => t.antenna 0 2 == ⟨0x10000, 0x11, 0x22, 1, 0, 0⟩) ∧
    runs (.antGet (vf (.scal 24) (.scal 5))) (next (.antSet (vf .unused (.scal 5) (.scal 16))) watching) (fun t => t.g.sval 25 == 0x11 && t.g.sval 26 == 0x22) ∧
    trapsWith (.antSet (vf .unused (.scal 5) (.scal 16))) base .privilege ∧
    waits (.evt (vf .unused (.scal 9) (.scal 8))) (jammed watching) 29 ∧
    runs (.evt (vf .unused (.scal 9) (.scal 8))) watching (fun t => ((t.jetOf 0).getLast?).any fun r =>
      r.code == 0x11 && r.payload == 0xAABBCCDD1122334455667788) := by
  refine ⟨quiet_of ?_, quiet_base, ?_⟩ <;> decide +kernel

/-- The group that a double fault has ended, whose EPC s6 selects; a step whose target has ended. -/
def dead : State :=
  let s := scals (debugger false) [(6, 0x1A6)]
  s.putGroup 1 { s.group 1 with ended := true, doubled := true, epc := 0x30 }
def stepped : State := { dead with steps := [⟨0, 0, 1, 0xFFFF, false, true, none⟩] }
theorem witness_Inspection : Quiet (debugger true) ∧ okIs ((debugger true).needTarget ((debugger true).sarg (.scal 5))) (fun _ => true) ∧
    (debugger true).g.groupExec always = true ∧ okIs ((debugger true).inspArgs dF) (fun p => p.1 == 1 && p.2.cls == 1 && p.2.idx == 5 && !(debugger true).inspWait p.1 p.2) ∧
    okIs ((debugger true).restingTarget 0x4000001 allLanes) (· == handleKey 0x4000001) ∧ (debugger true).myStep 1 = none ∧
    runs (.inspRd dF) (debugger true) (fun t => t.g.sval 10 == 0x4000001) ∧ runs (.inspWr dF) (debugger true) (fun t => ((t.group 1).sreg 5).val == 0xFFFF) ∧
    runs (.step (vf (.scal 10) (.scal 5) (.scal 7))) (debugger true) (fun t => t.steps.length == 1 && t.g.pc == 0 && t.g.stall == 17) ∧
    runs (.step (vf (.scal 10) (.scal 5) (.scal 16))) (debugger true) (fun t => t.g.sval 10 == 2) ∧
    trapsWith (.inspRd dF) (debugger false) .operand ∧
    dead.doubledTarget (dead.sarg (.scal 5)) = some 1 ∧ runs (.inspRd (vf (.scal 10) (.scal 5) (.scal 6))) dead (fun t => t.g.sval 10 == 0x30) ∧
    (stepped.myStep 1).bind stepped.stepResult = some 1 ∧ runs (.step (vf (.scal 10) (.scal 5) (.scal 7))) stepped (fun t => t.g.sval 10 == 1 && t.steps.isEmpty) := by
  refine ⟨quiet_of ?_, ?_⟩ <;> decide +kernel

/-- A request at 0x400 for a dump of the issuing group into 256 bytes at 0x800. -/
def dumping : State := { scals sup [(5, 0x400)] with hbm := sup.hbm.write 0x6400 16 (0x800 + 2 ^ 64 * 256) }
def cF : VForm := vf (.scal 9) (.scal 5)
def dumped : State := next (.cdmp cF) dumping
/-- A context that asks for a dump on ILLEGAL: the group waits for the dump before its handler. -/
def asksDump : State :=
  { hand with ctxs := Store.put 1 { placedCtx with dump := 2 ^ FCode.illegal.num, dumpReq := 0x400 } hand.ctxs
              hbm := hand.hbm.write 0x6400 16 (0x800 + 2 ^ 64 * 256) }
def vfTrap : Instr := .unassignedOpcode 0x11
def asked : State := asksDump.raise vfTrap .illegal 0 (.generic 0) 1
def faultDump : State := asked.beginDump 0 (asked.faultDump 0)
theorem witness_CoreDumps : Quiet dumping ∧ GroupsWf dumping ∧ Quiet base ∧ base.g.mode = false ∧ base.g.dbg = false ∧ dumping.g.mode = true ∧
    okIs (dumping.dumpAsked cF) (fun v => v.any fun v => v.2.isNone && okIs (dumping.dumpCheck cF v.1) fun p => p.2 == 0 && p.1.keys == [0]) ∧
    (dumped.group 0).waiting = .dump ∧ (dumped.group 0).dumpReq.any dumped.dumpReady = true ∧ (dumped.group 0).dumpTrap = none ∧
    dumped.g.chrysalis = true ∧ dumped.owned = [] ∧ dumped.refresh = [] ∧ waits (.cdmp cF) (owned dumping) 17 ∧
    runs (.coreDumpComplete 0) dumped (fun t => t.g.waiting == .no && !t.g.chrysalis && t.g.pc == 12) ∧
    faultDump.g.waiting = .dump ∧ faultDump.g.dumpTrap.isSome = true ∧ faultDump.g.dumpReq.any faultDump.dumpReady = true ∧
    (faultDump.g.pc = 0 ∧ faultDump.g.cause.getLsbD 8 = false ∧ faultDump.g.trapBase ≠ 0) ∧
    runs (.coreDumpComplete 0) asked (fun t => t.g.pc == 0x800 && t.g.epc == 0 && t.g.mode && t.g.waiting == .no) ∧
    trapsWith (.cdmp cF) base .privilege := by
  refine ⟨quiet_of ?_, groups_of ?_, quiet_base, ?_⟩ <;> decide +kernel

/-! ### Witnesses and steps: waits, switches, the host, the device -/

/-- An active and a pending group of one quadrant; the group in each wait that ends by itself. -/
def pendingGroup : State := base.putGroup 1 { base.g with index := 1, slot := 1, active := false }
def waiting (w : Waiting) : State := base.setG { base.g with waiting := w, stall := 21 }
/-- The group pre-empted with nothing in flight, and one that a pre-emption waits for. -/
def preempted : State := base.setG { base.g with waiting := .preempted, preempt := false, pc := 0x30, scal := [] }
def deferring : State := base.setG { base.g with preempt := true, deferred := true }
/-- The active set of the quadrant is full, and one more group is ready; a load into V2 is in flight. -/
def crowded : State :=
  { base with groups := (List.range (Config.activeMax + 1)).map fun n => (n, { base.g with index := n, slot := n, active := decide (n < Config.activeMax) }) }
def hazardous : State := next (.ld (mf (.vec 2) (vr 4))) mem
theorem witness_SwitchesAndRestarts : GroupsWf pendingGroup ∧ GroupsWf base ∧ (pendingGroup.oldestPending 0 0).map Prod.fst = some 1 ∧
    pendingGroup.hasPlace 0 0 = true ∧ (crowded.swapVictim 0 0).map Prod.fst = some 0 ∧ crowded.hasPlace 0 0 = false ∧
    (crowded.longestReady 0 0).map Prod.fst = some Config.activeMax ∧ (pendingGroup.longestReady 0 0).map Prod.fst = some 1 ∧
    base.longestReady 0 0 = none ∧
    (deferring.g.resident = true ∧ deferring.g.atBoundary = true ∧ deferring.g.chrysalis = false ∧ deferring.g.pendCk = none ∧
      deferring.g.mode = false ∧ deferring.g.waiting ≠ .preempted) ∧ preempted.restartDue 0 = true ∧
    (0 < Config.cores ∧ base.switchOf 0 = none ∧ base.switchKeys 0 1 = [0]) ∧
    runs (.pendingForcedSwap 0 0) pendingGroup (fun t => t.g.active && (t.group 1).active) ∧
    runs (.pendingForcedSwap 0 0) crowded (fun t => !t.g.active && (t.group Config.activeMax).active) ∧
    (pendingGroup.pick = some 0 ∧ (∀ p ∈ pendingGroup.groups, pendingGroup.mustFetch p.1 = true → p.1 ∈ pendingGroup.tried)) ∧
    (hazardous.hazard (.mov (vf (.vec 4) (vr 2))) = some 3 ∧ hazardous.hazard (.mov (vf (.vec 4) (vr 3))) = none) ∧
    runs (.sleepExpiry 0) (waiting (.sleep true)) (fun t => t.g.waiting == .no && t.g.stall == 0) ∧ runs (.pollBackoffExpiry 0) (waiting .poll) (fun t => t.g.waiting == .no) ∧
    runs (.joinStackSpill 0) (waiting .spill) (fun t => t.g.waiting == .no) ∧ runs (.joinStackFill 0) (waiting .fill) (fun t => t.g.stack.length == 1) ∧
    runs (.instructionCacheMissFill 0) (waiting (.fetch 9)) (fun t => t.icHit 0 9 && t.g.waiting == .no) ∧
    runs (.checkpointComplete 0) (base.setG { base.g with pendCk := some 0 }) (fun t => t.g.pendCk.isNone) ∧
    runs (.preemptionLate 0) deferring (fun t => t.g.waiting == .preempted && t.g.late) ∧
    runs (.groupRestart 0) preempted (fun t => t.g.waiting == .restore && t.g.stall == 20 &&
      runs (.groupRestart 0) t fun u => u.g.pc == 0 && u.g.waiting == .no && u.g.mask == allLanes) ∧
    runs (.quantumExpiry 0 1 2 0) base (fun t => (t.switchOf 0).isSome || (t.savedOf 0 1).isSome) := by
  refine ⟨groups_of ?_, groups_base, ?_⟩ <;> decide +kernel

/-- R90, R426: a fill waits for an engine, and loses the join stack with a byte of its image. R83: the group that has been ready longest, not
the oldest, is let in. R316: a restart waits for its slot, and loses the register whose byte in it is bad. R317: a late group marks the
switch of its core. -/
def filling : State := (waiting .fill).setG { (waiting .fill).g with spilled := 1 }
def later : State :=
  (pendingGroup.putGroup 1 { pendingGroup.group 1 with readyAt := some 5 }).putGroup 2 { pendingGroup.group 1 with index := 2, slot := 2, age := 7, readyAt := some 3 }
def restoring : State :=
  { waiting .restore with hbm := (base.hbm.write (base.g.slotBase 0 + 8) 8 1).write (base.g.slotBase 0 + 0x80 + 16 * 5) 8 9 }
def switching : State := next (.quantumExpiry 0 1 2 0) (base.setG { base.g with deferred := true })
theorem test_waits_and_losses :
    runs (.joinStackFill 0) { filling with poison := [.hbm 0x200010] } (fun t => t.g.lost.any (fun l => l.reg == .join) && t.g.stack.length == 1) ∧
    runs (.joinStackFill 0) { filling with owned := [⟨1, false, none, 0x200000, 0x200080⟩] } (fun t => t.g.ownWait && t.g.waiting == .fill) ∧
    (later.longestReady 0 0).map Prod.fst = some 2 ∧ (later.oldestPending 0 0).map Prod.fst = some 1 ∧
    runs (.groupRestart 0) restoring (fun t => t.g.sval 5 == 9 && t.g.lost.isEmpty) ∧
    runs (.groupRestart 0) { restoring with owned := [⟨1, false, none, 0x300000, 0x301000⟩] } (fun t => t.g.waiting == .restore) ∧
    runs (.groupRestart 0) { restoring with poison := [.hbm (restoring.g.slotBase 0 + 0x80 + 16 * 5)] } (fun t =>
      t.g.lost.any fun l => l.reg == .scal 5 && l.code == .dataLost) ∧
    switching.switches.any (fun x => x.core == 0 && !x.late) ∧ runs (.preemptionLate 0) switching (fun t => t.g.late && t.switches.all (·.late)) := by decide +kernel
theorem witness_HostAndWindow : base.recovery = false ∧ base.hostDown = [] ∧ (base.queue 5).port.toNat = 0 ∧ (base.ctx 1).attach.length < 16 ∧
    runs (.doorbellWrite 0 5 7) base (fun t => (t.queue 5).tail == 7) ∧
    runs (.doorbellWrite 1 5 7) base (fun t => (t.queue 5).tail == 0 && t.count (ctrTask 11) == 1) ∧
    runs (.doorbellWrite 0 5 7) { base with recovery := true } (fun t => (t.queue 5).tail == 0) ∧
    runs (.queueEnable 5) (base.putQueue 5 { Queue.empty with err := 3 }) (fun t => (t.queue 5).en && (t.queue 5).err == 0) ∧
    runs (.hostPortFailure 0) base (fun t => t.hostDown == [0] && t.irqs == base.irqs ++ [(1, 63)]) ∧
    runs (.hostLinkRetrain 0) { base with hostDown := [0] } (fun t => t.hostDown.isEmpty) ∧
    runs (.hostWrite 0 0x6400 [1, 2] false) base (fun t => t.hbm.read 0x6400 2 == 0x201) ∧
    (match exec (.hostWrite 0 (Config.hbmBytes - 1) [1, 2] false) base with | .fault .hbmAbsent => true | _ => false) = true ∧
    runs (.hostWrite 0 0x6400 [1, 2] false) (owned base) (fun t => t.hbm.read 0x6400 2 == 0 && t.inbox.length == 1 && t.serveWaiting.inbox.length == 1 &&
      (State.serveWaiting { t with owned := [] }).inbox.isEmpty && (State.serveWaiting { t with owned := [] }).hbm.read 0x6400 2 == 0x201 &&
      runs (.hostWrite 0 0x6800 [3] false) t fun u => u.inbox.length == 2 && runs (.hostWrite 1 0x6900 [4] false) u fun v =>
        v.inbox.length == 2 && v.hbm.byte 0x6900 == 4) ∧
    runs (.mgmtWindowWrite .overflowBase 9) { base with recovery := true } (fun t => t.ovBase == 0) ∧
    runs (.mgmtWindowWrite .overflowBase 9) base (fun t => t.ovBase == 9 && t.mgmtRead .overflowBase == 9) ∧
    runs (.mgmtWindowWrite (.stratus 1) 7) base (fun t => t.stratus.byte 8 == 7) ∧ base.inRefresh (.stratus 8) = false ∧
    (refreshing base).inRefresh (.stratus 0) = true ∧ runs (.mgmtWindowWrite (.stratus 0) 7) (refreshing base) (fun t => t.stratus.byte 0 == 0) ∧
    runs (.mgmtWindowWrite (.operatorKey 1) 5) { base with life := 1 } (fun t => t.operKey == 5 * 2 ^ 64) ∧
    runs (.mgmtWindowWrite (.queue 5 1) (7 * 2 ^ 32 + 9)) base (fun t => (t.queue 5).tail == 7 && (t.queue 5).head == 0) ∧
    runs (.mgmtWindowWrite (.queue 5 2) (2 ^ 25 + 3)) base (fun t => (t.queue 5).en && (t.queue 5).asid == 3) ∧
    runs (.mgmtWindowWrite (.comm 2 2) (2 ^ 16 + 1)) base (fun t => (t.comm 2).en && (t.comm 2).asid == 1) ∧
    runs (.mgmtWindowWrite (.attach 1) 9) base (fun t => (t.ctx 1).attach == [9]) ∧
    runs (.mgmtWindowWrite (.counter (ctrTask 11)) 0) { base with counts := [(ctrTask 11, 4)] } (fun t => t.count (ctrTask 11) == 0) := by decide +kernel

/-- R385, R420, R422: lengths and places of what a host reads. -/
theorem test_host_reads : (base.doorbellRead 5 = 0) ∧ (Record.image ⟨1, 2, 0x0E, 5, true, 7⟩).length = 32 ∧
    (Record.image ⟨1, 2, 0x0E, 5, true, 7⟩).getD 0x13 0 = 0x10 ∧ (Record.image ⟨1, 2, 0x0E, 5, true, 7⟩).getD 0x14 0 = 7 ∧
    (TimeState.read ⟨2, true, [], 9⟩) = 0x9_0000_0006 ∧ (Queue.read { Queue.empty with en := true, asid := 3 } 2) = 0x2000003 := by decide +kernel

/-- A device with no team and one word in scratchpad; a record that waits to be drained. -/
def idle : State := { State.reset with scratch := [(5, ⟨7, 0⟩)] }
def logging : State := next (.evt (vf .unused (.scal 9) (.scal 8))) base
theorem witness_DeviceSteps : idle.present 0 = true ∧ idle.sparesUsed 0 < 4 ∧ idle.teams = [] ∧ Store.get 0 idle.chSpared 3 = 0 ∧
    idle.life ≠ 3 ∧ idle.lifeNext = none ∧
    runs (.coreLost 0) idle (fun t => t.present 0 && t.physical 0 == 64 && t.scratch.isEmpty && (t.jetOf 0).length == 1) ∧
    runs (.correctedError 2 (.corrected 3)) idle (fun t => t.count (ctrCorrected 2 3) == 1) ∧
    runs (.correctedError 0 (.corrected 3)) idle (fun t => Store.get 0 t.chErrors 3 == 1) ∧
    runs (.correctedError 0 (.lost (.scratch 1 2))) idle (fun t => t.poison == [.scratch 131074]) ∧
    runs (.correctedError 0 (.lost (.vector 0 3 5))) base (fun t => t.g.lost.length == 1) ∧
    runs (.pseudoChannelSparing 3 9) idle (fun t => t.chSpared.isEmpty) ∧
    runs (.pseudoChannelSparing 3 9) { idle with chErrors := [(777, 16)] } (fun t => Store.get 0 t.chSpared 3 == 10 && t.irqs.length == idle.irqs.length + 2) ∧
    runs (.lifecycleCommand 2) { idle with life := 1 } (fun t => t.lifeNext == some 2) ∧ runs (.lifecycleCommand 3) { idle with life := 1 } (fun t => t.lifeNext.isNone) ∧
    runs (.deviceReset []) logging (fun t => t.groups.isEmpty && t.hbm.isEmpty && t.contrail.length == 1 && t.resets == logging.resets + 1 && t.recovery) ∧
    runs (.powerOn []) logging (fun t => t.recovery && t.contrail.isEmpty) := by decide +kernel
/-- R207, R426: a byte of a line in the L1 and of the store of records. -/
def cached : State := next (.loadDataReturn 0) hazardous
theorem test_losses : (cached.l1Find 0 (0x6400 / 128)).isSome = true ∧
    runs (.correctedError 0 (.lost (.l1 0 0x6400))) cached (fun t => t.poison.length == 1 && runs (.ld (mf (.vec 6) (vr 4))) t fun u =>
      u.g.loads.any fun l => l.bad.isSome) ∧ base.l1Find 0 (0x6400 / 128) = none ∧ runs (.correctedError 0 (.lost (.l1 0 0x6400))) base (fun t => t.poison.isEmpty) ∧
    runs (.jetstreamDrain 0) logging (fun t => (t.contrailByte 3).isSome && runs (.correctedError 0 (.lost (.lpddr 3))) t fun u => (u.contrailByte 3).isNone) := by
  decide +kernel
theorem witness_Attestation : runs (.attestationRequest 5) idle (fun t => t.attest.any fun r => r.nonce == 5) = true := by decide +kernel

def sampled : State := { base with sampling := Store.put 0 (1 + 2 * 6) base.sampling }
/-- A die whose buffer is full, and one that has dropped a record. -/
def fullJet : State := { sampled with jet := Store.put 0 (List.replicate 8192 ⟨0, 0, 0, 0, false, 0⟩) sampled.jet }
theorem witness_ObservationTimeAndPower : sampled.samplingOn 0 = true ∧ base.samplingOn 0 = false ∧ sampled.sampleSlot 0 0 = some 0 ∧
    sampled.jetFull (engDie sampled.g.engine) = false ∧ (logging.jetOf 0 ≠ [] ∧ base.jetOf 0 = []) ∧
    (let s := { base with drops := Store.put 0 4 base.drops }; s.dropOf 0 ≠ Store.get 0 s.summed 0 ∧ s.jetFull 0 = false) ∧
    base.islandMay 2 1 = true ∧ base.logicalOf 0 = some 0 ∧ (∃ p ∈ base.groups, p.2.resident = true ∧ p.2.core = 0) ∧ base.holdsState 0 = true ∧
    base.spareIsland (3 * 64) = true ∧
    runs (.pcSample 0 0) sampled (fun t => (t.jetOf 0).length == 1) ∧
    runs (.jetstreamDrain 0) logging (fun t => (t.jetOf 0).isEmpty && t.contrail.length == 1) ∧
    runs (.dropSummary 0) { base with drops := Store.put 0 4 base.drops } (fun t => ((t.jetOf 0).getLast?).any fun r => r.code == 0x12 && r.payload == 4) ∧
    runs (.ppsInput true) base (fun t => t.tstat.state == 1 && t.tstat.pps) ∧
    runs (.ptmMeasurement 0 5) base (fun t => t.tstat.ptm == [0] && t.tstat.offset == 5) ∧
    runs (.servoLock 100 false) { base with tstat := ⟨1, true, [], 0⟩ } (fun t => t.tstat.state == 2 && Store.get 0 t.stamps 1 == 100) ∧
    runs .holdover { base with tstat := ⟨2, true, [], 0⟩ } (fun t => t.tstat.state == 3) ∧
    runs (.throttleChange 5 1 1200 700 4) base (fun t => t.island 5 == { base.island 5 with mhz := 1200, mv := 700, issue := 4 }) ∧
    runs (.islandStateChange 1 1) base (fun t => t.islands == base.islands) ∧ runs (.islandStateChange 2 3) base (fun t => t.islands == base.islands) ∧
    runs (.islandStateChange 4 1) base (fun t => (t.island 4).st == 1) ∧
    runs (.islandStateChange 970 3) stored (fun t => t.replayBuf.isEmpty && t.filters.isEmpty && !stored.filters.isEmpty) ∧
    runs (.islandStateChange 986 3) going (fun t => (t.island 986).st == (going.island 986).st) ∧
    runs (.islandStateChange 0 1) zeroing (fun t => (t.island 0).st == (zeroing.island 0).st) ∧
    runs (.islandStateChange 1018 3) base (fun t => (t.island 1018).st == (base.island 1018).st) := by decide +kernel

/-! ### Witnesses for the clauses about results -/

/-- R59, R60: lane 5 of v3 through its patterns, and past the end of `:sh`; immediates as an integer, as f32 and as f64; a raw operand of a
number, a NaN and an infinity. -/
def patterned : State := vecs base 3 ((List.range 96).map fun i => (i, i))
theorem witness_OperandReading :
    (List.map (fun p => (patterned.rdSrc .n32 (vr 3 p) 5).val.toNat) [.ident, .rot 7, .bc 70, .bf 33, .mir, .mirb, .sh 90, .sh 91, .beat 2]) =
      [5, 12, 70, 36, 90, 26, 95, 0, 69] ∧
    base.rdSrc .i8 (.imm 0x3FFFF) 0 = ⟨0xFFFFFFFF, 0⟩ ∧ (base.rdSrc .f32 (.imm 0xFC00) 0).val = 0x3F000000 ∧
    (base.rdSrc .f64 (.imm 0xFC00) 0).val = 0x3FE0000000000000 ∧ (scals base [(7, 0x100000005)]).rdSrc .i32 (.scal 7) 0 = ⟨5, 0⟩ ∧
    ((abc 0x3F800000 0 0).rawOperand (v3 .f32) (vr 3) false true 0).1 = .num ⟨true, 0x4000000, -26, false⟩ ∧
    ((abc 0x7F800001 0 0).rawOperand (v3 .f32) (vr 3) false false 0) = (.nan true, fNV) ∧
    ((abc 0xFF800000 0 0).rawOperand (v3 .f32) (vr 3) true false 0) = (.inf false, 0) := by decide +kernel

/-- R138 to R151: a number, a NaN and an infinity through each conversion: what `settle`, `fcvt`, `f2i`, `frnd` and `fclass` ask of their
operand. -/
theorem witness_ConversionResults :
    (abc 0x40200000 0 0).f2iOut (v3 .i32 8) .f32 0 = ⟨2, 0, fNX⟩ ∧ (abc 0x7FC00000 0 0).f2iOut (v3 .i32 8) .f32 0 = ⟨0, 0, fNV⟩ ∧
    (abc 0xFF800000 0 0).f2iOut (v3 .i32 8) .f32 0 = ⟨0x80000000, 0, fNV⟩ ∧ (⟨false, 5, -1, false⟩ : FNum).roundAt 0 0 = 2 ∧
    (abc 0x40200000 0 0).frndOut (v3 .f32 1) 0 = ⟨0x40000000, 0, fNX⟩ ∧ (abc 0x40400000 0 0).frndOut (v3 .f32 1) 0 = ⟨0x40400000, 0, 0⟩ ∧
    widening .f16 .f32 = true ∧ widening .f32 .f16 = false ∧ (abc 0x7F800001 0 0).fcvtOut (v3 .bf16 8) .f32 0 = ⟨nanBits .bf16, 0, fNV⟩ ∧
    (abc 0x3F800000 0 0).fcvtOut (v3 .f32 10) .f16 0 = ⟨0x3F800000, 0, 0⟩ ∧
    (abc 0x7F800000 0 0).settleRound (v3 .f32) 0 = (.inf false, 0) ∧
    State.settleRound ((lanes base 1).setLanes 3 false [(0, ⟨0x3F800000, 6⟩)]) (v3 .f32) 0 = (.num ⟨false, 0x800001, -23, false⟩, fNX) ∧
    expOf (.num ⟨false, 5, -1, false⟩) = 1 ∧ classMask .f32 (.num ⟨false, Ty.f32.max.1, Ty.f32.max.2, false⟩) 7 = 2 ^ 8 + 2 ^ 10 + 2 ^ 11 ∧
    classMask .f32 (.num ⟨true, 1, -140, false⟩) 0 = 2 ^ 4 := by decide +kernel

/-- R169: 4 has an exact reciprocal and root, 3 has not; a number at the distance of its own value meets the bound. -/
theorem witness_SpecialBounds : (⟨false, 1, 2, false⟩ : FNum).st = false ∧ specialNum 0 .f32 ⟨false, 3, 0, false⟩ = none ∧
    specialNum 6 .f32 ⟨false, 3, 0, false⟩ = none ∧ withinBound 0 .f32 (exactFn 0 ⟨false, 3, 0, false⟩) ⟨false, 0xAAAAAB, -25, false⟩ = true ∧
    withinBound 0 .f32 (exactFn 0 ⟨false, 3, 0, false⟩) ⟨false, 0xAAAAAD, -25, false⟩ = false ∧
    (⟨false, 1, 2, false⟩ : FNum).scaled (-1) = 4 * 2 ^ (1 : Int).toNat ∧ 2 * (⟨false, 5, -1, false⟩ : FNum).scaled (-2) = (2 * 2 + 1) * 2 ^ 2 := by
  decide +kernel

/-- R177, R180: the numbers of the lanes of a beat, and prefixes of them; lane 0 of an exclusive scan. -/
theorem witness_ScanPrefixes : (6 : Nat) ≤ 32 ∧ 6 % 2 ^ 2 = 2 ^ 1 ∧ (2 : Nat) < 3 ∧
    State.scanOut (vecs (lanes base 7) 1 [(0, 1), (1, 2), (2, 4)]) (vf (.vec 2) (vr 1) (ty := .i32) (fn := 8)) 0 = ⟨0, 0, 0⟩ ∧
    (State.scanOut (vecs (lanes base 7) 1 [(0, 1), (1, 2), (2, 4)]) (vf (.vec 2) (vr 1) (ty := .i32) (fn := 8)) 2).v = 3 := by decide +kernel

/-- R247, R253, R254: a bf16 element and its container, an integer in residues, a block's scale, and the storage of each. -/
theorem witness_ElementValues :
    okIs tileLay (fun l => l.storage == .float .bf16 && l.can == .cx && l.storage.canons.contains l.can && l.bits == 16 &&
      l.expand 0x3F81 none == (0xFF810, 0) && l.narrow 0xFF810 0 0 0 == 0x3F81 && l.narrow 0xFF808 0 0 0 == 0x3F80 && l.place 1 4 == 132 && l.pitch == 128) ∧
    blockScale .f8e4 [.num ⟨false, 3, 0, false⟩, .num ⟨true, 1, 0, false⟩] = some (-7) ∧ blockScale .f4 [.num ⟨false, 0, 0, false⟩] = some (-127) ∧
    blockScale .f4 [.nan false] = none ∧ blockElem .f8e4 false (some (-7)) 0 0 0 (.num ⟨true, 1, 0, false⟩) = 0xF0 := by decide +kernel
/-- A `tc.st` of the tile to the page, accepted; its addresses are found in the core's TLB, so that they stay as they are. -/
def storing : State := next (.tcAccept 0) (next (.tcSt tcF) (copied.setG { copied.g with waiting := .no }))
theorem witness_TileStores : storing.copies.length = 1 ∧ storing.copies.all (fun c => c.store && !c.lay.isBlock && decide (8 ≤ c.lay.bits) && (storing.tcRun c).2.isNone &&
      c.inside 1 3) = true ∧
    storing.copies.all (fun c => okIs (storing.tcSteer c 2 (c.elemAt 1 3).va) (· == .hbm 0x640E)) = true ∧ HostUp storing (.hbm 0x640E) 2 ∧
    storing.tlbFind 0 1 0x400 = some ⟨0, 1, 0, 12, 0, 0x6107, 0⟩ ∧
    runs (.tcComplete 0) storing (fun t => t.hbm.read 0x6400 8 == 0x40A0_4080_3F81_3F80 && t.copies.isEmpty && t.g.inflight.copy == 0) := by
  refine ⟨by decide +kernel, by decide +kernel, by decide +kernel, ?_, by decide +kernel, by decide +kernel⟩
  intro pa k h
  simp at h

/-- A record that counts two arrivals and 1,024 bytes, onto which a command counts its tile of 256 bytes; a command on a line that an older
one owns. -/
def counted : State := next (.tcAccept 0) (next (.tcLd { tcF with c := .scal 6 })
  (scals (next (.abInit (vf .unused (.scal 5) (.scal 6) (.imm 1024))) (scals tiles [(5, 0x1000000100), (6, 2)])) [(5, 0x1000000180), (6, 0x1000000100)]))
theorem witness_CopyEvents :
    counted.copies.all (fun c => c.bar.isSome && (counted.tcRun c).2.isNone) = true ∧ counted.copies.length = 1 ∧ (counted.readBar 0 0x100).pendBytes = 1024 ∧
    runs (.tcComplete 0) counted (fun t => (t.readBar 0 0x100).pendBytes == 1024 - 256 && (t.readBar 0 0x100).pending == 2) ∧
    (match State.nextCopy { counted with owned := ⟨0, false, none, 0x6400, 0x6480⟩ :: counted.owned } 0 with | none => true | _ => false) = true ∧
    runs (.tcComplete 0) { counted with owned := ⟨0, false, none, 0x6400, 0x6480⟩ :: counted.owned } (fun t => t.copies.length == 1 && t.waited.length == 1) := by
  decide +kernel

/-- R283: a sum of two products over an accumulator, one that is cut off at the window, a NaN and infinities of both signs. -/
def num (m : Nat) (e : Int) (n : Bool := false) : MxElem := (.num ⟨n, m, e, false⟩, false)
theorem witness_MatrixSums :
    (mxDot .c32 [num 3 0, num 1 0] [num 2 0, num 1 0 true] ⟨0x3F800000, 0⟩) = ⟨0x40C00000, 0, false, false⟩ ∧
    (mxDot .c32 [num 1 0, num 1 (-60)] [num 1 0, num 1 0] ⟨0, 0⟩).tail.getLsbD 0 = true ∧
    (mxDot .c32 [(.nan false, false)] [num 1 0] ⟨0, 0⟩) = ⟨nanBits .f32, 0, true, false⟩ ∧
    (mxDot .c32 [(.inf true, false), (.inf false, false)] [num 1 0, num 1 0] ⟨0, 0⟩).nv = true ∧
    (mxDot .c32 [(.inf true, false)] [num 1 0] ⟨0, 0⟩).v = infBits .f32 true := by decide +kernel

/-- R375 to R377: antenna 0 counts stores of 7 in lanes 0 to 2 and chains nothing; antenna 1 halts the group on its pc. -/
def armed (n : Nat) (a : Antenna) : State := { mem with ants := Store.put n a mem.ants }
def antKey (core n : Nat) : Nat := core * 16 + n
def counter : Antenna := ⟨0x1 + 2 * 1 + 2 ^ 16 * 1, 7, 0xFFFFFFFFFFFFFFFF, 7, 0, 0⟩
theorem witness_AntennaMatches :
    (armed (antKey 0 0) counter).antenna 0 0 = counter ∧
    (armed (antKey 0 0) counter).antMatches 0 { stored := [(some 0, 7), (some 1, 8), (some 2, 7)] } 7 0 false false = [(0, 5)] ∧
    ((armed (antKey 0 0) counter).antennae 0 { stored := [(some 0, 7), (some 1, 8), (some 2, 7)] } 7 0 false false).antenna 0 0 = { counter with count := 2 } ∧
    (((armed (antKey 0 0) { counter with ctl := counter.ctl + 2 ^ 9 }).antennae 0 { stored := [(some 0, 7)] } 7 0 false false).group 0).held = 1 ∧
    runs (.st stF) (vecs (armed (antKey 0 0) counter) 6 [(0, 7), (1, 7)]) (fun t => (t.antenna 0 0).count == 2) := by decide +kernel
/-- The translations of that store stay as they are, since every one hits the core's TLB. -/
theorem witness_TileStores_stable : ∀ u : State, u = { storing with hbm := u.hbm, stratus := u.stratus, host := u.host, peer := u.peer } →
    ∀ c ∈ storing.copies, ∀ r ∈ List.range 2, ∀ p ∈ List.range 4, u.tcSteer c 2 (c.elemAt r p).va = storing.tcSteer c 2 (c.elemAt r p).va := by
  have h : ∀ c ∈ storing.copies, ∀ r ∈ List.range 2, ∀ p ∈ List.range 4, (storing.tlbFind c.core c.asid (c.elemAt r p).va).isSome = true := by
    decide +kernel
  exact fun u hu c hc r hr p hp => Laws.tcSteer_of_hit (h c hc r hr p hp) hu
/-- R207, R208, R210, R218, R237: `prf` brings a line, an acquire at cluster scope drops it; uncorrectable data is met by a poll, whose read is
then in flight. R244: a full queue makes a ring wait. R234, R243, R326: a slot that an engine owns makes a push wait, and a step of the
launcher waits, counted once. -/
def prefetched : State := next (.prf { mf .unused (.scal 5) with ty := .i32 }) mem
theorem test_waits_and_caches :
    prefetched.l1.length = 1 ∧ runs (.fence (mf .unused .unused .unused .i32 0 0 .acquire .cluster)) prefetched (fun t => t.l1.isEmpty) ∧
    runs (.fence (mf .unused .unused .unused .i32 0 0 .acquire .team)) prefetched (fun t => t.l1.length == 1) ∧
    runs (.poll (pollF 1)) { pushing 1 true with poison := [.hbm 0x6400] } (fun t => t.g.loads.any fun l => l.holds && l.bad.isSome) ∧
    waits (.tcRingFill ringF) { tiles.writeScratch 0 0x200 64 ringRec 0 with copies := queued.copies.flatMap (List.replicate 32) } 14 ∧
    (∃ l, (pushing 1 true).lxLoc 1 true (((pushing 1 true).queue 3).recAddr 1) = some l ∧ l = .hbm 0x6040) ∧
    waits (.qpush pF) { pushing 1 true with owned := [⟨1, false, none, 0x6000, 0x6080⟩] } 17 ∧
    runs (.recordSignal 2) (owned (recorded 3 0x400 5)) (fun t => t.waited.length == 1 && t.count (ctrOwned 0) == 1 &&
      runs (.recordSignal 2) t fun u => u.count (ctrOwned 0) == 1 && u.hbm.read 0x6400 8 == 0) := by
  refine ⟨?_, ?_, ?_, ?_, ?_, ⟨_, rfl, ?_⟩, ?_⟩ <;> decide +kernel
/-- R31, R289: a `mx.mma` whose B lies in a tile that an older operation has begun to write does not begin. -/
def secondOp (offset : Nat) : State :=
  let q : Quarter := ⟨0, 0x8000, BitVec.ofNat 64 (0x8000 + 2 ^ 16 + 2 ^ 23 * offset)⟩
  let o : MxOp :=
    { id := 99, grp := 0, team := 1, asid := 1, core := 0, work := .mma 0x400, tile := 5, byte := 0, va := 0, quarters := [some q, none, none, none]
      rowScale := [], colScale := [], bar := none, begun := false, data := [] }
  { begun with mx := Store.put 0 { begun.mxPair 0 with ops := (begun.mxPair 0).ops ++ [o] } begun.mx }
theorem test_quarter_in_window :
    [128, 0].map (fun off => (((secondOp off).mxPair 0).ops.getLast?).map ((secondOp off).quarterWaits 0)) = [some true, some false] ∧
    runs (.mxOpBegin 0) (secondOp 128) (fun t => (t.mxPair 0).ops.map (fun o => o.begun) == [true, false]) := by decide +kernel

/-! ### Witnesses and steps: the machine as a whole -/

theorem canonical_reset : Canonical State.reset := by
  unfold Canonical MemoriesWf
  exact ⟨by decide +kernel, groups_of (by decide +kernel)⟩
/-- A group whose next words are those of `iadd.sat`, and a state whose next move is an event. -/
def ready : State := State.reset.withFetchWord 192 (0x20000200200C008000700000 + 2 ^ 96 * 0xFE0100000000000000000000)
def wordsAre (r : Fetched) (w m : BitVec 96) : Bool := match r with | .words a b => a == w && b == m | _ => false
/-- The same with a load into V3 in flight; the hazard of its next instruction. -/
def loaded : State := ready.setG { ready.g with loads := [mkLoad (ready.g.loadDst always (.vec 3) .n32 [(0, ⟨0, 0⟩)]) (some .ldg) [] none {} []] }
def hazardOf (s : State) : Option Nat := match decode 0x20000200200C008000700000 0xFE0100000000000000000000 with | .ok i => s.hazard i | _ => none
theorem witness_StepRunsDecoded : ready.agenda = [.issue 0] ∧ ready.isReady 0 = true ∧ ready.stepFor 0 = none ∧ (ready.group 0).chrysalis = false ∧
    (ready.group 0).asyncTraps = [] ∧ wordsAre ({ ready with agenda := [], cur := 0 }.fetch (ready.group 0)) 0x20000200200C008000700000 0xFE0100000000000000000000 = true ∧
    (match decode 0x20000200200C008000700000 0xFE0100000000000000000000 with
      | .ok i => i.wf && (ready.hazard i).isNone && (ready.lossOf i).isNone
      | _ => false) = true ∧
    (loaded.agenda = [.issue 0] ∧ loaded.isReady 0 = true ∧ hazardOf loaded = some 3) := by
  decide +kernel
/-- The step itself: lane 5 of V2 is lane 5 of V3 (0) plus 7. -/
theorem test_step : (match step ready with | .next t => (t.group 0).pc == 24 && (t.group 0).retired == 1 && t.vval 2 false 5 == ⟨7, 0⟩ | _ => false) = true := by
  decide +kernel
theorem test_step_event : (match step { ready with agenda := [.event (.holdover)] } with | .next t => t.turns == ready.turns + 1 | _ => false) = true := by
  decide +kernel

theorem witness_RoundTrip : (Instr.iadd (vf (.vec 2) (vr 3) (.imm 7))).wf = true ∧ (Instr.ld (mf (.vec 8) (vr 2))).wf = true ∧
    Instr.wf (.bra (bf 0x30 onP1)) = true := by decide
theorem witness_CanonicalStep : (∃ t, step State.reset = .next t) ∧ Canonical State.reset ∧ Claim.SavedWf State.reset := by
  refine ⟨?_, canonical_reset, fun x h => absurd h List.not_mem_nil⟩
  have h : (match step State.reset with | .next _ => true | _ => false) = true := by decide +kernel
  revert h
  cases step State.reset with
  | next t => exact fun _ => ⟨t, rfl⟩
  | fault _ => intro h; cases h
  | refused _ => intro h; cases h
/-- After a step that writes a register the state is canonical as well. -/
theorem test_canonical : (match step ready with | .next t => t.hbm.wf && Store.wf TWord.zero t.scratch && t.groups.length == 1 | _ => false) = true := by
  decide +kernel
end Sys2Proof.Tests
end

section
/-! SUPPORT. Writes of a location: the bytes of a value, what a write at a location leaves alone, and what reads back (O23). -/

namespace Sys2Proof.Proofs

open Sys2Proof.Machine Sys2Proof.Safety

/-! ### Little-endian values (R2) -/

theorem length_leBytes (n v : Nat) : (leBytes n v).length = n := by
  induction n generalizing v with
  | zero => rfl
  | succ n ih => simp [leBytes, ih]

theorem leBytes_getD (n v j : Nat) (h : j < n) : (leBytes n v).getD j 0 = BitVec.ofNat 8 (v / 256 ^ j) := by
  induction n generalizing v j with
  | zero => omega
  | succ n ih =>
    cases j with
    | zero => simp [leBytes]
    | succ j =>
      rw [leBytes, List.getD_cons_succ, ih _ _ (by omega), Nat.div_div_eq_div_mul, Nat.pow_succ']

theorem leValue_leBytes (n v : Nat) : leValue (leBytes n v) = v % 256 ^ n := by
  induction n generalizing v with
  | zero => simp [leBytes, leValue, Nat.mod_one]
  | succ n ih =>
    rw [leBytes, leValue, ih, BitVec.toNat_ofNat, show 2 ^ 8 = 256 from rfl, Nat.pow_succ', Nat.mod_mul]

theorem leBytes_append (m n v : Nat) : leBytes (m + n) v = leBytes m v ++ leBytes n (v / 256 ^ m) := by
  induction m generalizing v with
  | zero => simp [leBytes]
  | succ m ih =>
    rw [Nat.succ_add, leBytes, ih, leBytes, List.cons_append, Nat.div_div_eq_div_mul, Nat.pow_succ']

theorem leBytes_mod (n v : Nat) : leBytes n (v % 256 ^ n) = leBytes n v := by
  induction n generalizing v with
  | zero => rfl
  | succ n ih =>
    rw [leBytes, leBytes, Nat.pow_succ', Nat.mod_mul_right_div_self, ih]
    congr 1
    apply BitVec.eq_of_toNat_eq
    simp

/-- The bytes of a value of whole words are those of its words, lowest first. -/
theorem leBytes_words (m v : Nat) :
    leBytes (4 * m) v = (List.range m).flatMap fun k => leBytes 4 (v / 2 ^ (32 * k) % 2 ^ 32) := by
  induction m with
  | zero => rfl
  | succ m ih =>
    have h256 : 256 ^ (4 * m) = 2 ^ (32 * m) := by
      rw [show (256 : Nat) = 2 ^ 8 from rfl, ← Nat.pow_mul]; congr 1; omega
    rw [Nat.mul_succ, leBytes_append, ih, List.range_succ, List.flatMap_append, h256]
    simp [← leBytes_mod 4 (v / 2 ^ (32 * m))]

end Sys2Proof.Proofs

namespace Sys2Proof.Safety

open Sys2Proof.Machine

/-! ### The frame of a write -/

theorem OnlyStores.refl (s : State) (ls : List Loc) (n : Nat) : OnlyStores s s ls n :=
  ⟨fun _ _ => rfl, fun _ _ => rfl, fun _ _ => rfl, fun _ _ => rfl, fun _ _ => rfl⟩

theorem OnlyStores.trans {s t u : State} {ls : List Loc} {n : Nat} (h : OnlyStores s t ls n) (h' : OnlyStores t u ls n) :
    OnlyStores s u ls n :=
  ⟨fun a ha => (h'.hbm a ha).trans (h.hbm a ha), fun a ha => (h'.host a ha).trans (h.host a ha),
   fun a ha => (h'.peer a ha).trans (h.peer a ha), fun a ha => (h'.stratus a ha).trans (h.stratus a ha),
   fun a ha => (h'.scratch a ha).trans (h.scratch a ha)⟩

/-- States with equal memories: the same stores lead to both. -/
theorem OnlyStores.of_memories {s t u : State} {ls : List Loc} {n : Nat} (h : OnlyStores s t ls n) (h1 : u.hbm = t.hbm)
    (h2 : u.host = t.host) (h3 : u.peer = t.peer) (h4 : u.stratus = t.stratus) (h5 : u.scratch = t.scratch) :
    OnlyStores s u ls n := by
  refine ⟨?_, ?_, ?_, ?_, ?_⟩
  · rw [h1]; exact h.hbm
  · rw [h2]; exact h.host
  · rw [h3]; exact h.peer
  · rw [h4]; exact h.stratus
  · rw [h5]; exact h.scratch

end Sys2Proof.Safety

namespace Sys2Proof.Proofs

open Sys2Proof.Machine Sys2Proof.Safety

/-! ### Bytes at their home (R19, R195, R419) -/

/-- Does a byte written at a location reach a home? Nothing does behind an entry that cannot be read, in scratchpad or in the stack
record, which hold no bytes, or for a host that has failed. -/
def Reaches (s : State) (l : Loc) (k : Nat) : Prop :=
  match l with
  | .host pa => s.hostDown.contains (hostPortOf (pa + k)) = false
  | .lost | .scratch _ _ | .record _ => False
  | _ => True

theorem stackByte_inj {b x i j k : Nat} (h : stackByte b (x + j) i = stackByte b (x + k) i) : j = k := by
  unfold stackByte at h
  omega

/-- A byte written at its home is read there, and every other byte of the location is as before. -/
theorem homeByte_setHomeByte (s : State) (l : Loc) (k j : Nat) (b : Byte) (h : Reaches s l j) :
    (s.setHomeByte l k b).homeByte l j = if j = k then b else s.homeByte l j := by
  cases l with
  | stack lb x i =>
    have hj : stackByte lb (x + j) i = stackByte lb (x + k) i ↔ j = k := ⟨stackByte_inj, fun e => by rw [e]⟩
    simp only [State.setHomeByte, State.homeByte, Memory.byte_setByte, hj]
  | hbm pa => simp [State.setHomeByte, State.homeByte, Memory.byte_setByte]
  | peer d pa => simp [State.setHomeByte, State.homeByte, Memory.byte_setByte]
  | stratus o => simp [State.setHomeByte, State.homeByte, Memory.byte_setByte]
  | host pa =>
    rw [State.setHomeByte]
    split
    · rename_i hk
      rw [if_neg fun e => Bool.false_ne_true (by rw [← show _ = false from h, e]; exact hk)]
    · simp [State.homeByte, Memory.byte_setByte]
  | _ => exact absurd h id

/-- A byte written at its home changes the memories of bytes only. -/
theorem setHomeByte_frame (s : State) (l : Loc) (k : Nat) (b : Byte) :
    ∃ m st ho pe, s.setHomeByte l k b = { s with hbm := m, stratus := st, host := ho, peer := pe } := by
  cases l with
  | host pa =>
    rw [State.setHomeByte]
    split
    · exact ⟨_, _, _, _, rfl⟩
    · exact ⟨s.hbm, s.stratus, _, s.peer, rfl⟩
  | _ => exact ⟨_, _, _, _, rfl⟩

theorem onlyStores_setHomeByte (s : State) (l : Loc) {k n : Nat} (b : Byte) (hk : k < n) :
    OnlyStores s (s.setHomeByte l k b) [l] n := by
  have refl := OnlyStores.refl s [l] n
  have one : ∀ (m : Memory) (x a : Nat), a ≠ x → (m.setByte x b).byte a = m.byte a :=
    fun m x a h => by rw [Memory.byte_setByte, if_neg h]
  cases l with
  | hbm pa =>
    refine { refl with hbm := fun a ha => one _ _ _ fun e => ?_ }
    exact ha _ (List.mem_singleton_self _) k hk (congrArg some e.symm)
  | stack lb x i =>
    refine { refl with hbm := fun a ha => one _ _ _ fun e => ?_ }
    exact ha _ (List.mem_singleton_self _) k hk (congrArg some e.symm)
  | peer d pa =>
    refine { refl with peer := fun a ha => one _ _ _ fun e => ?_ }
    exact ha _ (List.mem_singleton_self _) d pa rfl (by omega)
  | stratus o =>
    exact { refl with stratus := fun a ha => absurd rfl (ha _ (List.mem_singleton_self _) o) }
  | host pa =>
    rw [State.setHomeByte]
    split
    · exact refl
    · refine { refl with host := fun a ha => one _ _ _ fun e => ?_ }
      exact ha _ (List.mem_singleton_self _) pa rfl (by omega)
  | _ => exact refl

theorem memoriesWf_setHomeByte {s : State} (h : MemoriesWf s) (l : Loc) (k : Nat) (b : Byte) :
    MemoriesWf (s.setHomeByte l k b) := by
  obtain ⟨h1, h2, h3, h4, h5, h6⟩ := h
  cases l with
  | hbm pa => exact ⟨Memory.wf_setByte h1 _ _, h2, h3, h4, h5, h6⟩
  | stack lb x i => exact ⟨Memory.wf_setByte h1 _ _, h2, h3, h4, h5, h6⟩
  | peer d pa => exact ⟨h1, h2, h3, Memory.wf_setByte h4 _ _, h5, h6⟩
  | stratus o => exact ⟨h1, Memory.wf_setByte h2 _ _, h3, h4, h5, h6⟩
  | host pa =>
    rw [State.setHomeByte]
    split
    · exact ⟨h1, h2, h3, h4, h5, h6⟩
    · exact ⟨h1, h2, Memory.wf_setByte h3 _ _, h4, h5, h6⟩
  | _ => exact ⟨h1, h2, h3, h4, h5, h6⟩

theorem reaches_setHomeByte (s : State) (l : Loc) (k j : Nat) (b : Byte) : Reaches (s.setHomeByte l k b) l j ↔ Reaches s l j := by
  obtain ⟨m, st, ho, pe, e⟩ := setHomeByte_frame s l k b
  rw [e]; exact Iff.rfl

/-- Which host ports have failed does not change while bytes are written. -/
theorem hostDown_writeHomeBytes (s : State) (l : Loc) (k : Nat) (bs : List Byte) :
    (s.writeHomeBytes l k bs).hostDown = s.hostDown := by
  induction bs generalizing s k with
  | nil => rfl
  | cons b bs ih =>
    obtain ⟨m, st, ho, pe, e⟩ := setHomeByte_frame s l k b
    rw [State.writeHomeBytes, ih, e]

theorem onlyStores_writeHomeBytes (s : State) (l : Loc) (k n : Nat) (bs : List Byte) (h : k + bs.length ≤ n) :
    OnlyStores s (s.writeHomeBytes l k bs) [l] n := by
  induction bs generalizing s k with
  | nil => exact OnlyStores.refl s [l] n
  | cons b bs ih =>
    rw [List.length_cons] at h
    exact (onlyStores_setHomeByte s l b (by omega)).trans (ih _ (k + 1) (by omega))

theorem memoriesWf_writeHomeBytes {s : State} (h : MemoriesWf s) (l : Loc) (k : Nat) (bs : List Byte) :
    MemoriesWf (s.writeHomeBytes l k bs) := by
  induction bs generalizing s k with
  | nil => exact h
  | cons b bs ih => exact ih (memoriesWf_setHomeByte h l k b) (k + 1)

/-- Bytes written at a location are read there where they reach a home. -/
theorem homeByte_writeHomeBytes (s : State) (l : Loc) (k j : Nat) (bs : List Byte) (h : Reaches s l j) :
    (s.writeHomeBytes l k bs).homeByte l j = if k ≤ j ∧ j < k + bs.length then bs.getD (j - k) 0 else s.homeByte l j := by
  induction bs generalizing s k with
  | nil => rw [State.writeHomeBytes, if_neg (by rw [List.length_nil]; omega)]
  | cons b bs ih =>
    rw [State.writeHomeBytes, ih _ _ ((reaches_setHomeByte s l k j b).mpr h)]
    rw [homeByte_setHomeByte s l k j b h]
    by_cases hj : j = k
    · subst hj
      rw [if_neg (by omega), if_pos rfl, if_pos (by simp)]
      simp
    · by_cases hin : k + 1 ≤ j ∧ j < k + 1 + bs.length
      · have e : j - k = (j - (k + 1)) + 1 := by omega
        rw [if_pos hin, if_pos (by rw [List.length_cons]; omega), e, List.getD_cons_succ]
      · rw [if_neg hin, if_neg hj, if_neg (by rw [List.length_cons]; omega)]

/-! ### Stores through the L1 (R208) -/

/-- A store through an L1 changes its lines and what is uncorrectable in them. -/
theorem l1StoreBytes_frame (s : State) (core : Nat) (nol1 : Bool) (l : Loc) (k : Nat) (bs : List Byte) :
    ∃ m p, s.l1StoreBytes core nol1 l k bs = { s with l1 := m, poison := p } := by
  have one : ∀ (t : State) (pa : Nat) (b : Byte), ∃ m p, t.l1Store core nol1 pa b = { t with l1 := m, poison := p } := by
    intro t pa b
    unfold State.l1Store
    split
    · exact ⟨t.l1, t.poison, rfl⟩
    · split
      · exact ⟨_, t.poison, rfl⟩
      · exact ⟨_, _, rfl⟩
  induction bs generalizing s k with
  | nil => exact ⟨s.l1, s.poison, rfl⟩
  | cons b bs ih =>
    rw [State.l1StoreBytes]
    split
    · rename_i pa _
      obtain ⟨m, p, e⟩ := ih (s.l1Store core nol1 pa b) (k + 1)
      obtain ⟨m', p', e'⟩ := one s pa b
      exact ⟨m, p, by rw [e, e']⟩
    · exact ih s (k + 1)

/-! ### Words of scratchpad (R39, R40) -/

theorem sword_setSword (s : State) (c b c' b' : Nat) (w : TWord) :
    (s.setSword c b w).sword c' b' = if scratchKey c' b' = scratchKey c b then w else s.sword c' b' :=
  Store.get_set ..

theorem scratchKey_add_words (c b j : Nat) : scratchKey c (b + 4 * j) = scratchKey c b + j := by
  unfold scratchKey
  omega

theorem onlyStores_setSword (s : State) (c b j n : Nat) (w : TWord) (h : j < (n + 3) / 4) :
    OnlyStores s (s.setSword c (b + 4 * j) w) [.scratch c b] n := by
  refine { OnlyStores.refl s [.scratch c b] n with scratch := fun a ha => ?_ }
  have hout := ha _ (List.mem_singleton_self _) c b rfl
  refine (Store.get_set TWord.zero s.scratch _ a w).trans (if_neg fun e => hout ?_)
  rw [scratchKey_add_words] at e
  omega

theorem memoriesWf_setSword {s : State} (h : MemoriesWf s) (c b : Nat) (w : TWord) : MemoriesWf (s.setSword c b w) := by
  obtain ⟨h1, h2, h3, h4, h5, h6⟩ := h
  exact ⟨h1, h2, h3, h4, Store.wf_set _ _ _ h5, h6⟩

/-- Words written upward change the words from the first on, and nothing else. -/
theorem onlyStores_writeWords (s : State) (c b j m n : Nat) (tail : Tail) (v : Nat) (h : j + m ≤ (n + 3) / 4) :
    OnlyStores s (s.writeWords c (b + 4 * j) tail v m) [.scratch c b] n := by
  induction m generalizing s j tail v with
  | zero => exact OnlyStores.refl s _ n
  | succ m ih =>
    exact (onlyStores_setSword s c b j n _ (by omega)).trans (ih _ (j + 1) 0 _ (by omega))

theorem memoriesWf_writeWords {s : State} (h : MemoriesWf s) (c b m : Nat) (tail : Tail) (v : Nat) :
    MemoriesWf (s.writeWords c b tail v m) := by
  induction m generalizing s b tail v with
  | zero => exact h
  | succ m ih => exact ih (memoriesWf_setSword h c b _) (b + 4) 0 _

/-- Words below those written are as before. -/
theorem sword_writeWords_below (s : State) (c b b' m : Nat) (tail : Tail) (v : Nat) (h : b' / 4 < b / 4) :
    (s.writeWords c b tail v m).sword c b' = s.sword c b' := by
  induction m generalizing s b tail v with
  | zero => rfl
  | succ m ih =>
    rw [State.writeWords, ih _ _ _ _ (by omega), sword_setSword, if_neg (by unfold scratchKey; omega)]

/-- Words written upward hold the value's words, lowest first, the first with the tail. -/
theorem sword_writeWords (s : State) (c b m j : Nat) (tail : Tail) (v : Nat) (h : j < m) :
    (s.writeWords c b tail v m).sword c (b + 4 * j) = ⟨BitVec.ofNat 32 (v / 2 ^ (32 * j)), if j = 0 then tail else 0⟩ := by
  induction m generalizing s b tail v j with
  | zero => omega
  | succ m ih =>
    rw [State.writeWords]
    cases j with
    | zero =>
      rw [sword_writeWords_below _ _ _ _ _ _ _ (by omega), sword_setSword, if_pos rfl]
      simp
    | succ j =>
      have hb : b + 4 * (j + 1) = (b + 4) + 4 * j := by omega
      have hv : v / 2 ^ 32 / 2 ^ (32 * j) = v / 2 ^ (32 * (j + 1)) := by
        rw [Nat.div_div_eq_div_mul, ← Nat.pow_add]; congr 2; omega
      rw [hb, ih _ _ _ _ _ (by omega), hv]
      simp

/-- The bits of a part of a word written, read back. -/
theorem part_of_word (old x : Word) (sh w : Nat) (h : sh + w ≤ 32) :
    (((old &&& ~~~((BitVec.ofNat 32 (2 ^ w - 1)) <<< sh)) ||| ((x <<< sh) &&& ((BitVec.ofNat 32 (2 ^ w - 1)) <<< sh))).toNat
      / 2 ^ sh) % 2 ^ w = x.toNat % 2 ^ w := by
  apply Nat.eq_of_testBit_eq
  intro i
  rw [Nat.testBit_mod_two_pow, Nat.testBit_mod_two_pow, Nat.testBit_div_two_pow]
  by_cases hi : i < w
  · have h32 : i + sh < 32 := by omega
    have hbit : (2 ^ w - 1 : Nat).testBit i = true := by simpa using hi
    simp only [BitVec.testBit_toNat, BitVec.getLsbD_or, BitVec.getLsbD_and, BitVec.getLsbD_not, BitVec.getLsbD_shiftLeft,
      BitVec.getLsbD_ofNat, hi, h32, Nat.add_sub_cancel, hbit, show ¬ (i + sh < sh) by omega, show i < 32 by omega, decide_true, decide_false,
      Bool.true_and, Bool.not_true, Bool.not_false, Bool.and_false, Bool.and_true, Bool.false_or]
  · simp [hi]

/-! ### A write of a location (R70) -/

/-- A part of a word, or words, written and read back. -/
theorem readScratch_writeScratch (s : State) (c b n v : Nat) (tail : Tail) (h : InWords b n) :
    (s.writeScratch c b n v tail).readScratch c b n = v % 256 ^ n := by
  obtain ⟨hn, hb⟩ := h
  have h256 : (256 : Nat) ^ n = 2 ^ (8 * n) := by rw [show (256 : Nat) = 2 ^ 8 from rfl, ← Nat.pow_mul]
  by_cases h4 : n < 4
  · have hfit : 8 * (b % 4) + 8 * n ≤ 32 := by omega
    rw [State.writeScratch, if_pos h4, State.readScratch, if_pos h4, sword_setSword, if_pos rfl, part_of_word _ _ _ _ hfit, h256,
      BitVec.toNat_ofNat, Nat.mod_mod_of_dvd _ (Nat.pow_dvd_pow 2 (by omega))]
  · obtain ⟨m, rfl⟩ : ∃ m, n = 4 * m := by
      simp only [List.mem_cons, List.not_mem_nil, or_false] at hn
      exact ⟨n / 4, by omega⟩
    have hm : 4 * m / 4 = m := by omega
    rw [State.writeScratch, if_neg h4, State.readScratch, if_neg h4, ← leValue_leBytes, leBytes_words, hm]
    congr 1
    rw [List.flatMap_def, List.flatMap_def]
    refine congrArg List.flatten (List.map_congr_left fun j hj => ?_)
    rw [sword_writeWords _ _ _ _ _ _ _ (List.mem_range.mp hj), BitVec.toNat_ofNat]

/-- The tails that a write of scratchpad leaves (R40). -/
theorem tail_writeScratch (s : State) (c b n v j : Nat) (tail : Tail) (h : j < max 1 (n / 4)) :
    ((s.writeScratch c b n v tail).sword c (b + 4 * j)).tail = if j = 0 ∧ 4 ≤ n then tail else 0 := by
  by_cases h4 : n < 4
  · obtain rfl : j = 0 := by omega
    rw [State.writeScratch, if_pos h4, Nat.mul_zero, Nat.add_zero, sword_setSword, if_pos rfl, if_neg (by omega)]
  · rw [State.writeScratch, if_neg h4, sword_writeWords _ _ _ _ _ _ _ (by omega)]
    by_cases hj : j = 0
    · rw [if_pos hj, if_pos ⟨hj, by omega⟩]
    · rw [if_neg hj, if_neg fun e => hj e.1]

theorem onlyStores_writeScratch (s : State) (c b n v : Nat) (tail : Tail) (h : 0 < n) :
    OnlyStores s (s.writeScratch c b n v tail) [.scratch c b] n := by
  rw [State.writeScratch]
  split
  · exact onlyStores_setSword s c b 0 n _ (by omega)
  · exact onlyStores_writeWords s c b 0 (n / 4) n tail v (by omega)

theorem memoriesWf_writeScratch {s : State} (h : MemoriesWf s) (c b n v : Nat) (tail : Tail) :
    MemoriesWf (s.writeScratch c b n v tail) := by
  rw [State.writeScratch]
  split
  · exact memoriesWf_setSword h c b _
  · exact memoriesWf_writeWords h c b _ tail v

/-- A word of the stack record written changes a group or a context, and no memory. -/
theorem writeRecord_frame (s : State) (k off : Nat) (v : DWord) :
    ∃ gs cs, s.writeRecord k off v = { s with groups := gs, ctxs := cs } := by
  unfold State.writeRecord
  split <;> exact ⟨_, _, rfl⟩

/-- A word of the stack record, written, is read back. -/
theorem readRecord_writeRecord (s : State) (k off : Nat) (v : DWord) :
    (s.writeRecord k off v).readRecord ((s.writeRecord k off v).group k) off = v := by
  have same : ∀ c, (s.putCtx (s.group k).asid c).group k = s.group k := fun _ => rfl
  unfold State.writeRecord State.readRecord
  rcases h : off / 8 with _ | _ | _ | _ | _ | _ | _ | m <;> simp [State.group_putGroup_same, same]

/-- A location of bytes: a place in HBM, on a stack, in host, peer or Stratus memory, or none. -/
def OfBytes (l : Loc) : Prop := (∀ c b, l ≠ .scratch c b) ∧ ∀ o, l ≠ .record o

/-- A location of bytes takes the value's bytes; beyond the memories only the L1s and what is uncorrectable in them change. -/
theorem writeLoc_bytes (s : State) (k : Nat) (nol1 : Bool) (l : Loc) (n v : Nat) (tail : Tail) (h : OfBytes l) :
    ∃ m p, s.writeLoc k nol1 l n v tail = { s.writeHomeBytes l 0 (leBytes n v) with l1 := m, poison := p } := by
  obtain ⟨m, p, e⟩ := l1StoreBytes_frame (s.writeHomeBytes l 0 (leBytes n v)) (s.group k).core nol1 l 0 (leBytes n v)
  refine ⟨m, p, Eq.trans ?_ e⟩
  cases l with
  | scratch c b => exact absurd rfl (h.1 c b)
  | record o => exact absurd rfl (h.2 o)
  | _ => rfl

/-- The j-th byte of a value written at a location of bytes, at its home. -/
theorem homeByte_writeLoc (s : State) (k : Nat) (nol1 : Bool) (l : Loc) (n v j : Nat) (tail : Tail) (h : Reaches s l j) (hj : j < n) :
    (s.writeLoc k nol1 l n v tail).homeByte l j = BitVec.ofNat 8 (v / 256 ^ j) := by
  have hl : OfBytes l := by
    constructor
    · rintro c b rfl; exact h
    · rintro o rfl; exact h
  obtain ⟨m, p, e⟩ := writeLoc_bytes s k nol1 l n v tail hl
  have hsame : ({ s.writeHomeBytes l 0 (leBytes n v) with l1 := m, poison := p } : State).homeByte l j
      = (s.writeHomeBytes l 0 (leBytes n v)).homeByte l j := by cases l <;> rfl
  rw [e, hsame, homeByte_writeHomeBytes s l 0 j _ h, length_leBytes, if_pos (by omega), Nat.sub_zero, leBytes_getD n v j hj]

theorem memoriesWf_writeLoc {s : State} (h : MemoriesWf s) (k : Nat) (nol1 : Bool) (l : Loc) (n v : Nat) (tail : Tail) :
    MemoriesWf (s.writeLoc k nol1 l n v tail) := by
  have bytes : OfBytes l → MemoriesWf (s.writeLoc k nol1 l n v tail) := by
    intro hl
    obtain ⟨m, p, e⟩ := writeLoc_bytes s k nol1 l n v tail hl
    rw [e]; exact memoriesWf_writeHomeBytes h l 0 _
  cases l with
  | scratch c b => exact memoriesWf_writeScratch h c b n v tail
  | record o =>
    obtain ⟨gs, cs, e⟩ := writeRecord_frame s k o (BitVec.ofNat 64 v)
    rw [State.writeLoc, e]; exact h
  | _ => exact bytes ⟨nofun, nofun⟩

theorem onlyStores_writeLoc (s : State) (k : Nat) (nol1 : Bool) (l : Loc) (n v : Nat) (tail : Tail) (h : 0 < n) :
    OnlyStores s (s.writeLoc k nol1 l n v tail) [l] n := by
  have bytes : OfBytes l → OnlyStores s (s.writeLoc k nol1 l n v tail) [l] n := by
    intro hl
    obtain ⟨m, p, e⟩ := writeLoc_bytes s k nol1 l n v tail hl
    rw [e]
    exact (onlyStores_writeHomeBytes s l 0 n _ (by rw [length_leBytes]; omega)).of_memories rfl rfl rfl rfl rfl
  cases l with
  | scratch c b => exact onlyStores_writeScratch s c b n v tail h
  | record o =>
    obtain ⟨gs, cs, e⟩ := writeRecord_frame s k o (BitVec.ofNat 64 v)
    rw [State.writeLoc, e]; exact (OnlyStores.refl s [.record o] n).of_memories rfl rfl rfl rfl rfl
  | _ => exact bytes ⟨nofun, nofun⟩

theorem hostDown_writeLoc (s : State) (k : Nat) (nol1 : Bool) (l : Loc) (n v : Nat) (tail : Tail) (h : OfBytes l) :
    (s.writeLoc k nol1 l n v tail).hostDown = s.hostDown := by
  obtain ⟨m, p, e⟩ := writeLoc_bytes s k nol1 l n v tail h
  rw [e]; exact hostDown_writeHomeBytes s l 0 _

/-- A byte of a location in HBM is the byte of HBM there. -/
theorem homeByte_of_hbmByte {l : Loc} {k a : Nat} (h : l.hbmByte k = some a) (s : State) :
    s.homeByte l k = s.hbm.byte a ∧ Reaches s l k := by
  cases l with
  | hbm pa => obtain rfl := Option.some.inj h; exact ⟨rfl, trivial⟩
  | stack b x i => obtain rfl := Option.some.inj h; exact ⟨rfl, trivial⟩
  | _ => cases h

/-- A location holds what has been written there. -/
theorem holds_writeLoc (s : State) (k : Nat) (nol1 : Bool) (l : Loc) (n v : Nat) (tail : Tail) :
    Holds (s.writeLoc k nol1 l n v tail) k l n v tail := by
  refine ⟨?_, ?_, ?_, ?_, ?_⟩
  · intro j a hj ha
    rw [← (homeByte_of_hbmByte ha _).1]
    exact homeByte_writeLoc s k nol1 l n v j tail (homeByte_of_hbmByte ha s).2 hj
  · rintro pa j rfl hj hup
    rw [hostDown_writeLoc s k nol1 (.host pa) n v tail ⟨nofun, nofun⟩] at hup
    exact homeByte_writeLoc s k nol1 (.host pa) n v j tail hup hj
  · rintro d pa j rfl hj
    exact homeByte_writeLoc s k nol1 (.peer d pa) n v j tail trivial hj
  · rintro c b rfl hw
    exact ⟨readScratch_writeScratch s c b n v tail hw, fun j hj => tail_writeScratch s c b n v j tail hj⟩
  · rintro o rfl
    exact readRecord_writeRecord s k o _

/-- A location whose bytes are those of a value reads as the value. -/
theorem leValue_homeBytes {t : State} {l : Loc} {n v : Nat} (h : ∀ j, j < n → t.homeByte l j = BitVec.ofNat 8 (v / 256 ^ j)) :
    leValue ((List.range n).map (t.homeByte l)) = v % 256 ^ n := by
  rw [← leValue_leBytes]
  congr 1
  refine List.ext_getElem (by simp [length_leBytes]) fun j h1 h2 => ?_
  have hj : j < n := by simpa using h1
  have e := leBytes_getD n v j hj
  rw [List.getD_eq_getElem?_getD, List.getElem?_eq_getElem h2, Option.getD_some] at e
  rw [e]
  simpa using h j hj

/-- Settles O23: the bytes written are the value's, at their home, in scratchpad word by word; the frame is that of each byte or word
written. -/
theorem writeThenRead : Obligations.WriteThenRead := by
  intro s k n v nol1 l tail hn hwf
  refine ⟨memoriesWf_writeLoc hwf k nol1 l n v tail, onlyStores_writeLoc s k nol1 l n v tail hn,
    holds_writeLoc s k nol1 l n v tail, ?_⟩
  intro hup hlost hrec hwords
  have bytes : (∀ j, j < n → Reaches s l j) → leValue ((List.range n).map ((s.writeLoc k nol1 l n v tail).homeByte l)) = v % 256 ^ n :=
    fun h => leValue_homeBytes fun j hj => homeByte_writeLoc s k nol1 l n v j tail (h j hj) hj
  cases l with
  | lost => exact absurd rfl hlost
  | record o => exact absurd rfl (hrec o)
  | scratch c b => exact readScratch_writeScratch s c b n v tail (hwords c b rfl)
  | host pa => exact bytes fun j hj => hup pa j rfl hj
  | _ => exact bytes fun _ _ => trivial

end Sys2Proof.Proofs
end

section
/-! SUPPORT. What reset leaves (O56). -/

namespace Sys2Proof.Proofs

open Sys2Proof.Machine Sys2Proof.Safety

/-- Empty memories and an empty table of groups are in canonical form. -/
theorem canonical_of_empty {s : State} (h1 : s.hbm = []) (h2 : s.stratus = []) (h3 : s.host = []) (h4 : s.peer = [])
    (h5 : s.scratch = []) (h6 : s.accum = []) (h7 : s.groups = []) : Canonical s := by
  refine ⟨⟨?_, ?_, ?_, ?_, ?_, ?_⟩, ?_⟩
  · rw [h1]; rfl
  · rw [h2]; rfl
  · rw [h3]; rfl
  · rw [h4]; rfl
  · rw [h5]; rfl
  · rw [h6]; rfl
  · unfold GroupsWf; rw [h7]; exact List.Pairwise.nil

/-- Settles O56: every table is empty after reset, so every entry reads as its default (`Store.get_nil`). -/
theorem resetState : Obligations.ResetState := by
  refine ⟨canonical_of_empty rfl rfl rfl rfl rfl rfl rfl, fun a => ?memories, fun a => ?words, fun k => ?groups, fun q => ?queues,
    fun c => ?comms, fun core n => ?antennae, fun core a => ?wayMask, rfl⟩
  case memories => exact ⟨Store.get_nil 0 a, Store.get_nil 0 a, Store.get_nil 0 a, Store.get_nil 0 a⟩
  case words => exact ⟨Store.get_nil _ a, Store.get_nil _ a⟩
  case groups => exact congrArg Group.resident (Store.get_nil Group.empty k)
  case queues => rw [show State.reset.queue q = Queue.empty from Store.get_nil _ q]; exact ⟨rfl, rfl, rfl, rfl, rfl⟩
  case comms => rw [show Store.get Comm.empty State.reset.comms c = Comm.empty from Store.get_nil _ c]; exact ⟨rfl, rfl, rfl, rfl, rfl⟩
  case antennae =>
    rw [show State.reset.antenna core n = Antenna.zero from Store.get_nil _ _]; exact ⟨rfl, rfl, rfl, rfl⟩
  case wayMask => exact congrArg CtxCore.ways (Store.get_nil CtxCore.empty _)

end Sys2Proof.Proofs
end

section
/-! SUPPORT. `srd` and `swr`: what a system register reads after a write of the group or of its context on its core, and how the two
instructions end (O47). -/

namespace Sys2Proof.Proofs

open Sys2Proof.Machine Sys2Proof.Safety

/-! ### What a system register reads (R41 to R47, R366) -/

/-- The registers that `swr` can write, with their values: those that the group holds. -/
def groupRegs (g : Group) : List (Nat × DWord) :=
  [(0x10, g.retired), (0x11, g.dix), (0x18, g.trapBase), (0x19, g.cause), (0x1A, g.epc), (0x1B, g.ema), (0x1C, g.emb), (0x1D, g.emc),
   (0x1E, g.faddr), (0x1F, g.shownFinfo), (0x20, g.viewV), (0x21, g.viewT), (0x22, g.viewA),
   (0x31, BitVec.ofNat 64 (bitNat g.mode + 2 * bitNat g.dbg))]

/-- The registers that `swr` can write, with their values: those of a context on a core. -/
def coreRegs (c : CtxCore) : List (Nat × DWord) :=
  [(0x28, c.apscr), (0x29, c.apstk), (0x2A, c.apstr), (0x38, c.ways.setWidth 64)]

/-- The group `h` is `g` but for registers that `swr` can write. -/
structure OnlyRegs (g h : Group) : Prop where
  eq : h = { g with
    retired := h.retired, dix := h.dix, trapBase := h.trapBase, cause := h.cause, epc := h.epc, ema := h.ema, emb := h.emb, emc := h.emc
    faddr := h.faddr, finfo := h.finfo, viewV := h.viewV, viewT := h.viewT, viewA := h.viewA, mode := h.mode }

/-- A register reads the same for two groups and contexts that differ in other registers only. -/
theorem sysReg_congr {s x : State} {k m : Nat} (lane : Nat) (hx : x = { s with groups := x.groups, ctxCores := x.ctxCores })
    (hg : OnlyRegs (s.group k) (x.group k))
    (h1 : (groupRegs (x.group k)).lookup m = (groupRegs (s.group k)).lookup m)
    (h2 : (coreRegs (x.ctxCore (s.group k).core (s.group k).asid)).lookup m = (coreRegs (s.ctxCore (s.group k).core (s.group k).asid)).lookup m) :
    x.sysReg k m lane = s.sysReg k m lane := by
  have eteam : x.team = s.team := by rw [hx]; rfl
  have etask : x.taskOf = s.taskOf := by rw [hx]; rfl
  have eocc : x.l1Occ = s.l1Occ := by rw [hx]; rfl
  have eindex : (x.group k).index = (s.group k).index := by rw [hg.eq]
  have eteamk : (x.group k).team = (s.group k).team := by rw [hg.eq]
  have ecore : (x.group k).core = (s.group k).core := by rw [hg.eq]
  have easid : (x.group k).asid = (s.group k).asid := by rw [hg.eq]
  have ejsd : (x.group k).jsd = (s.group k).jsd := by rw [hg.eq]; rfl
  unfold State.sysReg
  simp only [eteam, etask, eocc, eindex, eteamk, ecore, easid, ejsd]
  clear hx hg
  split <;> simp_all [groupRegs, coreRegs, List.lookup]

/-- A register of the group reads its value. -/
theorem sysReg_of_groupRegs {x : State} {k n : Nat} {v : DWord} (lane : Nat) (h : (n, v) ∈ groupRegs (x.group k)) :
    x.sysReg k n lane = v := by
  simp only [groupRegs, List.mem_cons, List.not_mem_nil, or_false, Prod.mk.injEq] at h
  rcases h with h | h | h | h | h | h | h | h | h | h | h | h | h | h
  all_goals obtain ⟨rfl, rfl⟩ := h; rfl

/-- A register of the context on the core reads its value. -/
theorem sysReg_of_coreRegs {x : State} {k n : Nat} {v : DWord} (lane : Nat)
    (h : (n, v) ∈ coreRegs (x.ctxCore (x.group k).core (x.group k).asid)) : x.sysReg k n lane = v := by
  simp only [coreRegs, List.mem_cons, List.not_mem_nil, or_false, Prod.mk.injEq] at h
  rcases h with h | h | h | h
  all_goals obtain ⟨rfl, rfl⟩ := h; rfl

/-! ### `srd` (R373) -/

/-- The vector destination of `srd` lies in the view, and LANEID goes to no scalar. -/
theorem srd_checks_iff (f : VForm) (s : State) :
    ((f.d.vecOp (!narrowReg f.a.specialNum)).all s.g.vecOk && !(f.d.isScal && f.a.specialNum == 0)) = true ↔
      (∀ o ∈ f.d.vecOp (!narrowReg f.a.specialNum), s.g.vecOk o = true) ∧ ¬ ((∃ d, f.d = .scal d) ∧ f.a.specialNum = 0) := by
  have hscal : f.d.isScal = true ↔ ∃ d, f.d = .scal d := by cases f.d <;> simp [Dst.isScal]
  rw [← hscal]
  cases f.d.isScal <;> simp [List.all_eq_true]

theorem trapReg_iff (n : Nat) : trapReg n = true ↔ 0x18 ≤ n ∧ n ≤ 0x1F := by simp [trapReg]

theorem trapReg_false {n : Nat} (h : ¬ (0x18 ≤ n ∧ n ≤ 0x1F)) : trapReg n = false :=
  Bool.eq_false_iff.mpr fun e => h ((trapReg_iff n).mp e)

/-- The privilege check passes in supervisor mode, and for registers that are no trap registers. -/
theorem privileged_ok {s : State} {n : Nat} (h : s.g.mode = true ∨ ¬ (0x18 ≤ n ∧ n ≤ 0x1F)) : (s.g.mode || !trapReg n) = true := by
  rcases h with h | h
  · rw [h]; rfl
  · rw [trapReg_false h, Bool.not_false, Bool.or_true]

theorem privileged_fails {s : State} {n : Nat} (h : s.g.mode = false) (h1 : 0x18 ≤ n) (h2 : n ≤ 0x1F) :
    (s.g.mode || !trapReg n) = false := by
  rw [h, (trapReg_iff n).mpr ⟨h1, h2⟩]; rfl

/-- `srd` to a scalar, once its checks are passed. -/
theorem exec_srd_scal {f : VForm} {s : State} {d : Fin 64} (hd : f.d = .scal d) (h0 : f.a.specialNum ≠ 0)
    (hp : (s.g.mode || !trapReg f.a.specialNum) = true) :
    exec (.srd f) s = s.finish (.srd f)
      (.ok (.go (if s.g.groupExec f.g then s.setS d.val ⟨s.sysReg s.cur f.a.specialNum 0, 0⟩ else s))) := by
  have hops : f.d.vecOp (!narrowReg f.a.specialNum) = [] := by rw [hd]; rfl
  have hc := (srd_checks_iff f s).mpr ⟨by rw [hops]; exact fun o ho => absurd ho List.not_mem_nil, fun e => h0 e.2⟩
  have hv : s.checkVecs (s.g.execLanes f.g) [] = .ok () := rfl
  show execSrd f s = _
  simp only [execSrd, hc, hp, require, if_true]
  rw [hops, hv, hd]
  rfl

/-- `srd` to a vector register whose words can be used. -/
theorem exec_srd_vec {f : VForm} {s : State} {d : BitVec 8} (hd : f.d = .vec d)
    (hr : Readable s (s.g.execLanes f.g) (f.d.vecOp (!narrowReg f.a.specialNum))) (hp : (s.g.mode || !trapReg f.a.specialNum) = true) :
    exec (.srd f) s = s.finish (.srd f) (.ok (.go (s.setLanes d.toNat (!narrowReg f.a.specialNum)
      ((lanesOf (s.g.execLanes f.g)).map fun i => (i, ⟨s.sysReg s.cur f.a.specialNum i, 0⟩))))) := by
  have hc := (srd_checks_iff f s).mpr ⟨hr.1, fun e => by obtain ⟨⟨x, hx⟩, _⟩ := e; rw [hd] at hx; cases hx⟩
  show execSrd f s = _
  simp only [execSrd, hc, hp, require, if_true]
  rw [checkVecs_of_readable hr, hd]
  rfl

/-- An instruction that writes a scalar and falls through. -/
theorem givesScal_setS {i : Instr} {s : State} {n : Fin 64} {v : TVal} {o : Obs} (hq : Quiet s) (hn : nonIdempotent i = false)
    (h : exec i s = s.finish i (.ok (.go (s.setS n.val v) o))) : GivesScal i s (nextPc i s) n.val v := by
  have hk := setSreg_keeps s.g n.val v
  have hx : (s.setS n.val v).g = s.g.setSreg n.val v := State.g_setG _ _
  have hr : RegsOnly s (s.setS n.val v) := RegsOnly.setG _ _ (by rw [hk])
  obtain ⟨t, ht, he⟩ := finish_go s _ i o hr.cur (regsOnly_unwatched hr hq.1) (by rw [regsOnly_held hr]; exact hq.2)
  refine ⟨t, by rw [h, ht], he.retired hr (by rw [hn]; rfl), he.keepsVecs (keepsVecs_of rfl ?_ ?_ ?_), he.keepsPreds (keepsPreds_of ?_),
    he.keepsFp (keepsFp_of ?_ ?_), he.scalSet (scalSet_setS s n v)⟩
  all_goals rw [hx, hk]

/-- An instruction that writes lanes of a vector register and falls through. -/
theorem givesLanes_setLanes {i : Instr} {s : State} {n : Nat} {wide : Bool} {e : Lanes} {v : Nat → TVal} {o : Obs} (hq : Quiet s)
    (hn : nonIdempotent i = false)
    (h : exec i s = s.finish i (.ok (.go (s.setLanes n wide ((lanesOf e).map fun i => (i, v i))) o))) : GivesLanes i s n wide e v := by
  have hw := State.onlyWords_setLanes s n wide ((lanesOf e).map fun i => (i, v i))
  have hr := hw.regsOnly
  obtain ⟨t, ht, he⟩ := finish_go s _ i o hr.cur (regsOnly_unwatched hr hq.1) (by rw [regsOnly_held hr]; exact hq.2)
  refine ⟨t, by rw [h, ht], he.retired hr (by rw [hn]; rfl), he.keepsScals (keepsScals_of ?_), he.keepsMask ⟨?_, ?_⟩,
    he.keepsPreds (keepsPreds_of ?_), he.keepsFp (keepsFp_of ?_ ?_), he.vecSet (State.vecSet_setLanes s n wide e v)⟩
  all_goals rw [hw.g]

/-- An instruction that does nothing falls through. -/
theorem falls_self {i : Instr} {s : State} {o : Obs} (hq : Quiet s) (h : exec i s = s.finish i (.ok (.go s o))) : Falls i s s := by
  obtain ⟨t, ht, he⟩ := finish_go s s i o rfl hq.1 hq.2
  exact ⟨t, by rw [h, ht], he⟩

/-! ### `swr` (R373) -/

/-- `swr` has written register n, which then reads `w`: no other register has changed, nor anything beside. -/
def SwrWrites (f : VForm) (s : State) (n : Nat) (w : DWord) : Prop :=
  FallsWith (.swr f) s fun x => x = { s with groups := x.groups, ctxCores := x.ctxCores } ∧ OthersKept s x ∧ x.sysReg x.cur n 0 = w ∧
    (n ≠ 0x1F → x.g.finfo = s.g.finfo) ∧ ∀ m lane, m ≠ n → (n = 0x19 → m ≠ 0x1F) → x.sysReg x.cur m lane = s.sysReg s.cur m lane

/-- Does register m read as before when register n is written? FINFO is shown by the layout under CAUSE.CODE. -/
def keptBeside (n m : Nat) : Bool := m != n && !(n == 0x19 && m == 0x1F)

theorem keptBeside_of {n m : Nat} (h : m ≠ n) (h' : n = 0x19 → m ≠ 0x1F) : keptBeside n m = true := by
  by_cases hn : n = 0x19
  · subst hn
    simp [keptBeside, h, h' rfl]
  · simp [keptBeside, h, hn]

theorem lookup_filter {q : Nat → Bool} {m : Nat} (hq : q m = true) (l : List (Nat × DWord)) :
    (l.filter fun p => q p.1).lookup m = l.lookup m := by
  induction l with
  | nil => rfl
  | cons p l ih =>
    by_cases hp : q p.1 = true
    · rw [List.filter_cons, if_pos hp, List.lookup_cons, List.lookup_cons, ih]
    · have hne : (m == p.1) = false := beq_false_of_ne fun e => hp (e ▸ hq)
      rw [List.filter_cons, if_neg hp, ih, List.lookup_cons, hne]

/-- Lists that agree on the keys of a set look up the same at each of them. -/
theorem lookup_of_filter {q : Nat → Bool} {m : Nat} {l l' : List (Nat × DWord)} (hq : q m = true)
    (h : (l.filter fun p => q p.1) = l'.filter fun p => q p.1) : l.lookup m = l'.lookup m := by
  rw [← lookup_filter hq l, h, lookup_filter hq l']

theorem exec_swr_denied {f : VForm} {s : State} (h : (s.g.mode || !trapReg f.d.specialNum) = false) :
    Traps (.swr f) s .privilege 0 (.generic 0) s.g.mask := by
  show execSwr f s = _
  simp only [execSwr, h, require]
  rfl

theorem exec_swr_idle {f : VForm} {s : State} (hp : (s.g.mode || !trapReg f.d.specialNum) = true) (he : s.g.groupExec f.g = false) :
    exec (.swr f) s = s.finish (.swr f) (.ok (.go s)) := by
  show execSwr f s = _
  simp only [execSwr, hp, he, require]
  rfl

theorem exec_swr_ok {f : VForm} {s t : State} (hp : (s.g.mode || !trapReg f.d.specialNum) = true) (he : s.g.groupExec f.g = true)
    (hw : s.writeSys s.cur f.d.specialNum (s.s64 f.a) s.g.mode (s.g.execLanes f.g) = .ok t) :
    exec (.swr f) s = s.finish (.swr f) (.ok (.go t)) := by
  show execSwr f s = _
  simp only [execSwr, hp, he, hw, require]
  rfl

theorem exec_swr_bad {f : VForm} {s : State} {c : FCode} (hp : (s.g.mode || !trapReg f.d.specialNum) = true)
    (he : s.g.groupExec f.g = true)
    (hw : s.writeSys s.cur f.d.specialNum (s.s64 f.a) s.g.mode (s.g.execLanes f.g) = .error (trapGen c 0 (s.g.execLanes f.g))) :
    Traps (.swr f) s c 0 (.generic 0) (s.g.execLanes f.g) := by
  show execSwr f s = _
  simp only [execSwr, hp, he, hw, require]
  rfl

section

variable {f : VForm} {s : State} {n : Nat} {v w : DWord}

/-- A write of a register that the group holds. -/
theorem swrWrites_setG (hq : Quiet s) (hn : f.d.specialNum = n) (hv : s.s64 f.a = v) (hp : s.g.mode = true ∨ ¬ (0x18 ≤ n ∧ n ≤ 0x1F))
    (hge : s.g.groupExec f.g = true) (h : Group) (hex : s.writeSys s.cur n v s.g.mode (s.g.execLanes f.g) = .ok (s.setG h))
    (hr : OnlyRegs s.g h) (hw : (n, w) ∈ groupRegs h) (hf : n ≠ 0x1F → h.finfo = s.g.finfo)
    (hown : (groupRegs h).filter (fun p => keptBeside n p.1) = (groupRegs s.g).filter fun p => keptBeside n p.1) : SwrWrites f s n w := by
  have hg : (s.setG h).group s.cur = h := State.g_setG s h
  have hu : Unwatched (s.setG h) s.cur :=
    unwatched_of hq.1 rfl (by rw [hg, hr.eq]; rfl) (by rw [hg, hr.eq]; rfl)
  have hok : exec (.swr f) s = s.finish (.swr f) (.ok (.go (s.setG h))) :=
    exec_swr_ok (by rw [hn]; exact privileged_ok hp) hge (by rw [hn, hv]; exact hex)
  obtain ⟨t, ht, he⟩ := finish_go s (s.setG h) (.swr f) {} rfl hu (by rw [State.g_setG, hr.eq]; exact hq.2)
  refine ⟨s.setG h, ⟨t, by rw [hok, ht], he⟩, rfl, fun k hk => State.group_putGroup_other s h hk,
    sysReg_of_groupRegs 0 (by show _ ∈ groupRegs ((s.setG h).group s.cur); rw [hg]; exact hw),
    fun hn => by rw [State.g_setG]; exact hf hn, fun m lane hm h1f => ?_⟩
  refine sysReg_congr lane rfl ?_ ?_ rfl
  · show OnlyRegs s.g ((s.setG h).group s.cur)
    rw [hg]; exact hr
  · show (groupRegs ((s.setG h).group s.cur)).lookup m = _
    rw [hg]; exact lookup_of_filter (keptBeside_of hm h1f) hown

/-- A write of a register that the context has on the core. -/
theorem swrWrites_putCtxCore (hq : Quiet s) (hn : f.d.specialNum = n) (hv : s.s64 f.a = v) (hm : s.g.mode = true)
    (hge : s.g.groupExec f.g = true) (c : CtxCore)
    (hex : s.writeSys s.cur n v s.g.mode (s.g.execLanes f.g) = .ok (s.putCtxCore s.g.core s.g.asid c)) (hw : (n, w) ∈ coreRegs c)
    (hown : (coreRegs c).filter (fun p => keptBeside n p.1) = (coreRegs (s.ctxCore s.g.core s.g.asid)).filter fun p => keptBeside n p.1) :
    SwrWrites f s n w := by
  have hc : (s.putCtxCore s.g.core s.g.asid c).ctxCore s.g.core s.g.asid = c := Store.get_put_same ..
  have hok : exec (.swr f) s = s.finish (.swr f) (.ok (.go (s.putCtxCore s.g.core s.g.asid c))) :=
    exec_swr_ok (by rw [hn]; exact privileged_ok (Or.inl hm)) hge (by rw [hn, hv]; exact hex)
  obtain ⟨t, ht, he⟩ := finish_go s (s.putCtxCore s.g.core s.g.asid c) (.swr f) {} rfl hq.1 hq.2
  refine ⟨_, ⟨t, by rw [hok, ht], he⟩, rfl, fun _ _ => rfl, sysReg_of_coreRegs 0 (by rw [← hc] at hw; exact hw), fun _ => rfl,
    fun m lane hm h1f => ?_⟩
  refine sysReg_congr lane rfl ⟨rfl⟩ rfl ?_
  show (coreRegs ((s.putCtxCore s.g.core s.g.asid c).ctxCore s.g.core s.g.asid)).lookup m = _
  rw [hc]; exact lookup_of_filter (keptBeside_of hm h1f) hown

/-- A write that the register does not take faults in the executing lanes (log entry 15). -/
theorem swrTraps_of_error {c : FCode} (hn : f.d.specialNum = n) (hv : s.s64 f.a = v) (hp : s.g.mode = true ∨ ¬ (0x18 ≤ n ∧ n ≤ 0x1F))
    (hge : s.g.groupExec f.g = true)
    (hex : s.writeSys s.cur n v s.g.mode (s.g.execLanes f.g) = .error (trapGen c 0 (s.g.execLanes f.g))) :
    Traps (.swr f) s c 0 (.generic 0) (s.g.execLanes f.g) :=
  exec_swr_bad (by rw [hn]; exact privileged_ok hp) hge (by rw [hn, hv]; exact hex)

/-- The three ends of a write of a view register: a reserved bit, a view that does not fit, a view that does. -/
theorem swr_view (hq : Quiet s) (hn : f.d.specialNum = n) (hv : s.s64 f.a = v) (hp : ¬ (0x18 ≤ n ∧ n ≤ 0x1F))
    (hge : s.g.groupExec f.g = true) (h : Group) (fields fits : Bool)
    (hex : s.writeSys s.cur n v s.g.mode (s.g.execLanes f.g) = viewWrite fields fits (s.setG h) (s.g.execLanes f.g))
    (hr : OnlyRegs s.g h) (hw : (n, w) ∈ groupRegs h) (hf : h.finfo = s.g.finfo)
    (hown : (groupRegs h).filter (fun p => keptBeside n p.1) = (groupRegs s.g).filter fun p => keptBeside n p.1) :
    (fields = false → Traps (.swr f) s .reserved 0 (.generic 0) (s.g.execLanes f.g)) ∧
    (fields = true → fits = false → Traps (.swr f) s .operand 0 (.generic 0) (s.g.execLanes f.g)) ∧
    (fields = true → fits = true → SwrWrites f s n w) := by
  refine ⟨?_, ?_, ?_⟩
  · rintro rfl
    exact swrTraps_of_error hn hv (Or.inr hp) hge hex
  · rintro rfl rfl
    exact swrTraps_of_error hn hv (Or.inr hp) hge hex
  · rintro rfl rfl
    exact swrWrites_setG hq hn hv (Or.inr hp) hge h hex hr hw (fun _ => hf) hown

/-- The two ends of a write of an aperture base: it is aligned and canonical, or the write faults (R192). -/
theorem swr_base (hq : Quiet s) (hn : f.d.specialNum = n) (hv : s.s64 f.a = v) (hm : s.g.mode = true) (hge : s.g.groupExec f.g = true)
    (c : CtxCore) (k : Nat)
    (hex : s.writeSys s.cur n v s.g.mode (s.g.execLanes f.g) = if v.toNat % 2 ^ k = 0 && canonical v
      then .ok (s.putCtxCore s.g.core s.g.asid c) else .error (trapGen .reserved 0 (s.g.execLanes f.g)))
    (hw : (n, w) ∈ coreRegs c)
    (hown : (coreRegs c).filter (fun p => keptBeside n p.1) = (coreRegs (s.ctxCore s.g.core s.g.asid)).filter fun p => keptBeside n p.1) :
    (v.toNat % 2 ^ k = 0 → canonical v = true → SwrWrites f s n w) ∧
    (¬ (v.toNat % 2 ^ k = 0 ∧ canonical v = true) → Traps (.swr f) s .reserved 0 (.generic 0) (s.g.execLanes f.g)) := by
  have ok : (decide (v.toNat % 2 ^ k = 0) && canonical v) = true ↔ v.toNat % 2 ^ k = 0 ∧ canonical v = true := by
    rw [Bool.and_eq_true, decide_eq_true_eq]
  exact ⟨fun h h' => swrWrites_putCtxCore hq hn hv hm hge c (hex.trans (if_pos (ok.mpr ⟨h, h'⟩))) hw hown,
    fun h => swrTraps_of_error hn hv (Or.inl hm) hge (hex.trans (if_neg (mt ok.mp h)))⟩

end

/-- A register that user mode may not write keeps its value. -/
theorem writeSys_user {s : State} {k n : Nat} {v : DWord} {e : Lanes} (h : n ∉ [0x11, 0x20, 0x21, 0x22]) :
    s.writeSys k n v false e = .ok s := by
  unfold State.writeSys
  split
  all_goals simp at h
  rfl

/-- A register that no mode may write keeps its value. -/
theorem writeSys_readOnly {s : State} {k n : Nat} {v : DWord} {e : Lanes}
    (h : n ∉ [0x10, 0x11, 0x18, 0x19, 0x1A, 0x1B, 0x1C, 0x1D, 0x1E, 0x1F, 0x20, 0x21, 0x22, 0x28, 0x29, 0x2A, 0x31, 0x38]) :
    s.writeSys k n v true e = .ok s := by
  unfold State.writeSys
  split
  case h_5 =>
    rw [Bool.not_true, if_neg Bool.false_ne_true]
    split
    all_goals simp at h
    rfl
  all_goals simp at h

/-- `srd` faults OPERAND where its destination does not fit, and PRIVILEGE for a trap register in user mode. -/
theorem exec_srd_faults (f : VForm) (s : State) :
    let fits := (∀ o ∈ f.d.vecOp (!narrowReg f.a.specialNum), s.g.vecOk o = true) ∧ ¬ ((∃ d, f.d = .scal d) ∧ f.a.specialNum = 0)
    (¬ fits → Traps (.srd f) s .operand 0 (.generic 0) s.g.mask) ∧
    (fits → (s.g.mode || !trapReg f.a.specialNum) = false → Traps (.srd f) s .privilege 0 (.generic 0) s.g.mask) := by
  intro fits
  have hiff := srd_checks_iff f s
  constructor
  · intro h
    have hc := Bool.eq_false_iff.mpr fun e => h (hiff.mp e)
    show execSrd f s = _
    simp only [execSrd, hc, require]
    rfl
  · intro h hp
    show execSrd f s = _
    simp only [execSrd, hiff.mpr h, hp, require]
    rfl

/-- FINFO as it is read, in the terms of the statement (log entry 103). -/
theorem finfoShown_eq (g : Group) (v : DWord) :
    g.finfoShown v = v &&& BitVec.ofNat 64 (2 ^ (
      if (5 ≤ bitsAt g.cause.toNat 0 6 ∧ bitsAt g.cause.toNat 0 6 ≤ 0xA) ∨ bitsAt g.cause.toNat 0 6 = 0x15
        then (if v.toNat % 16 = 15 then 64 else 32)
      else if bitsAt g.cause.toNat 0 6 = 0xC then 13 else if bitsAt g.cause.toNat 0 6 = 0x17 then 18
      else if bitsAt g.cause.toNat 0 6 ∈ [0, 0x13, 0x14, 0x16] ∨ 0x18 ≤ bitsAt g.cause.toNat 0 6 then 64 else 27) - 1) := by
  simp [Group.finfoShown, finfoBits, or_assoc]

theorem privBits_eq (m d : Bool) : bitNat m + 2 * bitNat d = (if m then 1 else 0) + if d then 2 else 0 := by
  cases m <;> cases d <;> rfl

/-- The mode bit that a write of PRIV gives. -/
theorem bitNat_low (v : DWord) : bitNat (v.getLsbD 0) = v.toNat % 2 := by
  have h := Nat.mod_two_eq_zero_or_one v.toNat
  rw [BitVec.getLsbD, Nat.testBit_zero]
  rcases h with h | h <;> rw [h] <;> rfl

/-- What `swr` does in supervisor mode to the registers that user mode may not write. -/
theorem swr_supervisor {f : VForm} {s : State} {n : Nat} {v : DWord} (hq : Quiet s) (hn : f.d.specialNum = n) (hv : s.s64 f.a = v)
    (hm : s.g.mode = true) (he : s.g.groupExec f.g = true) :
    let low := (v.setWidth 32).setWidth 64
    let bad := Traps (.swr f) s .reserved 0 (.generic 0) (s.g.execLanes f.g)
    (n ∈ [0x10, 0x18, 0x1A, 0x1E] → SwrWrites f s n v) ∧
    (n = 0x1F → SwrWrites f s n (s.g.finfoShown v)) ∧ (n ∈ [0x1B, 0x1C, 0x1D] → SwrWrites f s n low) ∧
    (n = 0x19 → (v.toNat < 2 ^ 11 → SwrWrites f s n ((v &&& ~~~(0x400 : DWord)) ||| (s.g.cause &&& 0x400))) ∧ (2 ^ 11 ≤ v.toNat → bad)) ∧
    (∀ r ∈ [(0x28, 20), (0x29, 12), (0x2A, 31)], n = r.1 →
      (v.toNat % 2 ^ r.2 = 0 → canonical v = true → SwrWrites f s n v) ∧ (¬ (v.toNat % 2 ^ r.2 = 0 ∧ canonical v = true) → bad)) ∧
    (n = 0x31 → (v.toNat < 4 → SwrWrites f s n (BitVec.ofNat 64 (v.toNat % 2 + if s.g.dbg then 2 else 0))) ∧ (4 ≤ v.toNat → bad)) ∧
    (n = 0x38 → (v.toNat < 2 ^ 16 → SwrWrites f s n v) ∧ (2 ^ 16 ≤ v.toNat → bad)) := by
  intro low bad
  have hw : s.writeSys s.cur n v s.g.mode (s.g.execLanes f.g) = s.writeSys s.cur n v true (s.g.execLanes f.g) := by rw [hm]
  have group := fun {w : DWord} => swrWrites_setG (w := w) hq hn hv (Or.inl hm) he
  have fault := fun h => swrTraps_of_error (c := .reserved) hn hv (Or.inl hm) he (hw.trans h)
  refine ⟨?plain, ?finfo, ?masks, ?cause, ?bases, ?priv, ?ways⟩
  case plain =>
    intro h
    simp only [List.mem_cons, List.not_mem_nil, or_false] at h
    rcases h with rfl | rfl | rfl | rfl
    · exact group { s.g with retired := v } (hw.trans rfl) ⟨rfl⟩ (by simp [groupRegs]) (fun _ => rfl) rfl
    · exact group { s.g with trapBase := v } (hw.trans rfl) ⟨rfl⟩ (by simp [groupRegs]) (fun _ => rfl) rfl
    · exact group { s.g with epc := v } (hw.trans rfl) ⟨rfl⟩ (by simp [groupRegs]) (fun _ => rfl) rfl
    · exact group { s.g with faddr := v } (hw.trans rfl) ⟨rfl⟩ (by simp [groupRegs]) (fun _ => rfl) rfl
  case finfo =>
    rintro rfl
    exact group { s.g with finfo := v } (hw.trans rfl) ⟨rfl⟩ (by simp [groupRegs, Group.shownFinfo, Group.finfoShown])
      (fun h => absurd rfl h) rfl
  case masks =>
    intro h
    simp only [List.mem_cons, List.not_mem_nil, or_false] at h
    rcases h with rfl | rfl | rfl
    · exact group { s.g with ema := low } (hw.trans rfl) ⟨rfl⟩ (by simp [groupRegs]) (fun _ => rfl) rfl
    · exact group { s.g with emb := low } (hw.trans rfl) ⟨rfl⟩ (by simp [groupRegs]) (fun _ => rfl) rfl
    · exact group { s.g with emc := low } (hw.trans rfl) ⟨rfl⟩ (by simp [groupRegs]) (fun _ => rfl) rfl
  case cause =>
    rintro rfl
    refine ⟨fun h => ?_, fun h => fault (if_neg (by omega))⟩
    exact group { s.g with cause := (v &&& ~~~(0x400 : DWord)) ||| (s.g.cause &&& 0x400) } (hw.trans (if_pos h)) ⟨rfl⟩
      (by simp [groupRegs]) (fun _ => rfl) rfl
  case bases =>
    intro r hr
    simp only [List.mem_cons, List.not_mem_nil, or_false] at hr
    rcases hr with rfl | rfl | rfl <;> rintro rfl
    · exact swr_base hq hn hv hm he { s.ctxCore s.g.core s.g.asid with apscr := v } 20 (hw.trans rfl) (by simp [coreRegs]) rfl
    · exact swr_base hq hn hv hm he { s.ctxCore s.g.core s.g.asid with apstk := v } 12 (hw.trans rfl) (by simp [coreRegs]) rfl
    · exact swr_base hq hn hv hm he { s.ctxCore s.g.core s.g.asid with apstr := v } 31 (hw.trans rfl) (by simp [coreRegs]) rfl
  case priv =>
    rintro rfl
    refine ⟨fun h => ?_, fun h => fault (if_neg (by omega))⟩
    have hbits : v.toNat % 2 + (if s.g.dbg then 2 else 0) = bitNat (v.getLsbD 0) + 2 * bitNat s.g.dbg := by
      rw [bitNat_low]; cases s.g.dbg <;> rfl
    exact group { s.g with mode := v.getLsbD 0 } (hw.trans (if_pos h)) ⟨rfl⟩ (by rw [hbits]; simp [groupRegs]) (fun _ => rfl) rfl
  case ways =>
    rintro rfl
    refine ⟨fun h => ?_, fun h => fault (if_neg (by omega))⟩
    have hv16 : (v.setWidth 16).setWidth 64 = v := BitVec.eq_of_toNat_eq (by simp; omega)
    exact swrWrites_putCtxCore hq hn hv hm he { s.ctxCore s.g.core s.g.asid with ways := v.setWidth 16 } (hw.trans (if_pos h))
      (by simp [coreRegs, hv16]) rfl

/-- Settles O47: each register's write is a change of one field of the group or of its context on the core (`swrWrites_setG`,
`swrWrites_putCtxCore`), and each read its value. -/
theorem systemRegisters : Obligations.SystemRegisters := by
  intro f s hq g e code shown
  have hshown : ∀ v, shown v = g.finfoShown v := fun v => (finfoShown_eq g v).symm
  refine ⟨?faults, ?reads, ?values, ?writes⟩
  case faults =>
    obtain ⟨h1, h2⟩ := exec_srd_faults f s
    exact ⟨h1, fun hf hm ha hb => h2 hf (privileged_fails hm ha hb)⟩
  case reads =>
    rintro n rfl hp
    have hp' := privileged_ok hp
    refine ⟨fun d hd h0 => ⟨fun he => ?_, fun he => ?_⟩, fun d hd hr => ?_⟩
    · exact givesScal_setS hq rfl ((exec_srd_scal hd h0 hp').trans (by rw [if_pos he]))
    · exact falls_self hq ((exec_srd_scal hd h0 hp').trans (by rw [if_neg (by rw [he]; exact Bool.false_ne_true)]))
    · exact givesLanes_setLanes hq rfl (exec_srd_vec hd hr hp')
  case values =>
    intro lane r hr
    have hpriv : BitVec.ofNat 64 ((if g.mode then 1 else 0) + if g.dbg then 2 else 0) = BitVec.ofNat 64 (bitNat g.mode + 2 * bitNat g.dbg) := by
      rw [privBits_eq]
    rw [hshown, hpriv] at hr
    rcases List.mem_cons.mp hr with rfl | hr
    · rfl
    rcases List.mem_cons.mp hr with rfl | hr
    · rfl
    · exact sysReg_of_groupRegs lane hr
  case writes =>
    intro n v hn hv writes low bad
    refine ⟨?denied, ?idle, ?userReadOnly, fun he => ⟨?dix, ?viewV, ?viewT, ?viewA, fun hm => ?supervisor⟩⟩
    case denied =>
      intro hm h1 h2
      exact exec_swr_denied (by rw [hn]; exact privileged_fails hm h1 h2)
    case idle =>
      intro hp he
      exact falls_self hq (exec_swr_idle (by rw [hn]; exact privileged_ok hp) he)
    case userReadOnly =>
      intro hm hp hro
      have hp' : (s.g.mode || !trapReg f.d.specialNum) = true := by rw [hn]; exact privileged_ok (Or.inr hp)
      by_cases he : g.groupExec f.g = true
      · exact falls_self hq (exec_swr_ok hp' he (by rw [hn, show s.g.mode = false from hm]; exact writeSys_user hro))
      · exact falls_self hq (exec_swr_idle hp' (Bool.eq_false_iff.mpr he))
    case dix =>
      rintro rfl
      exact swrWrites_setG hq hn hv (Or.inr (by omega)) he { g with dix := v } rfl ⟨rfl⟩ (by simp [groupRegs]) (fun _ => rfl) rfl
    case viewV =>
      rintro rfl
      exact swr_view hq hn hv (by omega) he { g with viewV := v } _ _ rfl ⟨rfl⟩ (by simp [groupRegs]) rfl rfl
    case viewT =>
      rintro rfl
      exact swr_view hq hn hv (by omega) he { g with viewT := v } _ _ rfl ⟨rfl⟩ (by simp [groupRegs]) rfl rfl
    case viewA =>
      rintro rfl
      exact swr_view hq hn hv (by omega) he { g with viewA := v } _ _ rfl ⟨rfl⟩ (by simp [groupRegs]) rfl rfl
    case supervisor =>
      obtain ⟨hplain, hfinfo, hmasks, hcause, hbases, hprivw, hways⟩ := swr_supervisor hq hn hv hm he
      refine ⟨hplain, fun h => ?_, hmasks, hcause, hbases, hprivw, hways, fun hro => ?_⟩
      · rw [hshown]; exact hfinfo h
      · exact falls_self hq (exec_swr_ok (by rw [hn]; exact privileged_ok (Or.inl hm)) he
          (by rw [hn, show s.g.mode = true from hm]; exact writeSys_readOnly hro))

end Sys2Proof.Proofs
end

section
/-! SUPPORT. Tables, records and counters, as the device's events use them: a table mapped or filtered, the record that an engine sends,
a counter raised, and a 64-bit word of a wider register (O53, O54). -/

namespace Sys2Proof.Proofs

open Sys2Proof.Machine Sys2Proof.Safety Sys2Proof.Laws

/-! ### Tables -/

/-- In a table whose values are mapped, what holds of the default and between a value and its image holds of every entry. -/
theorem get_map {α : Type} {d : α} {f : Nat → α → α} {R : α → α → Prop} {a : Nat} (hd : R d d) (hf : ∀ x, R x (f a x)) (m : Sparse α) :
    R (Store.get d m a) (Store.get d (m.map fun p => (p.1, f p.1 p.2)) a) := by
  induction m with
  | nil => exact hd
  | cons p m ih =>
    obtain ⟨k, v⟩ := p
    by_cases h : a = k
    · subst h
      simpa [Store.get] using hf v
    · simpa [Store.get, h] using ih

/-- An entry is the default or is listed. -/
theorem get_eq_or_mem {α : Type} (d : α) (m : Sparse α) (a : Nat) : Store.get d m a = d ∨ (a, Store.get d m a) ∈ m := by
  induction m with
  | nil => exact .inl rfl
  | cons p m ih =>
    obtain ⟨k, v⟩ := p
    by_cases h : a = k
    · simp [Store.get, h]
    · simpa [Store.get, h] using ih

/-- A table filtered by its keys reads as before at a key that is kept, and as the default at any other. -/
theorem get_filter {α : Type} (d : α) (q : Nat → Bool) (m : Sparse α) (a : Nat) :
    Store.get d (m.filter fun p => q p.1) a = if q a then Store.get d m a else d := by
  induction m with
  | nil => simp
  | cons p m ih =>
    obtain ⟨k, v⟩ := p
    rw [List.filter_cons]
    by_cases h : a = k
    · subst h
      cases hq : q a
      · simp [ih, hq]
      · simp [Store.get]
    · cases hq : q k <;> simp [Store.get, h, ih]

@[simp] theorem queue_putQueue (s : State) (k m : Nat) (x : Queue) : (s.putQueue k x).queue m = if m = k then x else s.queue m :=
  Store.get_put ..

@[simp] theorem ctx_putCtx (s : State) (a b : BitVec 16) (c : Ctx) : (s.putCtx a c).ctx b = if b = a then c else s.ctx b := by
  unfold State.ctx State.putCtx
  rw [Store.get_put]
  simp [BitVec.toNat_inj]

/-! ### Counters (R6) -/

theorem bump_eq (s : State) (k n : Nat) : s.bump k n = { s with counts := (s.bump k n).counts } := rfl

/-- A counter below its greatest value counts one more. -/
theorem count_bump (s : State) (k : Nat) (h : (s.count k).toNat + 1 < 2 ^ 48) : (s.bump k).count k = s.count k + 1 := by
  unfold State.bump State.count
  rw [Store.get_put_same]
  change BitVec.ofNat 64 ((s.count k).toNat + 1) &&& 0xFFFFFFFFFFFF = s.count k + 1
  have hmask : ((0xFFFFFFFFFFFF : BitVec 64)).toNat = 2 ^ 48 - 1 := rfl
  apply BitVec.eq_of_toNat_eq
  rw [BitVec.toNat_and, hmask, Nat.and_two_pow_sub_one_eq_mod, BitVec.toNat_ofNat, BitVec.toNat_add,
    show (1 : BitVec 64).toNat = 1 from rfl]
  omega

/-! ### Records (R71, R342, R385) -/

theorem drain_jetOf (s : State) (die : Nat) : (s.drain die).jetOf die = (s.jetOf die).drop 1 := by
  unfold State.drain
  split
  · next h => rw [h]; rfl
  · next h => rw [h]; exact Store.get_put_same ..

/-- The tag with which an engine sends: its sequence has advanced by one. -/
theorem tagOf_sending (s : State) (e : Nat) :
    ((s.advance e).stampOn (engDie e)).tagOf e = s.device ++ BitVec.ofNat 12 e ++ (s.seqOf e + 1) := by
  have h : ((s.advance e).stampOn (engDie e)).seqOf e = s.seqOf e + 1 := Store.get_put_same ..
  unfold State.tagOf
  rw [h]
  rfl

/-- A record that is not dropped enters its buffer with the next tag of its engine. -/
theorem records_emit (s : State) {e code : Nat} (ctx : Option (BitVec 16)) (p : BitVec 96) (hc : droppable code = false) :
    Records s (s.emit e code ctx p) e code := by
  obtain ⟨-, hdev, hseqs, hbase⟩ := drain_frame s (engDie e)
  have hseq : (s.drain (engDie e)).seqOf e = s.seqOf e := by unfold State.seqOf; rw [hseqs, hbase]
  unfold Records
  simp only [State.emit, hc, Bool.and_false, Bool.false_eq_true, if_false]
  cases s.jetFull (engDie e)
  · exact ⟨_, Store.get_put_same .., rfl, rfl, tagOf_sending s e⟩
  · refine ⟨_, (Store.get_put_same ..).trans (congrArg (· ++ _) (drain_jetOf s _)), rfl, rfl, ?_⟩
    rw [← hdev, ← hseq]
    exact tagOf_sending (s.drain (engDie e)) e

/-- A record is seen from any two states with the same buffers, and the first with the same sequences. -/
theorem records_congr {s t s0 t0 : State} {e code : Nat} (h : Records s t e code) (hj : s0.jet = s.jet) (hd : s0.device = s.device)
    (hs : s0.seqs = s.seqs) (hb : s0.seqBase = s.seqBase) (ht : t0.jet = t.jet) : Records s0 t0 e code := by
  obtain ⟨r, hr, hcode, heng, htag⟩ := h
  refine ⟨r, ?_, hcode, heng, ?_⟩
  · unfold State.jetFull State.jetOf at *
    rw [ht, hj]
    exact hr
  · unfold State.seqOf at *
    rw [hd, hs, hb]
    exact htag

/-! ### Words of a wider register (R6) -/

/-- A word replaced: its bits are those of the word, every other bit is as before. -/
theorem getLsbD_putWord {w : Nat} (x : BitVec w) (n : Nat) (v : DWord) (i : Nat) (h : i < w) :
    (putWord x n v).getLsbD i = if i / 64 = n then v.getLsbD (i % 64) else x.getLsbD i := by
  unfold putWord
  simp only [BitVec.getLsbD_or, BitVec.getLsbD_and, BitVec.getLsbD_not, BitVec.getLsbD_shiftLeft, BitVec.getLsbD_setWidth,
    BitVec.getLsbD_allOnes, h, decide_true, Bool.true_and]
  have hlow : i - 64 * n < w := by omega
  by_cases hlt : i < 64 * n
  · rw [if_neg (by omega)]
    simp [hlt]
  · by_cases hin : i - 64 * n < 64
    · rw [if_pos (by omega), show i % 64 = i - 64 * n by omega]
      simp [hlt, hlow, hin]
    · rw [if_neg (by omega)]
      simp [hlt, hin, BitVec.getLsbD_of_ge v _ (by omega : 64 ≤ i - 64 * n)]

end Sys2Proof.Proofs
end

section
/-! SUPPORT. The host ports: doorbells, the enabling of queues, a port that fails and comes back, host writes and what a host reads
(O53). -/

namespace Sys2Proof.Proofs

open Sys2Proof.Machine Sys2Proof.Safety Sys2Proof.Laws

/-! ### Doorbells and queues (R298, R418) -/

theorem portServes_iff (s : State) (port : Nat) :
    s.portServes port = true ↔ port < 2 ∧ s.hostDown.contains port = false ∧ s.recovery = false := by
  simp [State.portServes, and_assoc]

theorem portServes_false {s : State} {port : Nat} (h : ¬ (port < 2 ∧ s.hostDown.contains port = false ∧ s.recovery = false)) :
    s.portServes port = false := Bool.eq_false_iff.mpr fun h' => h ((portServes_iff s port).mp h')

theorem exec_doorbellWrite_own {s : State} {port q : Nat} (tail : Word) (hup : s.portServes port = true) (hq : q < 2048)
    (hp : (s.queue q).port.toNat = port) :
    exec (.doorbellWrite port q tail) s = .next (s.putQueue q { s.queue q with tail := tail }) := by
  change Host.Outcome.next _ = _
  simp [hup, hp, Nat.not_le.mpr hq]

theorem exec_doorbellWrite_other {s : State} {port q : Nat} (tail : Word) (hup : s.portServes port = true) (hq : q < 2048)
    (hp : (s.queue q).port.toNat ≠ port) : exec (.doorbellWrite port q tail) s = .next (s.bump (ctrTask 11)) := by
  change Host.Outcome.next _ = _
  simp [hup, hp, Nat.not_le.mpr hq]

theorem exec_doorbellWrite_idle {s : State} {port q : Nat} (tail : Word) (h : s.portServes port = false ∨ 2048 ≤ q) :
    exec (.doorbellWrite port q tail) s = .next s := by
  change Host.Outcome.next _ = _
  rw [if_pos (by simpa using h)]

theorem exec_queueEnable {s : State} {q : Nat} (hr : s.recovery = false) (hq : q < 2048) :
    exec (.queueEnable q) s = .next (s.putQueue q (s.enabled (s.queue q))) := by
  change Host.Outcome.next _ = _
  simp [hr, Nat.not_le.mpr hq]

theorem exec_queueEnable_idle {s : State} {q : Nat} (h : s.recovery = true ∨ 2048 ≤ q) : exec (.queueEnable q) s = .next s := by
  change Host.Outcome.next _ = _
  rw [if_pos (by simpa using h)]

/-! ### A port that fails, and one that is up again (R419, R427) -/

/-- A queue of a port that has failed takes no record. -/
def haltOn (port : Nat) (x : Queue) : Queue := if x.port.toNat == port then { x with halted := true } else x

theorem haltOn_eq (port : Nat) (x : Queue) : ∃ b, haltOn port x = { x with halted := b } := by
  unfold haltOn
  split
  · exact ⟨true, rfl⟩
  · exact ⟨x.halted, rfl⟩

theorem halted_haltOn {port : Nat} {x : Queue} (h : (haltOn port x).port.toNat = port) : (haltOn port x).halted = true := by
  obtain ⟨b, hb⟩ := haltOn_eq port x
  have hp : x.port.toNat = port := by rw [hb] at h; exact h
  simp [haltOn, hp]

/-- The state in which a port's failure is recorded. -/
def portFailed (s : State) (port : Nat) : State :=
  { s with
    hostDown := port :: s.hostDown, queues := s.queues.map fun p => (p.1, haltOn port p.2)
    tstat := { s.tstat with ptm := s.tstat.ptm.filter fun p => p != port } }

theorem exec_hostPortFailure {s : State} {port : Nat} (hp : port < 2) (hd : s.hostDown.contains port = false) :
    exec (.hostPortFailure port) s = .next (((portFailed s port).emit engMgmt 0x0A none
      (faultPayload 0 0 0 (BitVec.ofNat 64 port) 0 false true false)).irq (1 - port) 63) := by
  change (if _ then _ else _) = _
  rw [if_neg (by simp [Nat.not_le.mpr hp, -List.contains_eq_mem, hd])]
  rfl

theorem exec_hostPortFailure_idle {s : State} {port : Nat} (h : 2 ≤ port ∨ s.hostDown.contains port = true) :
    exec (.hostPortFailure port) s = .next s := by
  change (if _ then _ else _) = _
  rw [if_pos (by simpa using h)]

/-- A port that fails: its queues halt, PTM on it ends, a record is sent and the other port hears of it. -/
theorem hostPortFailure_answers {s : State} {port : Nat} (hp : port < 2) (hd : s.hostDown.contains port = false) :
    Answers (.hostPortFailure port) s fun t =>
      t = { logged s t with hostDown := port :: s.hostDown, queues := t.queues, tstat := t.tstat, irqs := t.irqs } ∧
      (∀ p ∈ t.queues, p.2.port.toNat = port → p.2.halted = true) ∧
      (∀ m, ∃ b, t.queue m = { s.queue m with halted := b }) ∧ Records s t engMgmt 0x0A ∧
      (∃ l, t.tstat = { s.tstat with ptm := l } ∧ ∀ p, p ∈ l ↔ p ∈ s.tstat.ptm ∧ p ≠ port) ∧
      t.irqs = s.irqs ++ if s.hostDown.contains (1 - port) then [] else [(1 - port, 63)] := by
  refine ⟨_, exec_hostPortFailure hp hd, ?_⟩
  rw [irq_eq]
  have hother : (port :: s.hostDown).contains (1 - port) = s.hostDown.contains (1 - port) := by
    rw [List.contains_cons, beq_eq_false_iff_ne.mpr (by omega), Bool.false_or]
  have hrec := records_emit (portFailed s port) none (faultPayload 0 0 0 (BitVec.ofNat 64 port) 0 false true false)
    (e := engMgmt) (code := 0x0A) rfl
  obtain ⟨j, d, c, q, st, fc, n, he⟩ := emit_frame (portFailed s port) engMgmt 0x0A none
    (faultPayload 0 0 0 (BitVec.ofNat 64 port) 0 false true false)
  rw [he] at hrec ⊢
  refine ⟨rfl, ?_, ?_, records_congr hrec rfl rfl rfl rfl rfl, ⟨_, rfl, fun p => by simp⟩, congrArg (s.irqs ++ ·) ?_⟩
  · intro p hmem hport
    obtain ⟨p0, -, rfl⟩ := List.mem_map.mp hmem
    exact halted_haltOn hport
  · intro m
    exact get_map (d := Queue.empty) (f := fun _ => haltOn port) (R := fun x y => ∃ b, y = { x with halted := b }) ⟨false, rfl⟩
      (haltOn_eq port) s.queues
  · exact congrArg (fun b : Bool => if b then [] else [(1 - port, 63)]) hother

theorem hostLinkRetrain_answers (s : State) (port : Nat) :
    Answers (.hostLinkRetrain port) s fun t => t = { s with hostDown := t.hostDown } ∧ ∀ p, p ∈ t.hostDown ↔ p ∈ s.hostDown ∧ p ≠ port :=
  ⟨_, rfl, rfl, fun p => by simp⟩

/-! ### Host writes (R234, R235, R243) -/

/-- The bytes of a host write stand in HBM, and no other byte has changed. -/
def Delivered (s t : State) (addr : Nat) (data : List (BitVec 8)) : Prop :=
  (∀ i, i < data.length → t.hbm.byte (addr + i) = data.getD i 0) ∧
    ∀ a, ¬ (addr ≤ a ∧ a < addr + data.length) → t.hbm.byte a = s.hbm.byte a

theorem delivered_of_hbm {s t : State} {addr : Nat} {data : List (BitVec 8)} (h : t.hbm = s.hbm.setBytes addr data) :
    Delivered s t addr data := by
  refine ⟨fun i hi => ?_, fun a ha => ?_⟩
  · rw [h, Memory.byte_setBytes, if_pos (by omega), Nat.add_sub_cancel_left]
  · rw [h, Memory.byte_setBytes, if_neg ha]

/-- Units that are mended are no longer uncorrectable; nothing else changes. -/
theorem mendHome_eq (s : State) (pa n : Nat) :
    s.mendHome pa n = { s with poison := (s.mendHome pa n).poison } ∧ ∀ c ∈ (s.mendHome pa n).poison, c ∈ s.poison := by
  unfold State.mendHome
  dsimp only
  split
  · exact ⟨rfl, fun _ h => h⟩
  · exact ⟨rfl, fun _ h => (List.mem_filter.mp h).1⟩

/-- A host write that is performed changes HBM and what is uncorrectable there. -/
theorem hostBytes_eq (s : State) (addr : Nat) (data : List Byte) :
    s.hostBytes addr data = { s with hbm := s.hbm.setBytes addr data, poison := (s.hostBytes addr data).poison } ∧
      ∀ c ∈ (s.hostBytes addr data).poison, c ∈ s.poison :=
  mendHome_eq { s with hbm := s.hbm.setBytes addr data } addr data.length

theorem inputOwned_hostWrite (s : State) (port addr : Nat) (data : List (BitVec 8)) (relaxed : Bool) :
    (s.inputOwned (.hostWrite port addr data relaxed)).isSome = s.isOwned (.hbm addr) data.length true := by
  change (if _ then _ else _ : Option Nat).isSome = _
  cases s.isOwned (.hbm addr) data.length true <;> rfl

/-- A host write follows one of its own port, when it is not relaxed. -/
theorem follows_hostWrite_iff (port addr : Nat) (data : List (BitVec 8)) (relaxed : Bool) (j : Instr) :
    follows (.hostWrite port addr data relaxed) j = true ↔ relaxed = false ∧ ∃ a d r, j = .hostWrite port a d r := by
  constructor
  · intro h
    unfold follows at h
    split at h
    · next hi =>
      cases hi
      obtain ⟨hp, hr⟩ := (Bool.and_eq_true ..).mp h
      exact ⟨by simpa using hr, _, _, _, by rw [eq_of_beq hp]⟩
    · next hi => cases hi
    · cases h
  · rintro ⟨rfl, a, d, r, rfl⟩
    simp [follows]

/-- A host write waits for its line, and behind one of its port. -/
theorem mustHold_hostWrite_iff (s : State) (held : List Instr) (port addr : Nat) (data : List (BitVec 8)) (relaxed : Bool) :
    s.mustHold held (.hostWrite port addr data relaxed) = true ↔
      s.isOwned (.hbm addr) data.length true = true ∨ (relaxed = false ∧ ∃ a d r, Instr.hostWrite port a d r ∈ held) := by
  unfold State.mustHold
  rw [Bool.or_eq_true, inputOwned_hostWrite, List.any_eq_true]
  simp only [follows_hostWrite_iff]
  constructor
  · rintro (h | ⟨j, hj, hr, a, d, r, rfl⟩)
    · exact .inl h
    · exact .inr ⟨hr, a, d, r, hj⟩
  · rintro (h | ⟨hr, a, d, r, hj⟩)
    · exact .inl h
    · exact .inr ⟨_, hj, hr, a, d, r, rfl⟩

/-- An input that waits joins the inbox, and is counted at most. -/
theorem holdInput_eq (s : State) (i : Instr) : s.holdInput i = { s with inbox := s.inbox ++ [i], counts := (s.holdInput i).counts } := by
  unfold State.holdInput
  dsimp only
  split <;> rfl

section
variable {s : State} {port addr : Nat} {data : List (BitVec 8)} {relaxed : Bool}

theorem exec_hostWrite_idle (h : s.portServes port = false) : exec (.hostWrite port addr data relaxed) s = .next s := by
  change (if _ then _ else _) = _
  rw [if_pos (by simpa using h)]

theorem exec_hostWrite_absent (h : s.portServes port = true) (hin : ¬ addr + data.length ≤ Config.hbmBytes) :
    exec (.hostWrite port addr data relaxed) s = .fault .hbmAbsent := by
  change (if _ then _ else if _ then _ else _) = _
  rw [if_neg (by simp [h]), if_pos (by omega)]

theorem exec_hostWrite (h : s.portServes port = true) (hin : addr + data.length ≤ Config.hbmBytes) :
    exec (.hostWrite port addr data relaxed) s =
      .next (if s.mustHold s.inbox (.hostWrite port addr data relaxed) then s.holdInput (.hostWrite port addr data relaxed)
        else s.hostBytes addr data) := by
  change (if _ then _ else if _ then _ else _) = _
  rw [if_neg (by simp [h]), if_neg (by omega)]

/-- A host write that must wait joins the inbox. -/
theorem hostWrite_waits (h : s.portServes port = true) (hin : addr + data.length ≤ Config.hbmBytes)
    (hold : s.mustHold s.inbox (.hostWrite port addr data relaxed) = true) :
    Answers (.hostWrite port addr data relaxed) s fun t =>
      t = { s with inbox := s.inbox ++ [.hostWrite port addr data relaxed], counts := t.counts } := by
  refine ⟨_, exec_hostWrite h hin, ?_⟩
  rw [if_pos hold]
  exact holdInput_eq s _

/-- A host write that need not wait delivers its bytes. -/
theorem hostWrite_delivers (h : s.portServes port = true) (hin : addr + data.length ≤ Config.hbmBytes)
    (hold : ¬ s.mustHold s.inbox (.hostWrite port addr data relaxed) = true) :
    Answers (.hostWrite port addr data relaxed) s fun t =>
      t = { s with hbm := t.hbm, poison := t.poison } ∧ Delivered s t addr data ∧ ∀ c ∈ t.poison, c ∈ s.poison := by
  refine ⟨_, exec_hostWrite h hin, ?_⟩
  rw [if_neg hold]
  obtain ⟨he, hp⟩ := hostBytes_eq s addr data
  exact ⟨by rw [he], delivered_of_hbm (by rw [he]), hp⟩

/-- The one input that waits goes on waiting while an engine owns its line. -/
theorem serveWaiting_owned (hi : s.inbox = [.hostWrite port addr data relaxed]) (ho : s.isOwned (.hbm addr) data.length true = true) :
    s.serveWaiting = s := by
  have hown : (s.owned == []) = false := by
    rw [beq_eq_false_iff_ne]
    intro h
    simp [State.isOwned, h] at ho
  have hold : s.mustHold [] (.hostWrite port addr data relaxed) = true := (mustHold_hostWrite_iff ..).mpr (.inl ho)
  have hrel : State.releaseInputs [] s.inbox s = s := by
    rw [hi, State.releaseInputs, if_pos hold, State.releaseInputs, List.nil_append, ← hi]
  have hne : (s.inbox == []) = false := by rw [hi]; rfl
  simp [State.serveWaiting, hne, hrel, hown]

/-- The one input that waits is performed when its line is free. -/
theorem serveWaiting_free (hi : s.inbox = [.hostWrite port addr data relaxed]) (ho : s.isOwned (.hbm addr) data.length true = false) :
    s.serveWaiting.inbox = [] ∧ Delivered s s.serveWaiting addr data := by
  have hold : ¬ s.mustHold [] (.hostWrite port addr data relaxed) = true := by
    simp [mustHold_hostWrite_iff, ho]
  have hrel : State.releaseInputs [] s.inbox s = { s.hostBytes addr data with inbox := [] } := by
    rw [hi, State.releaseInputs, if_neg hold]
    rfl
  have hne : (s.inbox == []) = false := by rw [hi]; rfl
  have hbm : (s.hostBytes addr data).hbm = s.hbm.setBytes addr data := by rw [(hostBytes_eq s addr data).1]
  unfold State.serveWaiting
  simp only [hne, hrel, Bool.false_eq_true, if_false]
  split
  · exact ⟨rfl, delivered_of_hbm hbm⟩
  · exact ⟨rfl, delivered_of_hbm hbm⟩

end

/-! ### What a host reads (R417, R418, R421, R426) -/

theorem append_halves (a b : Word) : (a ++ b : DWord).extractLsb' 0 32 = b ∧ (a ++ b : DWord).extractLsb' 32 32 = a := by
  constructor
  · ext i hi
    rw [BitVec.getElem_extractLsb']
    exact (BitVec.getLsbD_append (x := a) (y := b) (i := 0 + i)).trans (by simp [hi])
  · ext i hi
    rw [BitVec.getElem_extractLsb']
    exact (BitVec.getLsbD_append (x := a) (y := b) (i := 32 + i)).trans (by simp [hi])

/-- A doorbell reads HEAD and TAIL. -/
theorem bar0Read_doorbell {s : State} {q : Nat} (hr : s.recovery = false) (hq : q < 2048) :
    ∃ v, s.bar0Read (8 * q) = some v ∧ v.extractLsb' 0 32 = (s.queue q).head ∧ v.extractLsb' 32 32 = (s.queue q).tail := by
  refine ⟨s.doorbellRead q, ?_, append_halves _ _⟩
  have hlt : 8 * q < bar0Bytes := by unfold bar0Bytes; omega
  simp [State.bar0Read, hlt, hr]

theorem length_recordImage (r : Record) : r.image.length = 32 := by
  simp [Record.image, length_leBytes]

/-- A byte of the Contrail window inside the store is the record's. -/
theorem contrailByte_record {s : State} {r : Record} {n j : Nat} (hr : s.recovery = false) (hn : s.contrail[n]? = some r) (hj : j < 32)
    (hwin : n < 2 ^ 30) (hp : BadCell.lpddr (32 * n + j) ∉ s.poison) : s.contrailByte (32 * n + j) = r.image[j]? := by
  have hin : ¬ bar4Bytes ≤ 32 * n + j := by unfold bar4Bytes; omega
  have hdiv : (32 * n + j) / 32 = n := by omega
  have hmod : (32 * n + j) % 32 = j := by omega
  have hlen : j < r.image.length := by rw [length_recordImage]; exact hj
  simp [State.contrailByte, hin, hr, hp, hdiv, hmod, hn, hlen]

theorem contrailByte_none {s : State} {a : Nat} (h : 32 * 2 ^ 30 ≤ a ∨ BadCell.lpddr a ∈ s.poison ∨ s.recovery = true) :
    s.contrailByte a = none := by
  unfold State.contrailByte
  rw [if_pos]
  rcases h with h | h | h
  · have hwin : bar4Bytes ≤ a := by unfold bar4Bytes; omega
    simp [hwin]
  · simp [h]
  · simp [h]

/-- In recovery nothing is shown. -/
theorem reads_in_recovery {s : State} (a : Nat) (hr : s.recovery = true) : s.bar0Read a = none ∧ s.contrailByte a = none ∧ s.tstatRead = 0 :=
  ⟨by simp [State.bar0Read, hr], contrailByte_none (.inr (.inr hr)), by simp [State.tstatRead, hr]⟩

/-! ### All steps of the host -/

/-- The clause of O53 on the host. -/
theorem hostSteps : Claim.HostSteps := by
  intro s port q addr tail data relaxed x up inside owned
  have hserves : ∀ h : up, s.portServes port = true := fun h => (portServes_iff s port).mpr h
  have hheld := mustHold_hostWrite_iff s s.inbox port addr data relaxed
  refine ⟨fun h hq hp => exec_doorbellWrite_own tail (hserves h) hq hp, fun h hq hp => ⟨_, exec_doorbellWrite_other tail (hserves h) hq hp,
      bump_eq .., count_bump s _⟩, fun h => exec_doorbellWrite_idle tail (h.imp_left portServes_false),
    fun h => exec_hostWrite_idle (portServes_false h), exec_queueEnable, exec_queueEnable_idle, hostPortFailure_answers,
    exec_hostPortFailure_idle, hostLinkRetrain_answers s port, ⟨fun h hin hw => hostWrite_waits (hserves h) hin (hheld.mpr hw),
      fun h hin ho hb => hostWrite_delivers (hserves h) hin fun hw => ?_, fun hi => ⟨serveWaiting_owned hi, serveWaiting_free hi⟩⟩,
    fun h hin => exec_hostWrite_absent (hserves h) hin, fun hr => ⟨bar0Read_doorbell hr, by simp [State.tstatRead, hr], fun r n j hn hj hwin hp =>
      contrailByte_record hr hn hj hwin hp⟩, reads_in_recovery addr, fun h => contrailByte_none (h.imp_right .inl)⟩
  rcases hheld.mp hw with hown | hbehind
  · exact Bool.false_ne_true (ho.symm.trans hown)
  · exact hb hbehind

end Sys2Proof.Proofs
end

section
/-! SUPPORT. The management window: what a write of each of its registers sets, and what reads back (O53). -/

namespace Sys2Proof.Proofs

open Sys2Proof.Machine Sys2Proof.Safety Sys2Proof.Laws

/-! ### A write outside recovery, and in it (R417, R421) -/

/-- Outside recovery a write answers with what it has set. -/
theorem answers_window {r : MgmtReg} {v : DWord} {s t : State} {p : State → Prop} (hr : s.recovery = false)
    (h : exec (.mgmtWindowWrite r v) s = .next (if s.recovery then s else t)) (hp : p t) : Answers (.mgmtWindowWrite r v) s p :=
  ⟨t, by rw [h, hr]; rfl, hp⟩

theorem window_in_recovery {s : State} (v : DWord) (r : MgmtReg) (hr : s.recovery = true) :
    exec (.mgmtWindowWrite r v) s = .next s ∧ s.mgmtRead r = 0 := by
  constructor
  · change Host.Outcome.next (if s.recovery then s else _) = _
    rw [if_pos hr]
  · unfold State.mgmtRead
    rw [if_pos hr]

/-! ### Queues and communicators (R298, R343) -/

/-- A queue whose EN is written keeps HEAD and FADDR, takes the written fields, and loses its error when EN goes from 0 to 1. -/
theorem writeQueue_control (s : State) (x : Queue) (v : DWord) :
    let y := s.writeQueue x 2 v
    y.head = x.head ∧ y.faddr = x.faddr ∧ y.asid = v.extractLsb' 0 16 ∧ y.log2n = v.extractLsb' 16 5 ∧ y.prio = v.extractLsb' 21 3 ∧
      y.port = v.getLsbD 24 ∧ y.en = v.getLsbD 25 ∧ (v.getLsbD 25 = true → x.en = false → y.err = 0) ∧
      (v.getLsbD 25 = false ∨ x.en = true → y.err = x.err) := by
  unfold State.writeQueue
  dsimp only
  cases hv : v.getLsbD 25
  · simp
  · cases hx : x.en
    · simp [State.enabled]
    · simp

/-- HEAD and FADDR of a queue are read-only. -/
theorem writeQueue_readOnly (s : State) (x : Queue) (w : Fin 4) (v : DWord) :
    (s.writeQueue x w.val v).head = x.head ∧ (s.writeQueue x w.val v).faddr = x.faddr := by
  match w with
  | 0 => exact ⟨rfl, rfl⟩
  | 1 => exact ⟨rfl, rfl⟩
  | 2 =>
    obtain ⟨hhead, hfaddr, -⟩ := writeQueue_control s x v
    exact ⟨hhead, hfaddr⟩
  | 3 => exact ⟨rfl, rfl⟩

/-- The sequences of a communicator are read-only. -/
theorem commWrite_readOnly (c : Comm) (w : Nat) (v : DWord) : (c.write w v).nextseq = c.nextseq ∧ (c.write w v).doneseq = c.doneseq := by
  unfold Comm.write
  split <;> exact ⟨rfl, rfl⟩

/-! ### Contexts (R307, R374, R391) -/

theorem mem_attachList {l : List (BitVec 16)} {a b : BitVec 16} (h : l.length < 16) : b ∈ attachList l a ↔ b = a ∨ b ∈ l := by
  unfold attachList
  split
  · next hc =>
    have hmem : a ∈ l := by simpa [Nat.not_le.mpr h] using hc
    exact ⟨.inr, fun h => h.elim (fun e => e ▸ hmem) id⟩
  · exact List.mem_cons

/-- What system software writes of a context concerns that context alone. -/
theorem writeCtx_frame (s : State) (a : BitVec 16) (item : CtxItem) (v : DWord) :
    s.writeCtx a item v = { s with ctxs := (s.writeCtx a item v).ctxs, ctxCores := (s.writeCtx a item v).ctxCores } ∧
      ∀ b, b ≠ a → (s.writeCtx a item v).ctx b = s.ctx b := by
  have hctx : ∀ c b, b ≠ a → (s.putCtx a c).ctx b = s.ctx b := fun c b hb => by rw [ctx_putCtx, if_neg hb]
  cases item with
  | aperture core which => exact ⟨rfl, fun _ _ => rfl⟩
  | create | remove | root | reserveNext | reserveEnd | home | homeSize | key => exact ⟨rfl, hctx _⟩

/-! ### Stratus (R271, R272) -/

theorem leBytes_dword (v : DWord) (i : Nat) (h : i < 8) : (leBytes 8 v.toNat).getD i 0 = v.extractLsb' (8 * i) 8 := by
  have h256 : 256 ^ i = 2 ^ (8 * i) := (Nat.pow_mul 2 8 i).symm
  rw [leBytes_getD _ _ _ h, h256]
  apply BitVec.eq_of_toNat_eq
  rw [BitVec.toNat_ofNat, BitVec.extractLsb'_toNat, Nat.shiftRight_eq_div_pow]

/-- A write to Stratus whose bank is not refreshed stores its eight bytes. -/
theorem writeStratus_stores {s : State} {off : Nat} (v : DWord) (h : s.inRefresh (.stratus off) = false) :
    let t := s.writeStratus off v
    t = { s with stratus := t.stratus, poison := t.poison } ∧ (∀ i, i < 8 → t.stratus.byte (off + i) = v.extractLsb' (8 * i) 8) ∧
      ∀ a, ¬ (off ≤ a ∧ a < off + 8) → t.stratus.byte a = s.stratus.byte a := by
  have hb : (s.writeStratus off v).stratus = s.stratus.setBytes off (leBytes 8 v.toNat) := by
    unfold State.writeStratus
    rw [h]
    rfl
  refine ⟨?_, fun i hi => ?_, fun a ha => ?_⟩
  · unfold State.writeStratus
    rw [h]
    rfl
  · rw [hb, Memory.byte_setBytes, length_leBytes, if_pos (by omega), Nat.add_sub_cancel_left, leBytes_dword v i hi]
  · rw [hb, Memory.byte_setBytes, length_leBytes, if_neg ha]

/-! ### What the window shows (R417) -/

theorem mgmtRead_dumpRequest {s : State} (hr : s.recovery = false) (a : BitVec 16) (w : Fin 8) :
    s.mgmtRead (.dumpRequest a w) = if w.val < 4 then (s.ctx a).dumpReq.extractLsb' (64 * w.val) 64
      else if w.val = 4 then (s.ctx a).dumpReq.extractLsb' 256 64 &&& 0xFFFF else 0 := by
  simp [State.mgmtRead, hr, dumpReqShown, getWord]

/-- What was written reads back. -/
theorem window_readBack {s : State} (v : DWord) (hr : s.recovery = false) (r : MgmtReg) (a : BitVec 16) (die : Fin 4)
    (h : r ∈ [MgmtReg.budget, .overflow, .overflowBase, .sampling die, .dumpMask a, .quantum a, .deferArea a, .context a .root]) :
    Answers (.mgmtWindowWrite r v) s fun t => t.mgmtRead r = v := by
  simp only [List.mem_cons, List.not_mem_nil, or_false] at h
  rcases h with rfl | rfl | rfl | rfl | rfl | rfl | rfl | rfl
  · exact answers_window (t := { s with budget := v }) hr rfl (by simp [State.mgmtRead, hr])
  · exact answers_window (t := { s with ovMax := v.toNat }) hr rfl (by simp [State.mgmtRead, hr])
  · exact answers_window (t := { s with ovBase := v.toNat }) hr rfl (by simp [State.mgmtRead, hr])
  · exact answers_window (t := { s with sampling := Store.put die.val v s.sampling }) hr rfl (by simp [State.mgmtRead, hr])
  · exact answers_window (t := s.putCtx a { s.ctx a with dump := v }) hr rfl (by simp [State.mgmtRead, hr])
  · exact answers_window (t := s.putCtx a { s.ctx a with quantum := v }) hr rfl (by simp [State.mgmtRead, hr])
  · exact answers_window (t := s.putCtx a { s.ctx a with deferMax := v.toNat }) hr rfl (by simp [State.mgmtRead, hr])
  · exact answers_window (t := s.putCtx a { s.ctx a with root := v }) hr rfl (by simp [State.mgmtRead, hr])

/-! ### All writes of the window -/

/-- The clause of O53 on the management window. -/
theorem windowWrites : Claim.WindowWrites := by
  intro s v writes
  refine ⟨fun hr r => window_in_recovery v r hr, fun hr => ⟨fun q w => ?_, fun c w => ?_, fun dev => ?_, fun a ha => ?_, fun a => ?_, fun a => ?_,
    fun a w => ?_, fun die => ?_, fun a => ?_, ?_, fun a => ?_, ?_, ?_, fun w hl => ?_, fun w hl => ?_, fun w hw => ?_, fun w hw => ?_, fun n => ?_,
    fun a item => ?_, window_readBack v hr, mgmtRead_dumpRequest hr, fun dev => ?_, fun n => ?_, fun a n => ?_⟩⟩
  · obtain ⟨hhead, hfaddr⟩ := writeQueue_readOnly s (s.queue q.val) w v
    refine answers_window (t := s.putQueue q.val (s.writeQueue (s.queue q.val) w.val v)) hr rfl ?_
    refine ⟨rfl, fun m hm => (queue_putQueue ..).trans (if_neg hm), ?_⟩
    rw [queue_putQueue, if_pos rfl]
    refine ⟨hhead, hfaddr, ?_, ?_, ?_, ?_⟩
    · rintro rfl; rfl
    · rintro rfl; rfl
    · rintro rfl; rfl
    · rintro rfl
      obtain ⟨-, -, hfields⟩ := writeQueue_control s (s.queue q.val) v
      exact hfields
  · obtain ⟨hnext, hdone⟩ := commWrite_readOnly (Store.get Comm.empty s.comms c.val) w.val v
    refine answers_window (t := { s with comms := Store.put c.val ((Store.get Comm.empty s.comms c.val).write w.val v) s.comms }) hr rfl ?_
    refine ⟨rfl, ?_⟩
    rw [Store.get_put_same]
    refine ⟨hnext, hdone, ?_, ?_, ?_⟩
    · rintro rfl; rfl
    · rintro rfl; rfl
    · rintro rfl; rfl
  · exact answers_window (t := { s with routes := Store.put dev.toNat (v.setWidth 16) s.routes }) hr rfl ⟨rfl, Store.get_put_same ..⟩
  · refine answers_window (t := s.putCtx a { s.ctx a with attach := attachList (s.ctx a).attach (v.setWidth 16) }) hr rfl ⟨rfl, fun b => ?_⟩
    rw [ctx_putCtx, if_pos rfl]
    exact mem_attachList ha
  · refine answers_window (t := s.putCtx a { s.ctx a with attach := (s.ctx a).attach.filter fun x => x != v.setWidth 16 }) hr rfl
      ⟨rfl, fun b => ?_⟩
    simp
  · exact answers_window (t := s.putCtx a { s.ctx a with dump := v }) hr rfl ⟨rfl, by simp⟩
  · refine answers_window (t := s.putCtx a { s.ctx a with dumpReq := putWord (s.ctx a).dumpReq w.val v }) hr rfl ⟨rfl, fun i hi => ?_⟩
    rw [ctx_putCtx, if_pos rfl]
    exact getLsbD_putWord _ _ _ _ hi
  · exact answers_window (t := { s with sampling := Store.put die.val v s.sampling }) hr rfl ⟨rfl, Store.get_put_same ..⟩
  · exact answers_window (t := s.putCtx a { s.ctx a with quantum := v }) hr rfl ⟨rfl, by simp⟩
  · exact answers_window hr rfl rfl
  · exact answers_window (t := s.putCtx a { s.ctx a with deferMax := v.toNat }) hr rfl ⟨rfl, by simp⟩
  · exact answers_window hr rfl rfl
  · exact answers_window hr rfl rfl
  · change Host.Outcome.next (if s.recovery then s else if s.life = 1 then _ else s) = _
    rw [hr, if_neg hl]; rfl
  · exact answers_window (t := { s with operKey := putWord s.operKey w.val v }) hr
      (by change Host.Outcome.next (if s.recovery then s else if s.life = 1 then _ else s) = _; rw [if_pos hl])
      ⟨rfl, fun i hi => getLsbD_putWord _ _ _ _ hi⟩
  · change Host.Outcome.next (if s.recovery then s else if _ then s else _) = _
    rw [hr, if_pos hw]; rfl
  · exact answers_window (t := s.writeStratus (8 * w.val) v) hr rfl (writeStratus_stores v hw)
  · refine answers_window (t := { s with counts := Store.erase n s.counts }) hr rfl ⟨rfl, ?_, fun m hm => ?_⟩
    · exact (Store.get_erase ..).trans (if_pos rfl)
    · exact (Store.get_erase ..).trans (if_neg hm)
  · exact answers_window (t := s.writeCtx a item v) hr rfl (writeCtx_frame s a item v)
  · simp [State.mgmtRead, hr]
  · simp [State.mgmtRead, hr]
  · simp [State.attachRead, hr]

/-- Settles O53: the clauses of the host and of the management window. -/
theorem hostAndWindow : Obligations.HostAndWindow := ⟨hostSteps, windowWrites⟩

end Sys2Proof.Proofs
end

section
/-! SUPPORT. The loss of a core: the steps by which a team ends with its core change no group but those that they end (O54). -/

namespace Sys2Proof.Proofs

open Sys2Proof.Machine Sys2Proof.Safety Sys2Proof.Laws

/-! ### What the launcher's steps leave of the groups (R299, R300, R302, R310, R311) -/

@[simp] theorem groups_bump (s : State) (k n : Nat) : (s.bump k n).groups = s.groups := rfl

@[simp] theorem groups_bumpBy (s : State) (k n : Nat) : (s.bumpBy k n).groups = s.groups := by
  unfold State.bumpBy
  split <;> rfl

@[simp] theorem groups_countVas (s : State) (core : Nat) (asid : BitVec 16) (vas : List DWord) : (s.countVas core asid vas).groups = s.groups := by
  simp [State.countVas]

@[simp] theorem groups_noteDie (s : State) (die : Nat) (asid : BitVec 16) (va : DWord) : (s.noteDie die asid va).groups = s.groups := by
  unfold State.noteDie
  split
  · rfl
  · split <;> rfl

@[simp] theorem groups_tlbNote (s : State) (core : Nat) (asid : BitVec 16) (va : DWord) : (s.tlbNote core asid va).groups = s.groups := by
  unfold State.tlbNote
  split
  · exact groups_noteDie ..
  · rfl

/-- A step of either of two kinds keeps the groups when both kinds do. -/
theorem groups_ite {c : Prop} [Decidable c] {x y s : State} (hx : x.groups = s.groups) (hy : y.groups = s.groups) :
    (if c then x else y).groups = s.groups := by
  split
  · exact hx
  · exact hy

/-- Steps that keep the groups keep them when folded over a list. -/
theorem groups_foldl {α : Type} {f : State → α → State} (h : ∀ s a, (f s a).groups = s.groups) (l : List α) (s : State) :
    (l.foldl f s).groups = s.groups := by
  induction l generalizing s with
  | nil => rfl
  | cons a l ih => rw [List.foldl_cons, ih, h]

@[simp] theorem groups_lxNote (s : State) (asid : BitVec 16) (va : DWord) : (s.lxNote asid va).groups = s.groups := by
  unfold State.lxNote State.noteVas
  rw [groups_foldl fun s a => groups_tlbNote s 0 asid a]
  exact groups_countVas ..

@[simp] theorem groups_setHomeByte (s : State) (l : Loc) (k : Nat) (b : Byte) : (s.setHomeByte l k b).groups = s.groups := by
  obtain ⟨_, _, _, _, h⟩ := setHomeByte_frame s l k b
  rw [h]

@[simp] theorem groups_lxPut (s : State) (asid : BitVec 16) (va : DWord) (bs : List Byte) : (s.lxPut asid va bs).groups = s.groups := by
  induction bs generalizing s va with
  | nil => rfl
  | cons b bs ih =>
    rw [State.lxPut, ih]
    split
    · split
      · exact groups_setHomeByte ..
      · rfl
    · rfl

@[simp] theorem groups_lxWrite (s : State) (asid : BitVec 16) (va : DWord) (n v : Nat) : (s.lxWrite asid va n v).groups = s.groups := by
  simp [State.lxWrite]

@[simp] theorem groups_putStatus (s : State) (t : Task) : (s.putStatus t).groups = s.groups := groups_lxWrite ..

@[simp] theorem groups_irq (s : State) (port vec : Nat) : (s.irq port vec).groups = s.groups := by rw [irq_eq]

@[simp] theorem groups_recDone (s : State) (q : Nat) (r : QRec) : (s.recDone q r).groups = s.groups := by
  unfold State.recDone
  dsimp only
  split
  · exact groups_irq ..
  · rfl

@[simp] theorem groups_graphCheck (s : State) (gk : Nat) : (s.graphCheck gk).groups = s.groups := by
  unfold State.graphCheck
  dsimp only
  split
  · rfl
  · split
    · exact (groups_recDone ..).trans (groups_ite rfl (groups_lxWrite ..))
    · exact groups_ite rfl (groups_lxWrite ..)

@[simp] theorem groups_graphFault (s : State) (gk code : Nat) (task : Word) : (s.graphFault gk code task).groups = s.groups := by
  unfold State.graphFault
  dsimp only
  split
  · rfl
  · split <;> rfl

@[simp] theorem groups_closeTask (s : State) (tk : Nat) (t : Task) : (s.closeTask tk t).groups = s.groups := rfl

@[simp] theorem groups_retireTeam (s : State) (k : Nat) : (s.retireTeam k).groups = s.groups := by
  unfold State.retireTeam
  dsimp only
  split <;> rfl

@[simp] theorem groups_settle (n k : Nat) (s : State) : (s.settle n k).groups = s.groups := by
  induction n generalizing k s with
  | zero => rfl
  | succ n ih =>
    rw [State.settle]
    refine groups_ite ?_ (groups_retireTeam s k)
    have hclosed := fun tk t =>
      ((groups_putStatus ((s.retireTeam k).closeTask tk t) t).trans (groups_closeTask ..)).trans (groups_retireTeam s k)
    exact (groups_graphCheck ..).trans ((groups_ite rfl (ih ..)).trans ((groups_ite rfl (groups_lxWrite ..)).trans (hclosed ..)))

@[simp] theorem groups_announce (s : State) (t : Task) : (s.announce t).groups = s.groups :=
  (groups_graphCheck ..).trans (groups_ite rfl (groups_settle ..))

@[simp] theorem groups_taskOfLost (s : State) (k : Nat) : (s.taskOfLost k).groups = s.groups := by
  unfold State.taskOfLost
  dsimp only
  split
  · simp
  · split
    · rfl
    · simp

@[simp] theorem groups_mxRelease (s : State) (p tk : Nat) : (s.mxRelease p tk).groups = s.groups := by
  unfold State.mxRelease
  split <;> rfl

@[simp] theorem groups_disown (s : State) (id : Nat) : (s.disown id).groups = s.groups := rfl

@[simp] theorem groups_releaseTeam (s : State) (k : Nat) : (s.releaseTeam k).groups = s.groups :=
  (groups_foldl (fun s (r : Ring) => groups_disown s r.tile) _ _).trans (groups_ite (groups_mxRelease ..) rfl)

/-- A team that ends with its core changes the groups as the freeing of its slots does. -/
theorem groups_loseTeam (s : State) (k : Nat) : (s.loseTeam k).groups = (s.killTeam k).groups := by
  unfold State.loseTeam
  simp [State.teamRecord]

theorem group_loseTeam (s : State) (k j : Nat) : (s.loseTeam k).group j = (s.killTeam k).group j := by
  unfold State.group
  rw [groups_loseTeam]

/-! ### The groups that a lost team leaves (R11, R310) -/

/-- No group has entered a slot, and those that are left are of their old team. -/
def Thinned (s t : State) : Prop := ∀ j, (t.group j).resident = true → (s.group j).resident = true ∧ (t.group j).team = (s.group j).team

/-- No group of a team is resident. -/
def Gone (s : State) (k : Nat) : Prop := ∀ j, (s.group j).resident = true → (s.group j).team ≠ k

theorem Thinned.refl (s : State) : Thinned s s := fun _ h => ⟨h, rfl⟩

theorem Thinned.trans {s t u : State} (h : Thinned s t) (h' : Thinned t u) : Thinned s u := fun j hj => by
  obtain ⟨hr, ht⟩ := h' j hj
  obtain ⟨hr', ht'⟩ := h j hr
  exact ⟨hr', ht.trans ht'⟩

theorem Gone.of_thinned {s t : State} {k : Nat} (h : Gone s k) (ht : Thinned s t) : Gone t k := fun j hj => by
  obtain ⟨hr, heq⟩ := ht j hj
  rw [heq]
  exact h j hr

/-- A resident group is listed. -/
theorem mem_groups_of_resident {s : State} {j : Nat} (h : (s.group j).resident = true) : (j, s.group j) ∈ s.groups := by
  rcases get_eq_or_mem Group.empty s.groups j with he | hm
  · rw [show s.group j = Group.empty from he] at h
    cases h
  · exact hm

/-- A group whose slot is freed, when its key is among those of a lost team. -/
def slotFreed (ks : List Nat) (j : Nat) (g : Group) : Group :=
  if ks.contains j then { g with
    resident := false, ended := true, active := false, regs := [], loads := [], acks := [], inflight := ⟨0, 0, 0, 0, 0, 0⟩ } else g

theorem slotFreed_spec (ks : List Nat) (j : Nat) (g : Group) : (slotFreed ks j g).team = g.team ∧
    ((slotFreed ks j g).resident = true → g.resident = true ∧ ks.contains j = false) := by
  unfold slotFreed
  split
  · exact ⟨rfl, fun h => nomatch h⟩
  · next hc => exact ⟨rfl, fun h => ⟨h, Bool.eq_false_iff.mpr hc⟩⟩

theorem killTeam_groups (s : State) (k : Nat) :
    (s.killTeam k).groups = s.groups.map fun p => (p.1, slotFreed ((s.teamGroups k).map fun p => p.1) p.1 p.2) := rfl

/-- What the freeing of a team's slots does to one group. -/
theorem group_killTeam (s : State) (k j : Nat) :
    ((s.killTeam k).group j).team = (s.group j).team ∧
      (((s.killTeam k).group j).resident = true → (s.group j).resident = true ∧ (s.group j).team ≠ k) := by
  obtain ⟨hteam, hfreed⟩ : ((s.killTeam k).group j).team = (s.group j).team ∧ (((s.killTeam k).group j).resident = true →
      (s.group j).resident = true ∧ ((s.teamGroups k).map fun p => p.1).contains j = false) := by
    unfold State.group
    rw [killTeam_groups]
    exact get_map (d := Group.empty) (R := fun x y => y.team = x.team ∧ (y.resident = true → x.resident = true ∧ _))
      ⟨rfl, fun h => nomatch h⟩ (slotFreed_spec _ j) s.groups
  refine ⟨hteam, fun hres => ⟨(hfreed hres).1, fun hk => ?_⟩⟩
  obtain ⟨hres0, hnot⟩ := hfreed hres
  have hmem : (j, s.group j) ∈ s.teamGroups k := by
    simp [State.teamGroups, mem_groups_of_resident hres0, hres0, hk]
  have hin : ((s.teamGroups k).map fun p => p.1).contains j = true := by
    rw [List.contains_iff_mem]
    exact List.mem_map.mpr ⟨_, hmem, rfl⟩
  rw [hin] at hnot
  cases hnot

theorem thinned_loseTeam (s : State) (k : Nat) : Thinned s (s.loseTeam k) := fun j hj => by
  rw [group_loseTeam] at hj ⊢
  obtain ⟨hteam, hres⟩ := group_killTeam s k j
  exact ⟨(hres hj).1, hteam⟩

theorem gone_loseTeam (s : State) (k : Nat) : Gone (s.loseTeam k) k := fun j hj => by
  rw [group_loseTeam] at hj ⊢
  obtain ⟨hteam, hres⟩ := group_killTeam s k j
  rw [hteam]
  exact (hres hj).2

/-- Of every team of a list that ends with its core no group is left. -/
theorem loseTeams_gone (ts : List Nat) (s : State) :
    Thinned s (ts.foldl (fun st k => st.loseTeam k) s) ∧ ∀ k ∈ ts, Gone (ts.foldl (fun st k => st.loseTeam k) s) k := by
  induction ts generalizing s with
  | nil => exact ⟨Thinned.refl s, fun _ h => nomatch h⟩
  | cons k ts ih =>
    obtain ⟨hthin, hgone⟩ := ih (s.loseTeam k)
    refine ⟨(thinned_loseTeam s k).trans hthin, fun j hj => ?_⟩
    rcases List.mem_cons.mp hj with rfl | hj
    · exact (gone_loseTeam s j).of_thinned hthin
    · exact hgone j hj

/-- In a table that lists every key once, an entry is what its key reads as. -/
theorem get_of_mem {α : Type} (d : α) {m : Sparse α} (h : m.Pairwise fun p q => p.1 < q.1) {p : Nat × α} (hp : p ∈ m) :
    Store.get d m p.1 = p.2 := by
  induction h with
  | nil => cases hp
  | cons hlt _ ih =>
    rcases List.mem_cons.mp hp with rfl | hp
    · simp [Store.get]
    · have hne := Nat.ne_of_gt (hlt p hp)
      simpa [Store.get, hne] using ih hp

/-! ### CORE_LOST (R11, R310) -/

/-- A team ends with its core: it is live, has a group there, and is not switched out. -/
def TeamHit (s : State) (core : Nat) (p : Nat × Team) : Prop :=
  p.2.live = true ∧ p.2.hasGroupOn core = true ∧ ∀ x ∈ s.saved, p.1 ∉ x.teams

/-- The core has a spare or is absent, its record is sent, what it held is gone, and the hosts know. -/
def coreGone (s : State) (core : Nat) : State := (((s.remap core).coreRecord core).clearCore core).deviceIrq

/-- The keys of the teams that end with a core. -/
def teamsHit (s : State) (core : Nat) : List Nat :=
  (s.teams.filter fun p => p.2.live && p.2.hasGroupOn core && !(s.saved.any fun x => x.teams.contains p.1)).map fun p => p.1

theorem mem_teamsHit {s : State} {core : Nat} {p : Nat × Team} (hp : p ∈ s.teams) (h : TeamHit s core p) : p.1 ∈ teamsHit s core := by
  obtain ⟨hlive, hon, hsaved⟩ := h
  refine List.mem_map.mpr ⟨p, List.mem_filter.mpr ⟨hp, ?_⟩, rfl⟩
  simpa [hlive, hon] using hsaved

theorem teamsHit_nil {s : State} {core : Nat} (h : ∀ p ∈ s.teams, ¬ TeamHit s core p) : teamsHit s core = [] := by
  unfold teamsHit
  rw [List.map_eq_nil_iff, List.filter_eq_nil_iff]
  intro p hp hc
  exact h p hp (by simpa [TeamHit, and_assoc] using hc)

theorem exec_coreLost {s : State} {core : Nat} (h : s.present core = true) :
    exec (.coreLost core) s = .next ((teamsHit s core).foldl (fun st k => st.loseTeam k) (coreGone s core)) := by
  change Host.Outcome.next (if _ then _ else _) = _
  rw [if_neg (by simp [h])]
  rfl

theorem exec_coreLost_absent {s : State} {core : Nat} (h : s.present core = false) : exec (.coreLost core) s = .next s := by
  change Host.Outcome.next (if _ then _ else _) = _
  rw [if_pos (by simp [h])]

theorem remap_eq (s : State) (core : Nat) :
    s.remap core = { s with spares := (s.remap core).spares, phys := (s.remap core).phys, absent := (s.remap core).absent } := by
  unfold State.remap
  dsimp only
  split <;> rfl

/-- What the loss of a core leaves, whatever records have changed. -/
theorem coreGone_eq (s : State) (core : Nat) : ∃ j d c q st fc n, coreGone s core =
    { State.clearCore { s with jet := j, drops := d, contrail := c, seqs := q, stamps := st, freeCtr := fc, counts := n
                               spares := (s.remap core).spares, phys := (s.remap core).phys, absent := (s.remap core).absent } core with
      irqs := s.irqs ++ (([0, 1] : List Nat).filter fun p => !s.hostDown.contains p).map fun p => (p, 63) } ∧
    Records s (coreGone s core) engMgmt 0x0A := by
  obtain ⟨j, d, c, q, st, fc, n, he⟩ : ∃ j d c q st fc n, (s.remap core).coreRecord core =
      { s.remap core with jet := j, drops := d, contrail := c, seqs := q, stamps := st, freeCtr := fc, counts := n } := emit_frame ..
  have hrec : Records (s.remap core) ((s.remap core).coreRecord core) engMgmt 0x0A := records_emit _ _ _ rfl
  unfold coreGone
  rw [deviceIrq_eq]
  rw [he, remap_eq] at hrec
  rw [he, remap_eq]
  exact ⟨j, d, c, q, st, fc, n, rfl, records_congr hrec rfl rfl rfl rfl rfl⟩

/-- No group of a team that ends with its core is left. -/
theorem coreLost_frees {s : State} {core : Nat} (h : s.present core = true) (hwf : GroupsWf s) :
    Answers (.coreLost core) s fun t =>
      ∀ p ∈ s.teams, TeamHit s core p → ∀ q ∈ s.groups, q.2.resident = true → q.2.team = p.1 → (t.group q.1).resident = false := by
  refine ⟨_, exec_coreLost h, fun p hp hhit q hq _ hteam => Bool.eq_false_iff.mpr fun hres => ?_⟩
  obtain ⟨hthin, hgone⟩ := loseTeams_gone (teamsHit s core) (coreGone s core)
  obtain ⟨-, hsame⟩ := hthin q.1 hres
  have hgroup : (coreGone s core).group q.1 = q.2 := by
    obtain ⟨_, _, _, _, _, _, _, he, -⟩ := coreGone_eq s core
    rw [he]
    exact get_of_mem Group.empty hwf hq
  apply hgone p.1 (mem_teamsHit hp hhit) q.1 hres
  rw [hsame, hgroup, hteam]

/-- The spare or the absence of a lost core. -/
theorem coreGone_number (s : State) {core : Nat} (h : s.present core = true) :
    (s.sparesUsed (core / 64) < 4 →
      (coreGone s core).present core = true ∧ (coreGone s core).physical core = 64 + s.sparesUsed (core / 64)) ∧
    (4 ≤ s.sparesUsed (core / 64) → (coreGone s core).present core = false) := by
  obtain ⟨_, _, _, _, _, _, _, he, -⟩ := coreGone_eq s core
  have hpresent : (coreGone s core).present core = (s.remap core).present core := by rw [he]; rfl
  have hphysical : (coreGone s core).physical core = (s.remap core).physical core := by rw [he]; rfl
  rw [hpresent, hphysical]
  unfold State.remap
  dsimp only
  constructor
  · intro hlt
    rw [if_pos hlt]
    refine ⟨h, ?_⟩
    unfold State.physical
    dsimp only
    rw [Store.get_put_same, show 65 + s.sparesUsed (core / 64) = (64 + s.sparesUsed (core / 64)) + 1 by omega]
  · intro hge
    rw [if_neg (by omega)]
    simp [State.present]

/-- With no team on the lost core, what is left and what is gone. -/
theorem coreLost_alone {s : State} {core : Nat} (h : s.present core = true) (hno : ∀ p ∈ s.teams, ¬ TeamHit s core p) :
    Answers (.coreLost core) s fun t =>
      (s.sparesUsed (core / 64) < 4 → t.present core = true ∧ t.physical core = 64 + s.sparesUsed (core / 64)) ∧
      (4 ≤ s.sparesUsed (core / 64) → t.present core = false) ∧ Records s t engMgmt 0x0A ∧ Claim.Notified s t ∧ t.groups = s.groups ∧
      t.hbm = s.hbm ∧ t.stratus = s.stratus ∧ t.accum = s.accum ∧ (∀ p ∈ t.l1, p.1 / 1024 ≠ core) ∧ (∀ p ∈ t.icache, p.1 ≠ core) ∧
      (∀ e ∈ t.l1tlb, e.unit ≠ core) ∧ (∀ n, n < 16 → t.antenna core n = Antenna.zero) ∧
      ∀ a, Store.get TWord.zero t.scratch a = if a / 131072 = core then TWord.zero else Store.get TWord.zero s.scratch a := by
  refine ⟨coreGone s core, by rw [exec_coreLost h, teamsHit_nil hno]; rfl, ?_⟩
  obtain ⟨hspare, habsent⟩ := coreGone_number s h
  refine ⟨hspare, habsent, ?_⟩
  obtain ⟨_, _, _, _, _, _, _, he, hrec⟩ := coreGone_eq s core
  refine ⟨hrec, ?_⟩
  rw [he]
  refine ⟨rfl, rfl, rfl, rfl, rfl, fun p hp => ?_, fun p hp => ?_, fun e he => ?_, fun n hn => ?_, fun a => ?_⟩
  · exact bne_iff_ne.mp (List.mem_filter.mp hp).2
  · exact bne_iff_ne.mp (List.mem_filter.mp hp).2
  · exact bne_iff_ne.mp (List.mem_filter.mp he).2
  · refine (get_filter Antenna.zero (fun k => k / 16 != core) s.ants (core * 16 + n)).trans (if_neg ?_)
    have hdiv : (core * 16 + n) / 16 = core := by omega
    simp [hdiv]
  · refine (get_filter TWord.zero (fun k => k / 131072 != core) s.scratch a).trans ?_
    by_cases ha : a / 131072 = core <;> simp [ha]

end Sys2Proof.Proofs
end

section
/-! SUPPORT. Errors that a check corrects or finds beyond correction, and the sparing of a pseudo-channel (O54). -/

namespace Sys2Proof.Proofs

open Sys2Proof.Machine Sys2Proof.Safety Sys2Proof.Laws

/-! ### Corrected errors (R426, R427) -/

/-- A corrected error counts at its hop and unit; one of HBM counts towards the sparing of its pseudo-channel. -/
theorem corrected_answers (s : State) (hop unit : Nat) : Answers (.correctedError hop (.corrected unit)) s fun t =>
    t = { s with counts := t.counts, chErrors := t.chErrors } ∧
      ((s.count (ctrCorrected hop unit)).toNat + 1 < 2 ^ 48 → t.count (ctrCorrected hop unit) = s.count (ctrCorrected hop unit) + 1) ∧
      ∀ n, Store.get 0 t.chErrors n = Store.get 0 s.chErrors n + if hop = 0 ∧ n = unit then 1 else 0 := by
  refine ⟨_, rfl, ?_⟩
  dsimp only
  by_cases hh : hop = 0
  · rw [if_pos hh]
    refine ⟨rfl, count_bump s _, fun n => (Store.get_put ..).trans ?_⟩
    by_cases hn : n = unit
    · simp [hn, hh]
    · simp [hn]
  · rw [if_neg hh]
    exact ⟨rfl, count_bump s _, fun n => by simp [hh, State.bump]⟩

/-! ### Data lost at a cell (R426) -/

/-- A cell marked uncorrectable. -/
def marked (s : State) (c : BadCell) : State := if s.poison.contains c then s else { s with poison := c :: s.poison }

theorem marked_spec (s : State) (c : BadCell) :
    marked s c = { s with poison := (marked s c).poison } ∧ ∀ d, d ∈ (marked s c).poison ↔ d = c ∨ d ∈ s.poison := by
  unfold marked
  split
  · next h =>
    have hmem : c ∈ s.poison := List.contains_iff_mem.mp h
    exact ⟨rfl, fun d => ⟨.inr, fun hd => hd.elim (fun e => e ▸ hmem) id⟩⟩
  · exact ⟨rfl, fun d => List.mem_cons⟩

theorem exec_lost (s : State) (hop : Nat) (x : ErrSite) : exec (.correctedError hop (.lost x)) s = .next (s.loseData x) := rfl

theorem lost_marks {s : State} {hop : Nat} {x : ErrSite} {c : BadCell} (h : s.loseData x = marked s c) :
    Answers (.correctedError hop (.lost x)) s fun t => t = { s with poison := t.poison } ∧ ∀ d, d ∈ t.poison ↔ d = c ∨ d ∈ s.poison :=
  ⟨marked s c, by rw [exec_lost, h], marked_spec s c⟩

theorem loseData_lpddr (s : State) (b : Nat) :
    s.loseData (.lpddr b) = if b < 32 * s.contrail.length then marked s (.lpddr b) else s := rfl

theorem loseData_l1 (s : State) (core pa : Nat) : s.loseData (.l1 core pa) = match s.l1Find core (pa / 128) with
    | some w => marked s (.l1 core pa (s.l1Way core (pa / 128) w).order)
    | none => s := rfl

/-- A byte of the Contrail store is marked where the store has one. -/
theorem lost_lpddr (s : State) (hop b : Nat) : Answers (.correctedError hop (.lost (.lpddr b))) s fun t => t = { s with poison := t.poison } ∧
    ∀ d, d ∈ t.poison ↔ (d = .lpddr b ∧ b < 32 * s.contrail.length) ∨ d ∈ s.poison := by
  by_cases hb : b < 32 * s.contrail.length
  · simpa [hb] using lost_marks (hop := hop) ((loseData_lpddr s b).trans (if_pos hb))
  · exact ⟨s, by rw [exec_lost, loseData_lpddr, if_neg hb], rfl, fun d => by simp [hb]⟩

/-- A byte of an L1 line is marked in the way that holds the line. -/
theorem lost_l1 {s : State} {core pa w : Nat} (hop : Nat) (h : s.l1Find core (pa / 128) = some w) :
    Answers (.correctedError hop (.lost (.l1 core pa))) s fun t => t = { s with poison := t.poison } ∧
      ∀ d, d ∈ t.poison ↔ d = .l1 core pa (s.l1Way core (pa / 128) w).order ∨ d ∈ s.poison :=
  lost_marks (by rw [loseData_l1, h])

theorem lost_l1_absent {s : State} {core pa : Nat} (hop : Nat) (h : s.l1Find core (pa / 128) = none) :
    exec (.correctedError hop (.lost (.l1 core pa))) s = .next s := by
  rw [exec_lost, loseData_l1, h]

/-! ### Data lost in a register (R207, R426) -/

theorem lost_register {s : State} {hop k : Nat} {x : ErrSite} {r : RegName} (h : s.loseData x = s.loseReg k r) :
    ((s.group k).resident = false → exec (.correctedError hop (.lost x)) s = .next s) ∧
      ((s.group k).resident = true → Answers (.correctedError hop (.lost x)) s fun t => t = { s with groups := t.groups } ∧
        (∀ m, m ≠ k → t.group m = s.group m) ∧ ∃ l, t.group k = { s.group k with lost := (s.group k).lost ++ [l] } ∧ l.reg = r ∧
          l.code = .dataLost) := by
  have hexec : exec (.correctedError hop (.lost x)) s = .next (s.loseReg k r) := by rw [exec_lost, h]
  constructor
  · intro hk
    rw [hexec]
    simp [State.loseReg, hk]
  · intro hk
    refine ⟨_, hexec, ?_⟩
    unfold State.loseReg
    dsimp only
    rw [if_neg (by simp [hk])]
    exact ⟨rfl, fun m hm => State.group_putGroup_other _ _ hm, _, State.group_putGroup_same .., rfl, rfl⟩

/-! ### The sparing of a pseudo-channel (R425, R427) -/

/-- A stack that has used its spare, and the channel's count again at zero. -/
def channelSpared (s : State) (stack channel : Nat) : State :=
  { s with chSpared := Store.put stack (channel + 1) s.chSpared, chErrors := Store.erase (channel % 256 + 256 * stack) s.chErrors }

theorem sparing_answers {s : State} {stack channel : Nat} (hs : stack < 12) (h0 : Store.get 0 s.chSpared stack = 0)
    (h16 : 16 ≤ Store.get 0 s.chErrors (channel % 256 + 256 * stack)) : Answers (.pseudoChannelSparing stack channel) s fun t =>
      t = { logged s t with chSpared := t.chSpared, chErrors := t.chErrors, irqs := t.irqs } ∧ Store.get 0 t.chSpared stack = channel + 1 ∧
      Store.get 0 t.chErrors (channel % 256 + 256 * stack) = 0 ∧ Records s t engMgmt 0x0A ∧ Claim.Notified s t := by
  have hexec : exec (.pseudoChannelSparing stack channel) s = .next ((channelSpared s stack channel).emit engMgmt 0x0A none
      (faultPayload 0 0 0 (BitVec.ofNat 64 (channel % 256 + 256 * stack)) 0 false true false)).deviceIrq := by
    change Host.Outcome.next (if _ then _ else _) = _
    rw [if_neg (by simp [h0, Nat.not_le.mpr hs, Nat.not_lt.mpr h16])]
    rfl
  refine ⟨_, hexec, ?_⟩
  have hrec := records_emit (channelSpared s stack channel) none
    (faultPayload 0 0 0 (BitVec.ofNat 64 (channel % 256 + 256 * stack)) 0 false true false) (e := engMgmt) (code := 0x0A) rfl
  obtain ⟨_, _, _, _, _, _, _, he⟩ := emit_frame (channelSpared s stack channel) engMgmt 0x0A none
    (faultPayload 0 0 0 (BitVec.ofNat 64 (channel % 256 + 256 * stack)) 0 false true false)
  rw [deviceIrq_eq]
  rw [he] at hrec ⊢
  exact ⟨rfl, Store.get_put_same .., (Store.get_erase ..).trans (if_pos rfl), records_congr hrec rfl rfl rfl rfl rfl, rfl⟩

theorem exec_sparing_idle {s : State} {stack channel : Nat}
    (h : 12 ≤ stack ∨ Store.get 0 s.chSpared stack ≠ 0 ∨ Store.get 0 s.chErrors (channel % 256 + 256 * stack) < 16) :
    exec (.pseudoChannelSparing stack channel) s = .next s := by
  change Host.Outcome.next (if _ then _ else _) = _
  rw [if_pos]
  simpa [or_assoc] using h

/-! ### All losses -/

/-- The clause of O54 on losses. -/
theorem losses : Claim.Losses := by
  intro s core hop unit stack channel k
  refine ⟨exec_coreLost_absent, coreLost_frees, coreLost_alone, corrected_answers s hop unit, fun x c hx => ?_, lost_lpddr s hop unit,
    fun w => lost_l1 hop, lost_l1_absent hop, fun x r hx => ?_, sparing_answers, exec_sparing_idle⟩
  · simp only [List.mem_cons, Prod.mk.injEq, List.not_mem_nil, or_false] at hx
    rcases hx with ⟨rfl, rfl⟩ | ⟨rfl, rfl⟩ | ⟨rfl, rfl⟩ | ⟨rfl, rfl⟩
    all_goals exact lost_marks rfl
  · simp only [List.mem_cons, Prod.mk.injEq, List.not_mem_nil, or_false] at hx
    rcases hx with ⟨rfl, rfl⟩ | ⟨rfl, rfl⟩ | ⟨rfl, rfl⟩ | ⟨rfl, rfl⟩
    all_goals exact lost_register rfl

end Sys2Proof.Proofs
end

section
/-! SUPPORT. Verified images, attestation, lifecycle, and what a reset and a power-on leave (O54). -/

namespace Sys2Proof.Proofs

open Sys2Proof.Machine Sys2Proof.Safety Sys2Proof.Laws

/-! ### Boot images (R421) -/

/-- An image verifies: it carries its digest, the digest of a key that may sign it, and a signature by that key. -/
theorem imageOk_iff (s : State) (n : Nat) (x : BootImage) : s.imageOk n x = true ↔ digestOf x.bytes = x.digest ∧
    (digestOf (imageKeyBytes x) = s.rootKey ∨ (n = 3 ∧ s.operKey ≠ 0 ∧ digestOf (imageKeyBytes x) = s.operKey)) ∧
    ecdsaVerify (some (x.keyX.toNat, x.keyY.toNat)) x.bytes x.sigR.toNat x.sigS.toNat = true := by
  unfold State.imageOk
  simp only [Bool.and_eq_true, Bool.or_eq_true, beq_iff_eq, bne_iff_ne, and_assoc]

/-- The four images verify. -/
theorem imagesOk_iff (s : State) (images : List BootImage) : s.imagesOk images = true ↔ images.length = 4 ∧
    ∀ n x, images[n]? = some x → digestOf x.bytes = x.digest ∧
      (digestOf (imageKeyBytes x) = s.rootKey ∨ (n = 3 ∧ s.operKey ≠ 0 ∧ digestOf (imageKeyBytes x) = s.operKey)) ∧
      ecdsaVerify (some (x.keyX.toNat, x.keyY.toNat)) x.bytes x.sigR.toNat x.sigS.toNat = true := by
  unfold State.imagesOk
  rw [Bool.and_eq_true, beq_iff_eq, List.all_eq_true]
  refine and_congr_right fun hlen => ⟨fun h n x hx => (imageOk_iff s n x).mp ?_, fun h n hn => ?_⟩
  · have hn : n < images.length := (List.getElem?_eq_some_iff.mp hx).1
    have hok := h n (List.mem_range.mpr (by omega))
    rw [hx] at hok
    exact hok
  · have hlt : n < images.length := by rw [hlen]; exact List.mem_range.mp hn
    rw [List.getElem?_eq_getElem hlt]
    exact (imageOk_iff s n _).mpr (h n _ (List.getElem?_eq_getElem hlt))

/-! ### Attestation (R422) -/

/-- The bytes of a report ahead of its signature. -/
def reportHead (r : Report) : List Byte :=
  leBytes 8 1 ++ leBytes 8 (r.devid.toNat + 2 ^ 16 * r.life.toNat) ++ leBytes 64 r.nonce.toNat
    ++ r.meas.flatMap (fun d => leBytes 64 d.toNat) ++ leBytes 8 r.resets.toNat

theorem length_measured (l : List (BitVec 512)) : (l.flatMap fun d => leBytes 64 d.toNat).length = 64 * l.length := by
  induction l with
  | nil => rfl
  | cons d l ih => rw [List.flatMap_cons, List.length_append, length_leBytes, ih, List.length_cons]; omega

/-- A signature covers the bytes ahead of it, when the report carries five measurements. -/
theorem signed_eq {r : Report} (h : r.meas.length = 5) : r.signed = reportHead r := by
  have himage : reportHead r <+: r.image :=
    (((List.prefix_append ..).trans (List.prefix_append ..)).trans (List.prefix_append ..)).trans (List.prefix_append ..)
  have hlen : (reportHead r).length = 0x198 := by
    simp only [reportHead, List.length_append, length_leBytes, length_measured, h]
  unfold Report.signed
  rw [← hlen]
  exact (List.prefix_iff_eq_take.mp himage).symm

theorem reportHead_signWith (r : Report) (key k : Nat) : reportHead (r.signWith key k) = reportHead r := rfl

/-- The signature of a signed report is that of its own bytes. -/
theorem signWith_signed {r : Report} (h : r.meas.length = 5) (key k : Nat) : (r.signWith key k).signed = r.signed :=
  (signed_eq (r := r.signWith key k) h).trans ((reportHead_signWith r key k).trans (signed_eq h).symm)

theorem one_lt_order : 1 < P521.order := by
  have hpow (k n : Nat) (h : 4 * k ≤ n) : 16 ^ k ≤ 2 ^ n := by
    rw [show 16 = 2 ^ 4 from rfl, ← Nat.pow_mul]
    exact Nat.pow_le_pow_right Nat.two_pos h
  have horder := hpow 65 521 (by decide)
  unfold P521.order
  generalize 2 ^ 521 = x at horder ⊢
  omega

theorem scalarOf_range (v : Nat) : 0 < scalarOf v ∧ scalarOf v < P521.order := by
  have horder := one_lt_order
  have hmod : v % (P521.order - 1) < P521.order - 1 := Nat.mod_lt v (by omega)
  unfold scalarOf
  omega

/-- The report of a request, before it is signed. -/
def unsignedReport (s : State) (nonce : BitVec 512) : Report :=
  { devid := s.device, life := s.life, nonce := nonce, meas := ((List.range 4).map fun i => s.meas.getD i 0) ++ [s.operKey]
    resets := s.resets, sigR := 0, sigS := 0 }

theorem exec_attestationRequest {s : State} (nonce : BitVec 512) (h : s.life ≠ 3) : exec (.attestationRequest nonce) s =
    .next { s.useFresh with attest := some ((unsignedReport s nonce).signWith Config.identityKey (s.fresh 528).toNat) } := by
  change Host.Outcome.next (if _ then _ else _) = _
  rw [if_neg h]
  rfl

theorem exec_attestationRequest_none {s : State} (nonce : BitVec 512) (h : s.life = 3) : exec (.attestationRequest nonce) s = .next s := by
  change Host.Outcome.next (if _ then _ else _) = _
  rw [if_pos h]

/-- A request is answered with a report of the device, signed with the identity key. -/
theorem attestation_answers {s : State} (nonce : BitVec 512) (h : s.life ≠ 3) : Answers (.attestationRequest nonce) s fun t =>
    t = { s with attest := t.attest, freeCtr := t.freeCtr } ∧
      ∃ r key n, t.attest = some r ∧ 0 < key ∧ key < P521.order ∧ 0 < n ∧ n < P521.order ∧ r.devid = s.device ∧ r.life = s.life ∧
        r.nonce = nonce ∧ r.resets = s.resets ∧ r.meas.length = 5 ∧ (∀ i, i < 4 → r.meas.getD i 0 = s.meas.getD i 0) ∧
        r.meas.getD 4 0 = s.operKey ∧ r.sigR = BitVec.ofNat 528 (ecdsaSign key n r.signed).1 ∧
        r.sigS = BitVec.ofNat 528 (ecdsaSign key n r.signed).2 := by
  obtain ⟨hkey, hkey'⟩ := scalarOf_range Config.identityKey
  obtain ⟨hk, hk'⟩ := scalarOf_range (s.fresh 528).toNat
  refine ⟨_, exec_attestationRequest nonce h, rfl, _, scalarOf Config.identityKey, scalarOf (s.fresh 528).toNat, rfl, hkey, hkey', hk, hk',
    rfl, rfl, rfl, rfl, rfl, fun i hi => ?_, rfl, ?_, ?_⟩
  · have hlen : ((List.range 4).map fun i => s.meas.getD i 0).length = 4 := rfl
    change (((List.range 4).map fun i => s.meas.getD i 0) ++ [s.operKey]).getD i 0 = _
    rw [List.getD_eq_getElem?_getD, List.getElem?_append_left (by omega)]
    simp [List.getD_eq_getElem?_getD, hi]
  · rw [signWith_signed rfl]
    rfl
  · rw [signWith_signed rfl]
    rfl

/-! ### Lifecycle (R423) -/

theorem lifeMay_iff (a b : BitVec 4) :
    lifeMay a b = true ↔ (a, b) ∈ [((0 : BitVec 4), (1 : BitVec 4)), (1, 2), (2, 3), (2, 1)] := by
  simp [lifeMay, or_assoc]

theorem lifecycle_answers {s : State} {target : BitVec 4} (h : lifeMay s.life target = true) : Answers (.lifecycleCommand target) s fun t =>
    t = { s with lifeNext := some target, irqs := t.irqs } ∧ Claim.Notified s t := by
  refine ⟨_, by change Host.Outcome.next (if _ then _ else _) = _; rw [if_pos h], ?_⟩
  rw [deviceIrq_eq]
  exact ⟨rfl, rfl⟩

theorem exec_lifecycleCommand_idle {s : State} {target : BitVec 4} (h : ¬ lifeMay s.life target = true) :
    exec (.lifecycleCommand target) s = .next s := by
  change Host.Outcome.next (if _ then _ else _) = _
  rw [if_neg h]

/-! ### Greatest values of a list -/

/-- The greatest of a value and those of a list. -/
theorem foldl_max {α : Type} {w : Nat} (f : α → BitVec w) (l : List α) (m : BitVec w) :
    let g := l.foldl (fun m a => if m < f a then f a else m) m
    m ≤ g ∧ (∀ a ∈ l, f a ≤ g) ∧ (g = m ∨ ∃ a ∈ l, g = f a) := by
  induction l generalizing m with
  | nil => exact ⟨BitVec.le_refl m, fun _ h => (nomatch h), .inl rfl⟩
  | cons a l ih =>
    rw [List.foldl_cons]
    obtain ⟨hle, hall, hwho⟩ := ih (if m < f a then f a else m)
    have hstep : m ≤ (if m < f a then f a else m) ∧ f a ≤ (if m < f a then f a else m) := by
      split
      · next h => exact ⟨BitVec.le_of_lt h, BitVec.le_refl _⟩
      · next h => exact ⟨BitVec.le_refl _, BitVec.not_lt.mp h⟩
    refine ⟨BitVec.le_trans hstep.1 hle, fun b hb => ?_, ?_⟩
    · rcases List.mem_cons.mp hb with rfl | hb
      · exact BitVec.le_trans hstep.2 hle
      · exact hall b hb
    · rcases hwho with h | ⟨b, hb, h⟩
      · rw [h]
        split
        · exact .inr ⟨a, List.mem_cons_self, rfl⟩
        · exact .inl rfl
      · exact .inr ⟨b, List.mem_cons_of_mem a hb, h⟩

/-- No sequence of a store is above its greatest, which is that of one of its records or zero. -/
theorem maxSeq_spec (l : List Record) : (∀ r ∈ l, (r.tag.setWidth 36 : BitVec 36) ≤ maxSeq l) ∧
    (maxSeq l = 0 ∨ ∃ r ∈ l, maxSeq l = r.tag.setWidth 36) := (foldl_max (fun r : Record => (r.tag.setWidth 36 : BitVec 36)) l 0).2

/-- No stamp is later than the latest time. -/
theorem stamp_le_latest (s : State) (d : Nat) : Store.get 0 s.stamps d ≤ s.latest := by
  obtain ⟨-, hall, -⟩ := foldl_max (fun p : Nat × DWord => p.2) s.stamps s.mgmtTime
  rcases get_eq_or_mem 0 s.stamps d with h | h
  · rw [h]
    exact BitVec.le_def.mpr (Nat.zero_le _)
  · exact hall _ h

/-! ### Bring-up (R431, R432) -/

/-- What bring-up leaves of the device. -/
def Wiped (s : State) (images : List BootImage) (t : State) : Prop :=
  t.groups = [] ∧ t.teams = [] ∧ t.queues = State.reset.queues ∧ t.comms = State.reset.comms ∧
    t.hbm = [] ∧ t.stratus = [] ∧ t.scratch = [] ∧ t.accum = [] ∧ t.ctxs = [] ∧ t.recovery = !s.imagesOk images ∧
    t.irqs = s.irqs ++ [(0, 63), (1, 63)] ∧ t.meas = images.map (fun x => x.digest) ∧ t.rootKey = s.rootKey ∧ t.operKey = s.operKey

theorem get_foldl_put {α : Type} (d : α) (f : Nat → α) (l : List Nat) (m : Sparse α) (a : Nat) :
    Store.get d (l.foldl (fun m k => Store.put k (f k) m) m) a = if a ∈ l then f a else Store.get d m a := by
  induction l generalizing m with
  | nil => simp
  | cons k l ih =>
    rw [List.foldl_cons, ih, Store.get_put]
    by_cases h : a = k
    · subst h; simp
    · simp [h]

section
variable (s : State) (images : List BootImage) (contrail : List Record) (top : BitVec 36) (time : DWord) (life : BitVec 4) (resets : DWord)

theorem bootUp_wiped : Wiped s images (s.bootUp images contrail top time life resets) := by
  unfold State.bootUp
  rw [deviceIrq_eq]
  exact ⟨rfl, rfl, rfl, rfl, rfl, rfl, rfl, rfl, rfl, rfl, rfl, rfl, rfl, rfl⟩

theorem bootUp_kept : let t := s.bootUp images contrail top time life resets
    t.life = life ∧ t.contrail = contrail ∧ t.resets = resets ∧ t.seqBase = top + 0x100000 ∧ t.mgmtTime = time := by
  unfold State.bootUp
  rw [deviceIrq_eq]
  exact ⟨rfl, rfl, rfl, rfl, rfl⟩

theorem bootUp_poison (c : BadCell) (h : c ∈ (s.bootUp images contrail top time life resets).poison) :
    c ∈ s.poison ∧ ∃ b, c = .lpddr b ∧ b < 32 * contrail.length := by
  unfold State.bootUp at h
  rw [deviceIrq_eq] at h
  obtain ⟨hmem, hkept⟩ := List.mem_filter.mp h
  refine ⟨hmem, ?_⟩
  cases c with
  | lpddr b => exact ⟨b, rfl, of_decide_eq_true hkept⟩
  | _ => cases hkept

theorem bootUp_stamps (d : Nat) (h : d < 4) : Store.get 0 (s.bootUp images contrail top time life resets).stamps d = time := by
  unfold State.bootUp
  rw [deviceIrq_eq]
  exact (get_foldl_put 0 (fun _ => time) (List.range 4) _ d).trans (if_pos (List.mem_range.mpr h))

end

theorem drainAll_contrail (s : State) : s.drainAll.contrail = s.contrail ++ s.jetOf 0 ++ s.jetOf 1 ++ s.jetOf 2 ++ s.jetOf 3 := rfl

theorem drainAll_wiped {s t : State} {images : List BootImage} (h : Wiped s.drainAll images t) : Wiped s images t := h

/-- After a reset the sequences start above those of the store, which its greatest does not exceed. -/
theorem seqBase_above {l : List Record} (h : ∀ r ∈ l, (r.tag.setWidth 36 : BitVec 36).toNat + 2 ^ 20 < 2 ^ 36) :
    ∀ r ∈ l, (r.tag.setWidth 36 : BitVec 36).toNat + 2 ^ 20 ≤ (maxSeq l + 0x100000).toNat := by
  obtain ⟨hall, hwho⟩ := maxSeq_spec l
  have hroom : (maxSeq l).toNat + 2 ^ 20 < 2 ^ 36 := by
    rcases hwho with h0 | ⟨r, hr, he⟩
    · rw [h0]; decide
    · rw [he]; exact h r hr
  intro r hr
  have hle := BitVec.le_def.mp (hall r hr)
  rw [BitVec.toNat_add, show ((0x100000 : BitVec 36)).toNat = 2 ^ 20 from rfl, Nat.mod_eq_of_lt hroom]
  exact Nat.add_le_add_right hle _

/-- A reset: the drained store is kept unless a lifecycle change wipes it. -/
theorem exec_deviceReset (s : State) (images : List BootImage) : exec (.deviceReset images) s = .next (match s.lifeNext with
    | some l => s.drainAll.bootUp images [] (maxSeq s.drainAll.contrail) s.drainAll.latest l (if l = 1 then 0 else s.resets + 1)
    | none => s.drainAll.bootUp images s.drainAll.contrail (maxSeq s.drainAll.contrail) s.drainAll.latest s.life (s.resets + 1)) := rfl

/-- What a reset leaves of cells and stamps, whatever store is kept. -/
theorem reset_cells_and_stamps (s : State) (images : List BootImage) (contrail : List Record) (top : BitVec 36) (life : BitVec 4) (resets : DWord) :
    let t := s.drainAll.bootUp images contrail top s.drainAll.latest life resets
    (∀ c ∈ t.poison, c ∈ s.poison ∧ ∃ b, c = .lpddr b ∧ b < 32 * t.contrail.length) ∧
      (∀ d, d < 4 → Store.get 0 s.stamps d ≤ Store.get 0 t.stamps d ∧ Store.get 0 t.stamps d = t.mgmtTime) := by
  intro t
  obtain ⟨-, hstore, -, -, htime⟩ := bootUp_kept s.drainAll images contrail top s.drainAll.latest life resets
  refine ⟨fun c hc => ?_, fun d hd => ?_⟩
  · rw [hstore]
    exact bootUp_poison s.drainAll images contrail top s.drainAll.latest life resets c hc
  · have hstamp := bootUp_stamps s.drainAll images contrail top s.drainAll.latest life resets d hd
    rw [hstamp, htime]
    exact ⟨stamp_le_latest s.drainAll d, rfl⟩

/-- A reset. -/
theorem deviceReset_answers (s : State) (images : List BootImage) : Answers (.deviceReset images) s fun t =>
    Wiped s images t ∧ t.life = s.lifeNext.getD s.life ∧
      (s.lifeNext = none → t.contrail = s.contrail ++ s.jetOf 0 ++ s.jetOf 1 ++ s.jetOf 2 ++ s.jetOf 3 ∧ t.resets = s.resets + 1 ∧
        ((∀ r ∈ t.contrail, (r.tag.setWidth 36 : BitVec 36).toNat + 2 ^ 20 < 2 ^ 36) →
          ∀ r ∈ t.contrail, (r.tag.setWidth 36 : BitVec 36).toNat + 2 ^ 20 ≤ t.seqBase.toNat)) ∧
      (s.lifeNext.isSome = true → t.contrail = []) ∧
      (∀ c ∈ t.poison, c ∈ s.poison ∧ ∃ b, c = .lpddr b ∧ b < 32 * t.contrail.length) ∧
      (∀ d, d < 4 → Store.get 0 s.stamps d ≤ Store.get 0 t.stamps d ∧ Store.get 0 t.stamps d = t.mgmtTime) := by
  refine ⟨_, exec_deviceReset s images, ?_⟩
  cases hl : s.lifeNext with
  | some l =>
    dsimp only
    obtain ⟨hlife, hstore, -⟩ := bootUp_kept s.drainAll images [] (maxSeq s.drainAll.contrail) s.drainAll.latest l
      (if l = 1 then 0 else s.resets + 1)
    exact ⟨drainAll_wiped (bootUp_wiped ..), hlife, fun h => (nomatch h), fun _ => hstore, reset_cells_and_stamps ..⟩
  | none =>
    dsimp only
    obtain ⟨hlife, hstore, hresets, hbase, -⟩ := bootUp_kept s.drainAll images s.drainAll.contrail (maxSeq s.drainAll.contrail) s.drainAll.latest
      s.life (s.resets + 1)
    refine ⟨drainAll_wiped (bootUp_wiped ..), hlife, fun _ => ⟨hstore.trans (drainAll_contrail s), hresets, ?_⟩, fun h => (nomatch h),
      reset_cells_and_stamps ..⟩
    rw [hstore, hbase]
    exact seqBase_above

/-- A power-on. -/
theorem powerOn_answers (s : State) (images : List BootImage) : Answers (.powerOn images) s fun t =>
    Wiped s images t ∧ t.life = s.lifeNext.getD s.life ∧ t.contrail = [] ∧ t.mgmtTime = 0 := by
  refine ⟨_, rfl, bootUp_wiped .., ?_⟩
  obtain ⟨hlife, hstore, -, -, htime⟩ := bootUp_kept s images [] 0 0 (s.lifeNext.getD s.life) (if s.lifeNext = some 1 then 0 else s.resets)
  exact ⟨hlife, hstore, htime⟩

/-! ### All of boot, identity and lifecycle -/

/-- The clause of O54 on boot and lifecycle. -/
theorem bootAndLife : Claim.BootAndLife := by
  intro s images nonce target
  exact ⟨imagesOk_iff s images, attestation_answers nonce, exec_attestationRequest_none nonce, fun h => lifecycle_answers ((lifeMay_iff ..).mpr h),
    fun h => exec_lifecycleCommand_idle fun h' => h ((lifeMay_iff ..).mp h'), deviceReset_answers s images, powerOn_answers s images⟩

/-- Settles O54: the clauses of losses and of boot, identity and lifecycle. -/
theorem deviceSteps : Obligations.DeviceSteps := ⟨losses, bootAndLife⟩

end Sys2Proof.Proofs
end
